-- ==== Sys2Proof/Word.lean ====
section
/-! DEFINITION. The word types of the machine: bytes, 32-bit register words, 64-bit addresses and lane masks. -/

namespace Sys2Proof

/-- One byte of memory. -/
abbrev Byte := BitVec 8

/-- One 32-bit register, instruction or literal word (R50, R213). -/
abbrev Word := BitVec 32

/-- One 64-bit value: an address, a register pair, a lane mask (R51, R107). -/
abbrev DWord := BitVec 64

end Sys2Proof
end

