-- ==== Sys2Proof/Syntax.lean ====
section
/-! DEFINITION. Instr: one constructor per row of the opcode table, the instructions with an encoding (R214 to R225) and the device steps without one. -/

namespace Sys2Proof

/-- The annotations of an R-, I- or L-form word (R8, R69): H, bits [5:4], and the stall count S, bits [3:0]. -/
structure Ann where
  h : BitVec 2
  s : BitVec 4
  deriving DecidableEq, Repr, Inhabited

/-- Every instruction and device step of the opcode table. Register fields are numbers of the file that R219 to R225
name for them; `n` is the annotation. A step without an encoding names what it acts on. -/
inductive Instr where
  /-- NOP (R235): Does nothing. -/
  | nop (ann : Ann)
  /-- YIELD (R235): Changes no state but resets the issuing split's ready age to zero. -/
  | yield (ann : Ann)
  /-- SETM (R56): Writes IMM24 into MODE[23:0], effective from the group's next instruction. -/
  | setm (i : BitVec 24)
  /-- SETMH (R56): Writes IMM24[7:0] into MODE[31:24], raising ILLEGAL if IMM24[23:1] is non-zero. -/
  | setmh (i : BitVec 24)
  /-- GETM (R236): Writes all 32 bits of MODE into an s register. -/
  | getm (d : BitVec 6) (ann : Ann)
  /-- GETS (R237): Writes the numbered special register into v[D] of each active lane. -/
  | gets (d : BitVec 6) (a : BitVec 6) (ann : Ann)
  /-- BRA_J (R238): Unconditional PC-relative branch in J form, dividing the split as R40 states. -/
  | braJ (o : BitVec 20) (s : BitVec 4)
  /-- BRA_L (R238): Conditional branch on a predicate with a literal word offset. -/
  | braL (pn : BitVec 1) (p : BitVec 3) (off : Word) (ann : Ann)
  /-- BRX (R239): Branches each active lane to the 64-bit address in its v pair. -/
  | brx (a : BitVec 6) (ann : Ann)
  /-- CALL (R240): PC-relative call that moves the register window by n and stores the return address. -/
  | call (n : BitVec 6) (off : Word) (ann : Ann)
  /-- CALLX (R240): Indirect call through each lane's v pair, moving the window by n. -/
  | callx (d : BitVec 6) (a : BitVec 6) (ann : Ann)
  /-- RET (R240): Returns each active lane to v63:v62 and moves the window back by n. -/
  | ret (d : BitVec 6) (ann : Ann)
  /-- EXIT (R241): Removes each active lane from its split; a group with no live lane leaves the crew. -/
  | exit (ann : Ann)
  /-- TRAP (R242): Raises the precise USER trap with an IMM6 code when any lane is active. -/
  | trap (i : BitVec 6) (ann : Ann)
  /-- BRK (R242): Raises the precise BREAK trap with an IMM6 code when any lane is active. -/
  | brk (i : BitVec 6) (ann : Ann)
  /-- WAIT (R243): Holds the split until the named pending scoreboarded results have landed. -/
  | wait (file : BitVec 2) (a : BitVec 6) (ann : Ann)
  /-- SLEEP (R244): Deschedules the split until pod time reaches the value in an s pair. -/
  | sleep (a : BitVec 6) (ann : Ann)
  /-- PHINT (R246): Pre-emption point naming live v registers and core-memory ranges; stops the group for saving if a request is pending and the group is convergent. -/
  | phint (r0 : BitVec 6) (r1 : BitVec 6) (lo : Word) (hi : Word) (ann : Ann)
  /-- IADD (R247): Typed integer addition brought into T by R233. -/
  | iadd (d : BitVec 6) (a : BitVec 6) (b : BitVec 6) (ann : Ann)
  /-- ISUB (R247): Typed integer subtraction. -/
  | isub (d : BitVec 6) (a : BitVec 6) (b : BitVec 6) (ann : Ann)
  /-- IADDC (R248): 32-bit add with carry in and carry out through a predicate. -/
  | iaddc (d : BitVec 6) (a : BitVec 6) (b : BitVec 6) (p : BitVec 3) (pn : BitVec 1) (ann : Ann)
  /-- IMUL (R247): Typed integer multiplication, low part. -/
  | imul (d : BitVec 6) (a : BitVec 6) (b : BitVec 6) (ann : Ann)
  /-- IMULH (R247): Typed integer multiplication, high part. -/
  | imulh (d : BitVec 6) (a : BitVec 6) (b : BitVec 6) (ann : Ann)
  /-- IMAD (R247): Typed integer multiply-add reading D as the addend. -/
  | imad (d : BitVec 6) (a : BitVec 6) (b : BitVec 6) (ann : Ann)
  /-- INEG (R247): Typed integer negation. -/
  | ineg (d : BitVec 6) (a : BitVec 6) (ann : Ann)
  /-- IABS (R247): Typed integer absolute value. -/
  | iabs (d : BitVec 6) (a : BitVec 6) (ann : Ann)
  /-- IMIN (R247): Typed integer minimum. -/
  | imin (d : BitVec 6) (a : BitVec 6) (b : BitVec 6) (ann : Ann)
  /-- IMAX (R247): Typed integer maximum. -/
  | imax (d : BitVec 6) (a : BitVec 6) (b : BitVec 6) (ann : Ann)
  /-- AND (R249): Bitwise AND of 32 bits. -/
  | and (d : BitVec 6) (a : BitVec 6) (b : BitVec 6) (ann : Ann)
  /-- OR (R249): Bitwise OR of 32 bits. -/
  | or (d : BitVec 6) (a : BitVec 6) (b : BitVec 6) (ann : Ann)
  /-- XOR (R249): Bitwise XOR of 32 bits. -/
  | xor (d : BitVec 6) (a : BitVec 6) (b : BitVec 6) (ann : Ann)
  /-- ANDN (R249): a AND NOT b. -/
  | andn (d : BitVec 6) (a : BitVec 6) (b : BitVec 6) (ann : Ann)
  /-- NOT (R249): Bitwise NOT. -/
  | not (d : BitVec 6) (a : BitVec 6) (ann : Ann)
  /-- SHL_R (R249): Logical left shift by a register count. -/
  | shlR (d : BitVec 6) (a : BitVec 6) (b : BitVec 6) (ann : Ann)
  /-- SHR_R (R249): Logical right shift by a register count. -/
  | shrR (d : BitVec 6) (a : BitVec 6) (b : BitVec 6) (ann : Ann)
  /-- SHA_R (R249): Arithmetic right shift by a register count. -/
  | shaR (d : BitVec 6) (a : BitVec 6) (b : BitVec 6) (ann : Ann)
  /-- ROL_R (R249): Rotate left by a register count. -/
  | rolR (d : BitVec 6) (a : BitVec 6) (b : BitVec 6) (ann : Ann)
  /-- SHL_I (R249): Logical left shift by an immediate count. -/
  | shlI (d : BitVec 6) (a : BitVec 6) (i : BitVec 5) (ann : Ann)
  /-- SHR_I (R249): Logical right shift by an immediate count. -/
  | shrI (d : BitVec 6) (a : BitVec 6) (i : BitVec 5) (ann : Ann)
  /-- SHA_I (R249): Arithmetic right shift by an immediate count. -/
  | shaI (d : BitVec 6) (a : BitVec 6) (i : BitVec 5) (ann : Ann)
  /-- ROL_I (R249): Rotate left by an immediate count. -/
  | rolI (d : BitVec 6) (a : BitVec 6) (i : BitVec 5) (ann : Ann)
  /-- FSH (R250): Right funnel shift of a v pair. -/
  | fsh (d : BitVec 6) (a : BitVec 6) (i : BitVec 5) (ann : Ann)
  /-- POPC (R249): Population count. -/
  | popc (d : BitVec 6) (a : BitVec 6) (ann : Ann)
  /-- CLZ (R249): Count leading zeros. -/
  | clz (d : BitVec 6) (a : BitVec 6) (ann : Ann)
  /-- BREV (R249): Bit reversal. -/
  | brev (d : BitVec 6) (a : BitVec 6) (ann : Ann)
  /-- BFX (R251): Bit-field extract with POS and LEN from the OL. -/
  | bfx (d : BitVec 6) (a : BitVec 6) (pos : BitVec 5) (len : BitVec 6) (ann : Ann)
  /-- BFI (R251): Bit-field insert with POS and LEN from the OL. -/
  | bfi (d : BitVec 6) (a : BitVec 6) (b : BitVec 6) (pos : BitVec 5) (len : BitVec 6) (ann : Ann)
  /-- BPERM (R252): Byte permutation by selector nibbles. -/
  | bperm (d : BitVec 6) (a : BitVec 6) (b : BitVec 6) (ann : Ann)
  /-- SEL (R253): Selects A or B per lane by a predicate. -/
  | sel (d : BitVec 6) (a : BitVec 6) (b : BitVec 6) (p : BitVec 3) (pn : BitVec 1) (ann : Ann)
  /-- ICMP (R253): Typed integer compare into a predicate. -/
  | icmp (d : BitVec 3) (a : BitVec 6) (b : BitVec 6) (fn : BitVec 4) (ann : Ann)
  /-- IADDI (R247): Typed integer add of a signed 6-bit immediate. -/
  | iaddi (d : BitVec 6) (a : BitVec 6) (i : BitVec 6) (ann : Ann)
  /-- MOV (R249): Register move. -/
  | mov (d : BitVec 6) (a : BitVec 6) (ann : Ann)
  /-- MOVI (R254): Moves a sign-extended 6-bit immediate. -/
  | movi (d : BitVec 6) (i : BitVec 6) (ann : Ann)
  /-- LIT (R254): Moves a 32-bit literal into v[D]. -/
  | lit (d : BitVec 6) (x : Word) (ann : Ann)
  /-- MOVS (R254): Broadcasts an s register into v[D] of active lanes. -/
  | movs (d : BitVec 6) (a : BitVec 6) (ann : Ann)
  /-- MOVV (R254): Copies v[A] of one named lane into an s register. -/
  | movv (d : BitVec 6) (a : BitVec 6) (i : BitVec 6) (ann : Ann)
  /-- LEA (R255): Computes a scaled 64-bit address. -/
  | lea (d : BitVec 6) (a : BitVec 6) (b : BitVec 6) (ann : Ann)
  /-- SADD (R256): Scalar addition. -/
  | sadd (d : BitVec 6) (a : BitVec 6) (b : BitVec 6) (ann : Ann)
  /-- SSUB (R256): Scalar subtraction. -/
  | ssub (d : BitVec 6) (a : BitVec 6) (b : BitVec 6) (ann : Ann)
  /-- SMUL (R256): Scalar multiplication. -/
  | smul (d : BitVec 6) (a : BitVec 6) (b : BitVec 6) (ann : Ann)
  /-- SAND (R256): Scalar bitwise AND. -/
  | sand (d : BitVec 6) (a : BitVec 6) (b : BitVec 6) (ann : Ann)
  /-- SOR (R256): Scalar bitwise OR. -/
  | sor (d : BitVec 6) (a : BitVec 6) (b : BitVec 6) (ann : Ann)
  /-- SXOR (R256): Scalar bitwise XOR. -/
  | sxor (d : BitVec 6) (a : BitVec 6) (b : BitVec 6) (ann : Ann)
  /-- SSHL (R256): Scalar logical left shift. -/
  | sshl (d : BitVec 6) (a : BitVec 6) (b : BitVec 6) (ann : Ann)
  /-- SSHR (R256): Scalar logical right shift. -/
  | sshr (d : BitVec 6) (a : BitVec 6) (b : BitVec 6) (ann : Ann)
  /-- SCMP (R257): Scalar S32 compare written into a predicate of every lane of the split. -/
  | scmp (d : BitVec 3) (a : BitVec 6) (b : BitVec 6) (fn : BitVec 4) (ann : Ann)
  /-- SMOV_S_S (R256): Moves an s register to an s register. -/
  | smovSS (d : BitVec 6) (a : BitVec 6) (ann : Ann)
  /-- SMOV_F_S (R256): Moves an s register into an f register, unchecked. -/
  | smovFS (d : BitVec 3) (a : BitVec 6) (ann : Ann)
  /-- SMOV_S_F (R256): Moves an f register into an s register. -/
  | smovSF (d : BitVec 6) (a : BitVec 3) (ann : Ann)
  /-- SLIT_S (R256): Writes a literal into an s register. -/
  | slitS (d : BitVec 6) (x : Word) (ann : Ann)
  /-- SLIT_F (R256): Writes a literal into an f register. -/
  | slitF (d : BitVec 3) (x : Word) (ann : Ann)
  /-- PAND (R258): Predicate AND. -/
  | pand (d : BitVec 3) (a : BitVec 3) (b : BitVec 3) (ann : Ann)
  /-- POR (R258): Predicate OR. -/
  | por (d : BitVec 3) (a : BitVec 3) (b : BitVec 3) (ann : Ann)
  /-- PXOR (R258): Predicate XOR. -/
  | pxor (d : BitVec 3) (a : BitVec 3) (b : BitVec 3) (ann : Ann)
  /-- PNOT (R258): Predicate NOT. -/
  | pnot (d : BitVec 3) (a : BitVec 3) (ann : Ann)
  /-- PMOV (R258): Predicate move. -/
  | pmov (d : BitVec 3) (a : BitVec 3) (ann : Ann)
  /-- SHFL (R260): Reads A from a source lane chosen per lane. -/
  | shfl (d : BitVec 6) (a : BitVec 6) (b : BitVec 6) (ann : Ann)
  /-- VOTE (R261): Writes a 64-bit ballot of a predicate over the active set. -/
  | vote (d : BitVec 6) (a : BitVec 3) (ann : Ann)
  /-- LRED (R262): Reduces active lanes in ascending order into one scalar. -/
  | lred (d : BitVec 6) (a : BitVec 6) (i : BitVec 6) (ann : Ann)
  /-- LSCAN (R262): Inclusive or exclusive scan over active lanes. -/
  | lscan (d : BitVec 6) (a : BitVec 6) (i : BitVec 6) (ann : Ann)
  /-- MATCH (R263): Writes the lowest active lane id holding an equal value. -/
  | matchV (d : BitVec 6) (a : BitVec 6) (ann : Ann)
  /-- COMPACT (R264): Moves active lanes' values to the front of the split. -/
  | compact (d : BitVec 6) (a : BitVec 6) (ann : Ann)
  /-- REGROUP (R46): Rendezvous that fuses two groups of a crew into the receiver, or fails. -/
  | regroup (d : BitVec 3) (a : BitVec 6) (b : BitVec 6) (ann : Ann)
  /-- FADD (R268): Floating-point addition rounded once. -/
  | fadd (d : BitVec 6) (a : BitVec 6) (b : BitVec 6) (ann : Ann)
  /-- FSUB (R268): Floating-point subtraction. -/
  | fsub (d : BitVec 6) (a : BitVec 6) (b : BitVec 6) (ann : Ann)
  /-- FMUL (R268): Floating-point multiplication. -/
  | fmul (d : BitVec 6) (a : BitVec 6) (b : BitVec 6) (ann : Ann)
  /-- FFMA (R268): Fused multiply-add rounded once, reading D. -/
  | ffma (d : BitVec 6) (a : BitVec 6) (b : BitVec 6) (ann : Ann)
  /-- FMIN (R269): IEEE minimum. -/
  | fmin (d : BitVec 6) (a : BitVec 6) (b : BitVec 6) (ann : Ann)
  /-- FMAX (R269): IEEE maximum. -/
  | fmax (d : BitVec 6) (a : BitVec 6) (b : BitVec 6) (ann : Ann)
  /-- FMINN (R269): IEEE minimumNumber. -/
  | fminn (d : BitVec 6) (a : BitVec 6) (b : BitVec 6) (ann : Ann)
  /-- FMAXN (R269): IEEE maximumNumber. -/
  | fmaxn (d : BitVec 6) (a : BitVec 6) (b : BitVec 6) (ann : Ann)
  /-- FABS (R270): Clears the sign bit of each element. -/
  | fabs (d : BitVec 6) (a : BitVec 6) (ann : Ann)
  /-- FNEG (R270): Inverts the sign bit of each element. -/
  | fneg (d : BitVec 6) (a : BitVec 6) (ann : Ann)
  /-- FCMP (R271): Floating-point compare into a predicate. -/
  | fcmp (d : BitVec 3) (a : BitVec 6) (b : BitVec 6) (fn : BitVec 4) (ann : Ann)
  /-- FRCP (R272): Correctly rounded reciprocal, scoreboarded. -/
  | frcp (d : BitVec 6) (a : BitVec 6) (ann : Ann)
  /-- FRSQ (R272): Correctly rounded reciprocal square root. -/
  | frsq (d : BitVec 6) (a : BitVec 6) (ann : Ann)
  /-- FSQRT (R272): Correctly rounded square root. -/
  | fsqrt (d : BitVec 6) (a : BitVec 6) (ann : Ann)
  /-- FEX2 (R272): Base-2 exponential within its error bound. -/
  | fex2 (d : BitVec 6) (a : BitVec 6) (ann : Ann)
  /-- FLG2 (R272): Base-2 logarithm within its error bound. -/
  | flg2 (d : BitVec 6) (a : BitVec 6) (ann : Ann)
  /-- FSIN (R272): Sine within its error bound. -/
  | fsin (d : BitVec 6) (a : BitVec 6) (ann : Ann)
  /-- FCOS (R272): Cosine within its error bound. -/
  | fcos (d : BitVec 6) (a : BitVec 6) (ann : Ann)
  /-- FTANH (R272): Hyperbolic tangent within its error bound. -/
  | ftanh (d : BitVec 6) (a : BitVec 6) (ann : Ann)
  /-- FSCL (R273): Scales a by 2^n and rounds. -/
  | fscl (d : BitVec 6) (a : BitVec 6) (b : BitVec 6) (ann : Ann)
  /-- FRND (R274): Rounds to an integral value of the same format. -/
  | frnd (d : BitVec 6) (a : BitVec 6) (ann : Ann)
  /-- FCLS (R275): Writes a one-hot class mask of the operand. -/
  | fcls (d : BitVec 6) (a : BitVec 6) (ann : Ann)
  /-- FCVT (R276): Converts from a float or narrow source type to MODE.ET. -/
  | fcvt (d : BitVec 6) (a : BitVec 6) (i : BitVec 5) (ann : Ann)
  /-- ICVT (R277): Converts from an integer source type to MODE.ET. -/
  | icvt (d : BitVec 6) (a : BitVec 6) (i : BitVec 5) (ann : Ann)
  /-- TSUM (R278): Exact two-sum of F32 values into a pair. -/
  | tsum (d : BitVec 6) (a : BitVec 6) (b : BitVec 6) (ann : Ann)
  /-- TPRD (R279): Exact two-product of F32 values into a pair. -/
  | tprd (d : BitVec 6) (a : BitVec 6) (b : BitVec 6) (ann : Ann)
  /-- CMUL (R280): Complex FP32 multiplication, each part rounded once. -/
  | cmul (d : BitVec 6) (a : BitVec 6) (b : BitVec 6) (ann : Ann)
  /-- CFMA (R281): Adds a complex product into a compensated quad accumulator. -/
  | cfma (d : BitVec 6) (a : BitVec 6) (b : BitVec 6) (ann : Ann)
  /-- DOT2 (R282): Two-element packed dot product rounded once to F32. -/
  | dot2 (d : BitVec 6) (a : BitVec 6) (b : BitVec 6) (ann : Ann)
  /-- H2ADD (R283): Packed pair addition. -/
  | h2add (d : BitVec 6) (a : BitVec 6) (b : BitVec 6) (ann : Ann)
  /-- H2MUL (R283): Packed pair multiplication. -/
  | h2mul (d : BitVec 6) (a : BitVec 6) (b : BitVec 6) (ann : Ann)
  /-- H2FMA (R283): Packed pair fused multiply-add. -/
  | h2fma (d : BitVec 6) (a : BitVec 6) (b : BitVec 6) (ann : Ann)
  /-- QBLK (R285): Forms block scales over the lanes, optionally permuted, into scale words. -/
  | qblk (d : BitVec 6) (a : BitVec 6) (b : BitVec 6) (ann : Ann)
  /-- QCVT (R287): Divides each source element by its block scale and converts to the narrow code. -/
  | qcvt (d : BitVec 6) (a : BitVec 6) (b : BitVec 6) (ann : Ann)
  /-- PLSPLIT (R288): Packs one plane of narrow codes into plane registers. -/
  | plsplit (d : BitVec 6) (a : BitVec 6) (i : BitVec 2) (ann : Ann)
  /-- PLJOIN (R289): Joins one more plane into partial narrow codes. -/
  | pljoin (d : BitVec 6) (a : BitVec 6) (b : BitVec 6) (ann : Ann)
  /-- LD_I (R294): Load with a scaled 6-bit offset, scoreboarded. -/
  | ldI (d : BitVec 6) (a : BitVec 6) (i : BitVec 6) (ann : Ann)
  /-- LD_L (R294): Load with a 32-bit literal byte offset. -/
  | ldL (d : BitVec 6) (a : BitVec 6) (off : Word) (ann : Ann)
  /-- ST_I (R294): Store with a scaled 6-bit offset into the store queue. -/
  | stI (d : BitVec 6) (a : BitVec 6) (i : BitVec 6) (ann : Ann)
  /-- ST_L (R294): Store with a 32-bit literal byte offset. -/
  | stL (d : BitVec 6) (a : BitVec 6) (off : Word) (ann : Ann)
  /-- LDL (R295): Loads one element through a layout handle with bounds checks. -/
  | ldl (d : BitVec 6) (a : BitVec 6) (b : BitVec 6) (ann : Ann)
  /-- STL (R295): Stores one element through a layout handle with bounds checks. -/
  | stl (d : BitVec 6) (a : BitVec 6) (b : BitVec 6) (ann : Ann)
  /-- ATOM (R296): Atomic read-modify-write returning the old value. -/
  | atom (d : BitVec 6) (a : BitVec 6) (b : BitVec 6) (fn : BitVec 4) (ann : Ann)
  /-- ATOMC (R297): Atomic compare-and-swap returning the old value. -/
  | atomc (d : BitVec 6) (a : BitVec 6) (b : BitVec 6) (ann : Ann)
  /-- RED (R296): Atomic reduction with no return value. -/
  | red (a : BitVec 6) (b : BitVec 6) (fn : BitVec 4) (ann : Ann)
  /-- FENCE (R298): Memory fence at MODE.ORD and MODE.SC. -/
  | fence (ann : Ann)
  /-- CCTL (R299): Prefetches or discards cache lines. -/
  | cctl (a : BitVec 6) (i : BitVec 6) (ann : Ann)
  /-- LALLOC (R300): Allocates a guarded block from a level pool. -/
  | lalloc (d : BitVec 6) (a : BitVec 6) (i : BitVec 6) (ann : Ann)
  /-- LFREE (R300): Frees a block of a level pool. -/
  | lfree (d : BitVec 6) (a : BitVec 6) (i : BitVec 6) (ann : Ann)
  /-- TLMAKE (R121): Validates a layout record and installs it under the lowest free handle. -/
  | tlmake (d : BitVec 6) (a : BitVec 6) (ann : Ann)
  /-- TLDROP (R122): Removes a live layout handle. -/
  | tldrop (d : BitVec 6) (a : BitVec 6) (ann : Ann)
  /-- TLQRY (R301): Reads a word of a layout record or the handle's committed version. -/
  | tlqry (d : BitVec 6) (a : BitVec 6) (i : BitVec 6) (ann : Ann)
  /-- BINIT (R307): Initialises a barrier object whole, releasing waiters and held arrivals. -/
  | binit (d : BitVec 6) (a : BitVec 6) (i : BitVec 3) (ann : Ann)
  /-- BLINK (R308): Links a child barrier object to a parent, or unlinks it. -/
  | blink (d : BitVec 6) (a : BitVec 6) (b : BitVec 6) (ann : Ann)
  /-- BARA (R309): Arrives on a barrier object. -/
  | bara (a : BitVec 6) (i : BitVec 3) (ann : Ann)
  /-- BARW (R311): Waits for a barrier phase and returns its status. -/
  | barw (d : BitVec 6) (a : BitVec 6) (i : BitVec 3) (ann : Ann)
  /-- BARAW (R310): Arrives and waits on the phase of that arrival. -/
  | baraw (d : BitVec 6) (a : BitVec 6) (i : BitVec 3) (ann : Ann)
  /-- BART (R310): Arrives and replies the phase parity without waiting. -/
  | bart (d : BitVec 6) (a : BitVec 6) (i : BitVec 3) (ann : Ann)
  /-- BARX (R310): Arrives with a flag set and error code. -/
  | barx (d : BitVec 6) (a : BitVec 6) (i : BitVec 3) (ann : Ann)
  /-- PUSH (R334): Pushes a value into each active lane's partner queue. -/
  | push (a : BitVec 6) (i : BitVec 3) (ann : Ann)
  /-- PUSHR (R334): Pushes a value as a release at the link's domain. -/
  | pushr (a : BitVec 6) (i : BitVec 3) (ann : Ann)
  /-- POP (R335): Removes the head entry of each active lane's input queue. -/
  | pop (d : BitVec 6) (i : BitVec 3) (ann : Ann)
  /-- PEEK (R335): Copies the head entry of each active lane's input queue. -/
  | peek (d : BitVec 6) (i : BitVec 3) (ann : Ann)
  /-- PQRY (R336): Reports port liveness, binding, free places and available entries. -/
  | pqry (d : BitVec 6) (i : BitVec 3) (ann : Ann)
  /-- PLINK (R337): Binds a link port by tagged rendezvous with the adjacent core. -/
  | plink (d : BitVec 6) (a : BitVec 6) (i : BitVec 3) (ann : Ann)
  /-- PLINK_UNLINK (R337): Ends the binding of a link port at both ends. -/
  | plinkUnlink (d : BitVec 6) (i : BitVec 3) (ann : Ann)
  /-- TRET (R368): Retires the handler's current event and releases a spill- or fill-held group. -/
  | tret (ann : Ann)
  /-- CSRR (R367): Reads a control and status register. -/
  | csrr (d : BitVec 6) (csr : Word) (ann : Ann)
  /-- CSRW (R367): Writes a control and status register that has no behaviour of its own. -/
  | csrw (a : BitVec 6) (csr : Word) (ann : Ann)
  /-- CTXRD (R372): Reads a state item of a halted crew's group or lane. -/
  | ctxrd (d : BitVec 6) (a : BitVec 6) (item : Word) (ann : Ann)
  /-- CTXWR (R372): Writes a state item of a halted crew's group or lane. -/
  | ctxwr (d : BitVec 6) (a : BitVec 6) (item : Word) (ann : Ann)
  /-- SAVE (R370): Saves a halted crew's context to a save area and frees the crew. -/
  | save (d : BitVec 6) (a : BitVec 6) (b : BitVec 6) (ann : Ann)
  /-- RSTR (R419): Restores a saved context into a free crew number, HALTED. -/
  | rstr (d : BitVec 6) (a : BitVec 6) (b : BitVec 6) (ann : Ann)
  /-- HALTCR (R370): Broadcasts a halt to a running crew and replies when all groups stop. -/
  | haltcr (d : BitVec 6) (a : BitVec 6) (ann : Ann)
  /-- RESUME (R370): Restarts a halted crew from its recorded PCs. -/
  | resume (d : BitVec 6) (a : BitVec 6) (ann : Ann)
  /-- KILLCR (R408): Kills a crew with its binding set and applies relaunch. -/
  | killcr (d : BitVec 6) (a : BitVec 6) (ann : Ann)
  /-- TLBINV (R373): Removes matching translations from every TLB of the package. -/
  | tlbinv (d : BitVec 6) (a : BitVec 6) (b : BitVec 6) (ann : Ann)
  /-- CINV (R374): Discards L1 and die-cache lines across the package. -/
  | cinv (a : BitVec 6) (i : BitVec 6) (ann : Ann)
  /-- TKT (R375): Atomic fetch-and-add on a 64-bit ticket counter. -/
  | tkt (d : BitVec 6) (a : BitVec 6) (b : BitVec 6) (ann : Ann)
  /-- HMSG (R369): Sends a message to the host's management queue pair. -/
  | hmsg (d : BitVec 6) (a : BitVec 6) (b : BitVec 6) (ann : Ann)
  /-- IDLE (R368): Deschedules the agent group until work is signalled or the handler returns. -/
  | idle (ann : Ann)
  /-- MCOPY (R129): Multicast down-copy of a box into named children. -/
  | mcopy (y : BitVec 1) (d : BitVec 6) (a : BitVec 6)
  /-- UCOPY (R131): Up-copy from named children, optionally combining. -/
  | ucopy (y : BitVec 1) (d : BitVec 6) (a : BitVec 6)
  /-- GCOPY (R130): Gathers rows by an index list into named children. -/
  | gcopy (y : BitVec 1) (d : BitVec 6) (a : BitVec 6)
  /-- REDUCE (R133): Reduces child boxes element by element in child order. -/
  | reduce (y : BitVec 1) (d : BitVec 6) (a : BitVec 6)
  /-- CQRY (R323): Queries the copy engine's outstanding and recorded commands. -/
  | cqry (d : BitVec 6) (a : BitVec 6) (b : BitVec 6)
  /-- VINIT (R326): Initialises a vat header and clears any poisoning. -/
  | vinit (y : BitVec 1) (d : BitVec 6) (a : BitVec 6) (b : BitVec 6)
  /-- VTAKE (R136): Takes the next ready slot of a vat, or waits, or returns END or POISONED. -/
  | vtake (d : BitVec 6) (a : BitVec 6)
  /-- VPUT (R136): Puts a held slot back, passing slots to the engine in ring order. -/
  | vput (y : BitVec 1) (d : BitVec 6) (a : BitVec 6) (b : BitVec 6)
  /-- VQRY (R328): Reads one word of a vat header. -/
  | vqry (d : BitVec 6) (a : BitVec 6) (b : BitVec 6)
  /-- SFILL (R329): Starts a stream program filling a fill vat. -/
  | sfill (y : BitVec 1) (d : BitVec 6) (a : BitVec 6) (b : BitVec 6)
  /-- SDRAIN (R329): Starts a stream program draining a drain vat. -/
  | sdrain (y : BitVec 1) (d : BitVec 6) (a : BitVec 6) (b : BitVec 6)
  /-- SSTOP (R329): Ends a vat's stream after its slot in progress. -/
  | sstop (y : BitVec 1) (d : BitVec 6) (a : BitVec 6)
  /-- MMA (R341): Matrix multiply-accumulate into a cellar extent by chunked exact sums. -/
  | mma (y : BitVec 1) (d : BitVec 6) (a : BitVec 6) (b : BitVec 6)
  /-- MMAC (R341): Compensated complex matrix multiply-accumulate. -/
  | mmac (y : BitVec 1) (d : BitVec 6) (a : BitVec 6) (b : BitVec 6)
  /-- MFENCE (R165): Holds the group until its stores reach core memory and register writes land. -/
  | mfence
  /-- MWAIT (R343): Retires arrived matrix commands until at most n remain unretired. -/
  | mwait (a : BitVec 6)
  /-- MQRY (R344): Queries matrix queue and cellar occupancy. -/
  | mqry (d : BitVec 6) (a : BitVec 6)
  /-- CELGET (R171): Attaches, refills or allocates a cellar extent by key. -/
  | celget (d : BitVec 6) (a : BitVec 6)
  /-- CELPIN (R346): Sets or clears the pin of a cellar extent. -/
  | celpin (y : BitVec 1) (d : BitVec 6) (a : BitVec 6) (b : BitVec 6)
  /-- CELFREE (R347): Frees a cellar extent after its accepted commands arrive. -/
  | celfree (y : BitVec 1) (d : BitVec 6) (a : BitVec 6)
  /-- CELFREE_EVICT (R420): CELFREE from a privileged group, evicting the extent to its spill slot. -/
  | celfreeEvict (y : BitVec 1) (d : BitVec 6) (a : BitVec 6)
  /-- CELLD (R349): Copies core-memory data into cellar rows. -/
  | celld (y : BitVec 1) (d : BitVec 6) (a : BitVec 6)
  /-- CELST (R349): Copies cellar rows into core memory. -/
  | celst (y : BitVec 1) (d : BitVec 6) (a : BitVec 6)
  /-- CELZ (R349): Zeroes cellar rows. -/
  | celz (y : BitVec 1) (d : BitVec 6) (a : BitVec 6)
  /-- DELTA (R175): Applies the gated delta-rule update for T tokens to a DELTA extent. -/
  | delta (y : BitVec 1) (d : BitVec 6) (a : BitVec 6)
  /-- DQRY (R176): Queries a DELTA state with q vectors without updating it. -/
  | dqry (y : BitVec 1) (d : BitVec 6) (a : BitVec 6)
  /-- AGSET (R194): Creates or attaches to an address group. -/
  | agset (d : BitVec 6) (a : BitVec 6)
  /-- AGFREE (R195): Frees an address group, issued by rank 0. -/
  | agfree (y : BitVec 1) (d : BitVec 6) (a : BitVec 6)
  /-- MST (R196): Multicast store to every member of an address group. -/
  | mst (y : BitVec 1) (d : BitVec 6) (a : BitVec 6)
  /-- MLDR (R197): Load-reduce of every member's contribution through the switches. -/
  | mldr (y : BitVec 1) (d : BitVec 6) (a : BitVec 6)
  /-- COLL (R354): Starts a collective over an address group. -/
  | coll (y : BitVec 1) (d : BitVec 6) (a : BitVec 6)
  /-- COLLW (R355): Waits for a collective's arrival and returns its outcome. -/
  | collw (d : BitVec 6) (a : BitVec 6)
  /-- FLUSH (R356): Waits until the group's stores are acknowledged, as a POD release. -/
  | flush
  /-- LAUNCH (R316): Creates one batch of children. -/
  | launch (y : BitVec 1) (d : BitVec 6) (a : BitVec 6) (b : BitVec 6)
  /-- LAUNCHD (R316): Creates one batch of children with a dependence descriptor. -/
  | launchd (y : BitVec 1) (d : BitVec 6) (a : BitVec 6) (b : BitVec 6)
  /-- JOIN (R317): Returns the head child's report in index order. -/
  | join (d : BitVec 6)
  /-- JOINALL (R317): Takes every remaining report of the batch. -/
  | joinall (d : BitVec 6)
  /-- TILEQ (R318): Queries the tile's batch state. -/
  | tileq (d : BitVec 6) (a : BitVec 6)
  /-- CANCEL (R319): Cancels unstarted children and children awaiting relaunch. -/
  | cancel (y : BitVec 1) (d : BitVec 6)
  /-- QPUSH (R320): Writes a hardware queue's kick register from a device program. -/
  | qpush (y : BitVec 1) (d : BitVec 6) (a : BitVec 6) (b : BitVec 6)
  /-- TIMEQ (R331): Queries stagger floor and pod time. -/
  | timeq (d : BitVec 6) (a : BitVec 6)
  /-- TSIG (R332): Schedules a barrier arrival at a pod time. -/
  | tsig (y : BitVec 1) (d : BitVec 6) (a : BitVec 6) (b : BitVec 6)
  /-- SCOREBOARD_LAND (R72): A scoreboarded result or reply lands in its register and frees its entry. -/
  | scoreboardLand (gid : Nat) (sb : Nat)
  /-- STORE_QUEUE_DRAIN (R145): A group's oldest queued store leaves the store queue and becomes visible. -/
  | storeQueueDrain (gid : Nat)
  /-- STORE_ACK (R148): The point of coherence acknowledges a store or RMW, releasing waiting releases and flushes. -/
  | storeAck (id : Nat)
  /-- REMOTE_ACCESS (R109): An access packet arrives at its target package and is translated and applied at home. -/
  | remoteAccess (pkt : Nat)
  /-- FABRIC_RESPONSE (R205): A fabric response reaches the requester and is applied by its code. -/
  | fabricResponse (pkt : Nat)
  /-- IMPRECISE_FAULT (R405): A fault found after issue writes an error record and halts the crew with a fatal event. -/
  | impreciseFault
  /-- SPILL (R63): Spill service writes stack positions to the spill area and raises MARK. -/
  | spill (gid : Nat) (split : Nat)
  /-- FILL (R63): Fill service reads stack positions back and lowers MARK. -/
  | fill (gid : Nat) (split : Nat)
  /-- HALT_COMPLETE (R401): Every group of a halting crew has stopped; the crew is HALTED and the event is queued. -/
  | haltComplete (crew : Nat)
  /-- EVENT_DELIVERY (R363): The idle handler group takes the oldest event and starts. -/
  | eventDelivery (pkg : Nat) (core : Nat)
  /-- PREQ_WRITE (R412): Setting a PREQL or PREQH bit starts pre-emption of that crew. -/
  | preqWrite (a : BitVec 6) (hi : BitVec 1) (ann : Ann)
  /-- GRACE_EXPIRY (R412): The grace period ends and remaining groups are halted by broadcast. -/
  | graceExpiry (crew : Nat)
  /-- WATCHDOG (R404): A group held at issue for 10 ms traps. -/
  | watchdog (gid : Nat) (split : Nat)
  /-- DSPLIT_WRITE (R112): A DSPLIT write sets BUSY and starts write-back and invalidation of the die cache. -/
  | dsplitWrite (a : BitVec 6) (ann : Ann)
  /-- DSPLIT_DONE (R112): The die-cache write-back completes and BUSY clears. -/
  | dsplitDone (pkg : Nat) (die : Nat)
  /-- TIMEL_READ (R364): A read of TIMEL latches TIMEH for the group's next read. -/
  | timelRead (d : BitVec 6) (ann : Ann)
  /-- CTXERR_READ (R364): A read of CTXERR returns and clears it. -/
  | ctxerrRead (d : BitVec 6) (ann : Ann)
  /-- CHILD_START (R26): A child is admitted once eligible, in the window, admitted by the dependence table, with resources free. -/
  | childStart (tile : Nat) (k : Nat)
  /-- DEPENDENCE_ENTRY (R32): A child enters the dependence table and binds versions. -/
  | dependenceEntry (tile : Nat) (k : Nat)
  /-- CHILD_RELAUNCH (R409): A killed IDEM child is relaunched from its start. -/
  | childRelaunch (tile : Nat) (k : Nat)
  /-- TILE_COMPLETE (R24): A tile completes when its groups have exited and children are done, reporting to its parent. -/
  | tileComplete (tile : Nat)
  /-- SLEEP_WAKE (R244): A sleeping split becomes ready when pod time is reached. -/
  | sleepWake (gid : Nat) (split : Nat)
  /-- TSIG_FIRE (R332): A pending TSIG arrives on its barrier object at its time. -/
  | tsigFire (crew : Nat) (n : Nat)
  /-- COPY_ARRIVAL (R134): A copy command's last write lands and it arrives on its barrier. -/
  | copyArrival (cmd : Nat)
  /-- STREAM_SLOT_DONE (R136): A stream engine finishes a slot and hands it to a waiter or the ready count. -/
  | streamSlotDone (stream : Nat)
  /-- STREAM_FAULT (R140): A stream fault poisons the vat, wakes waiters and arrives. -/
  | streamFault (stream : Nat)
  /-- MATRIX_ARRIVAL (R167): A matrix or cellar command completes its writes and arrives with its flags. -/
  | matrixArrival (cmd : Nat)
  /-- PORT_VALUE_LAND (R178): A pushed value lands in the partner's input queue after the link latency. -/
  | portValueLand (gid : Nat) (port : Nat) (lane : Nat)
  /-- PORT_PARK (R187): A group waiting on a port for 256 cycles is parked. -/
  | portPark (gid : Nat) (split : Nat)
  /-- PORT_DEADLOCK (R188): A binding set deadlocked for 1 ms traps every crew. -/
  | portDeadlock (gid : Nat)
  /-- FABRIC_ARRIVAL (R204): An MST, MLDR or COLL completes with its outcome and arrives. -/
  | fabricArrival (cmd : Nat)
  /-- SWITCH_CONTRIBUTION (R199): A contribution or partial reaches a switch and is combined in rank order. -/
  | switchContribution (cmd : Nat)
  /-- TUPLE_TIMEOUT (R201): A tuple not combined within TMO gives TIMEOUT to its contributors. -/
  | tupleTimeout (grp : Nat) (seq : Nat)
  /-- COLL_STEP_TIMEOUT (R211): A collective step waits at most TMO for its peer, then fails. -/
  | collStepTimeout (cmd : Nat)
  /-- FABRIC_PACKET_EXPIRY (R195): Switches drop packets older than 10 ms. -/
  | fabricPacketExpiry (pkt : Nat)
  /-- LINK_FAILURE (R193): A port's link fails and its traffic is rerouted. -/
  | linkFailure (pkg : Nat) (plane : Nat) (what : Nat)
  /-- KICK (R380): A host RDMA write to a kick register advances a queue's write index. -/
  | kick (pkg : Nat) (ctx : Nat) (slot : Nat) (w : Nat)
  /-- NOP_PACKET (R383): A NOP packet starts and completes. -/
  | nopPacket (pkg : Nat) (q : Nat)
  /-- LAUNCH_PACKET (R383): A LAUNCH packet validates its record and admits the root tile. -/
  | launchPacket (pkg : Nat) (q : Nat) (core : Nat)
  /-- GANG_PACKET (R389): A GANG packet starts the reservation of its parts. -/
  | gangPacket (pkg : Nat) (q : Nat)
  /-- WAIT_PACKET (R383): A WAIT packet starts waiting on a value or a barrier flip. -/
  | waitPacket (pkg : Nat) (q : Nat)
  /-- WAIT_PACKET_POLL (R383): A VALUE WAIT re-reads its word at least every 2 µs. -/
  | waitPacketPoll (pkg : Nat) (q : Nat) (idx : Nat)
  /-- SIGNAL_PACKET (R383): A SIGNAL packet writes to memory or the host after earlier packets complete. -/
  | signalPacket (pkg : Nat) (q : Nat)
  /-- SIGNAL_ACK (R383): The SIGNAL's write is acknowledged and the packet completes. -/
  | signalAck (pkg : Nat) (q : Nat) (idx : Nat)
  /-- TIMESTAMP_PACKET (R383): A TIMESTAMP packet stores pod time. -/
  | timestampPacket (pkg : Nat) (q : Nat)
  /-- RESERVE (R389): A part receives RESERVE and answers HELD or NO. -/
  | reserve (gang : Nat) (part : Nat) (core : Nat)
  /-- HELD (R389): The coordinator receives a HELD answer and commits once all parts hold. -/
  | held (gang : Nat) (part : Nat)
  /-- GANG_NO (R389): The coordinator receives NO and releases every part. -/
  | gangNo (gang : Nat) (part : Nat)
  /-- COMMIT (R389): A part receives COMMIT(T) and schedules its root. -/
  | commit (gang : Nat) (part : Nat)
  /-- RELEASE (R389): A part receives RELEASE and frees its holding. -/
  | release (gang : Nat) (part : Nat)
  /-- RESERVE_TIMER_EXPIRY (R389): The coordinator's 100 µs timer expires and it releases the parts. -/
  | reserveTimerExpiry (gang : Nat)
  /-- HOLD_TIMER_EXPIRY (R389): A part's 120 µs hold timer expires and frees the holding. -/
  | holdTimerExpiry (gang : Nat) (part : Nat)
  /-- BACKOFF_EXPIRY (R389): The backoff interval ends and the coordinator reserves again. -/
  | backoffExpiry (gang : Nat)
  /-- GANG_PART_START (R389): A committed part starts its root at time T. -/
  | gangPartStart (gang : Nat) (part : Nat)
  /-- RDMA_WRITE (R424): A host RDMA WRITE lands as a relaxed PKG store and is acknowledged. -/
  | rdmaWrite (pkg : Nat) (ctx : Nat) (hnd : Nat) (off : Nat) (data : List Byte)
  /-- RDMA_READ (R424): A host RDMA READ reads strongly at the home slice. -/
  | rdmaRead (pkg : Nat) (ctx : Nat) (hnd : Nat) (off : Nat) (len : Nat)
  /-- RDMA_NAK (R423): An unsupported RDMA operation is answered with a NAK. -/
  | rdmaNak (pkg : Nat) (kind : Nat)
  /-- HMSG_TIMEOUT (R369): HMSG replies HOST when no port reaches the host within 1 ms. -/
  | hmsgTimeout (cmd : Nat)
  /-- QUERY (R425): Management command reporting service, power and unit states. -/
  | query (pkg : Nat) (msg : List Byte)
  /-- SETP (R426): Management command setting the power state. -/
  | setp (pkg : Nat) (msg : List Byte)
  /-- SETFLOOR (R425): Management command setting the stagger floor. -/
  | setfloor (pkg : Nat) (msg : List Byte)
  /-- CLEARTRIP (R428): Management command restarting issue after a thermal trip. -/
  | cleartrip (pkg : Nat) (msg : List Byte)
  /-- ATTEST (R434): Management command returning a die's signed attestation report. -/
  | attest (pkg : Nat) (msg : List Byte)
  /-- IDKEY (R425): Management command returning a die's public identity key. -/
  | idkey (pkg : Nat) (msg : List Byte)
  /-- JOINMEM (R431): Management command bringing every READY stack into service and rehashing memory. -/
  | joinmem (pkg : Nat) (msg : List Byte)
  /-- THERMAL_TRIP (R428): A junction at 105 °C stops issue and sends a THERMAL message. -/
  | thermalTrip (pkg : Nat)
  /-- POWER_ON (R429): Module power-on starts each die's ROM. -/
  | powerOn (pkg : Nat)
  /-- FIRMWARE_LOADED (R429): A die's firmware is loaded from flash and verification starts. -/
  | firmwareLoaded (pkg : Nat) (die : Nat) (image : List Byte)
  /-- FIRMWARE_VERIFIED (R433): Verification accepts or rejects the image, moving the die to TRAINING or FAILED. -/
  | firmwareVerified (pkg : Nat) (die : Nat)
  /-- STACK_TRAINING_DONE (R429): A stack's training passes or fails. -/
  | stackTrainingDone (pkg : Nat) (stack : Nat) (pass : Bool)
  /-- DIE_LINKS_UP (R429): A die's links come up, making it READY when its stacks are trained. -/
  | dieLinksUp (pkg : Nat) (die : Nat)
  /-- THERMAL_CALIBRATION_DONE (R430): Thermal calibration completes and the 1.2 GHz hold ends. -/
  | thermalCalibrationDone (pkg : Nat)
  /-- CORE_RESET (R362): A host reset of a core clears a slot fault and restarts the agent group. -/
  | coreReset (pkg : Nat) (core : Nat)
  /-- DIE_RESET (R365): Die reset applies die-scope reset values. -/
  | dieReset (pkg : Nat) (die : Nat)
  /-- PACKAGE_RESET (R365): Package reset applies package-scope reset values. -/
  | packageReset (pkg : Nat)
  /-- POWER_CYCLE (R426): A module power cycle leaves OFF or FAILED. -/
  | powerCycle (pkg : Nat)
  /-- SOFT_ERROR (R411): A soft error flips bits of an SRAM or package-memory ECC word, to be corrected or marked poisoned. -/
  | softError (kind : Nat) (addr : Nat) (idx : Nat) (corrected : Bool)
  /-- POD_TIME_SYNC_CHANGE (R331): The package gains or loses pod-time synchronisation or its skew bound, as TIMEQ item 3 reports. -/
  | podTimeSyncChange (pkg : Nat) (sync : Bool) (skew : Bool)
  /-- PACKAGE_REACHABLE (R193): A member package that was absent becomes reachable again on some plane. -/
  | packageReachable (pkg : Nat) (plane : Nat)
  deriving DecidableEq, Repr, Inhabited

end Sys2Proof
end

