-- ==== Sys2Proof/Config.lean ====
section
/-! DEFINITION. What the spec leaves to the implementation or leaves open: free values without a body (log entry 1), and the model's fixed choices (log entry 2). -/

namespace Sys2Proof.Config

/-- A free value of the device: nothing constrains it; the state's counter `free` picks a fresh one (R5, log entry 1). -/
opaque freeNat : Nat → Nat

/-- A free value inside one instruction of a group: group, its tick, a lane and an item (R5, R71, log entry 1). -/
opaque freeAt : Nat → Nat → Nat → Nat → Nat

/-- What comes next when no turn is given: a group and split that may issue, or an event with any operands (log entry 3). -/
opaque freeEvent : Nat → Instr

/-- An undefined register: the seed of its lane and its stack position (R23, R46, R246, log entry 6). -/
opaque freeReg : Nat → Nat → BitVec 32

/-- The code that a transcendental gives for an input code of a format where R89 bounds the error but does not fix the
bits: function 0x6E to 0x72, format 0 F16, 1 BF16, 2 F32, input code (log entry 8). -/
opaque transcendental : Nat → Nat → Nat → Nat

/-- The bank or slice index of a cluster- or die-memory offset (R114): level, unit, offset. -/
opaque sliceIndex : Nat → Nat → Nat → Nat

/-- Fabric cabling and routing: the leaf switch of a package on a plane (R199), the number that picks a tuple's plane from
its group id and OFFSET[39:12] (R193), and the reduction switch that a plane assigns to a group, by plane, process and id (R194). -/
opaque leafOf : Nat → Nat → Nat
opaque planeOf : Nat → Nat → Nat
opaque spineOf : Nat → Nat → Nat → Nat

/-- The kill of a stream's starter is coded as R330 writes it, not as R140 does (log entry 57). -/
opaque killedBy330 : Bool

/-- Firmware: whether a die's ROM accepts an image under R433 (its signature and version), and the image's version. -/
opaque imageAccepted : Nat → List (BitVec 8) → Bool
opaque imageVersion : List (BitVec 8) → Nat

/-- Whether the software of the pod asks for the extended fabric mode as a package takes an image (R193, log entry 103). -/
opaque extendedAsked : Nat → List (BitVec 8) → Bool

/-- SHA-384 of a message; of a die the identity signature (r, s) of a message, its public key (X, Y) and its serial number
(R433, R434, R425). -/
opaque sha384 : List (BitVec 8) → Nat
opaque signR : Nat → List (BitVec 8) → Nat
opaque signS : Nat → List (BitVec 8) → Nat
opaque publicX : Nat → Nat
opaque publicY : Nat → Nat
opaque serial : Nat → Nat

/-- What the firmware writes before it releases the cores of a die (R365): the privileged entry address of a core, as a number
of words, and PCTX of the package. -/
opaque bootVector : Nat → Nat → Nat
opaque bootPctx : Nat → Nat

/-- What a byte of memory that nothing has written reads as (DESIGN CHOICE, log entry 2). -/
def unwritten : Byte := 0

/-- Cores of a package, columns of its core grid, planes of the fabric (R9, R16, R193). -/
def cores : Nat := 1152
def columns : Nat := 48
def planes : Nat := 36

end Sys2Proof.Config
end

