-- ==== Sys2Proof/Machine/Bits.lean ====
section
/-! DEFINITION. Bit fields, sign extension and byte order (R1, R2, R7). -/

namespace Sys2Proof.Machine

/-- `field x hi lo` is the unsigned value of bits [hi:lo] of x (R1, R6). -/
def field (x hi lo : Nat) : Nat := x / 2 ^ lo % 2 ^ (hi + 1 - lo)

/-- One bit of x as a truth value. -/
def flag (x i : Nat) : Bool := x / 2 ^ i % 2 == 1

/-- SignExt(x, n) of R7 as an exact integer. -/
def signExt (x n : Nat) : Int :=
  let y := x % 2 ^ n
  if 2 * y < 2 ^ n then (y : Int) else (y : Int) - 2 ^ n

/-- The low n bits of an exact integer as an unsigned value (wrap-around, R75). -/
def wrap (n : Nat) (x : Int) : Nat := (x % (2 ^ n : Int)).toNat

/-- The two words of a 64-bit value: low in the even register (R51). -/
def loWord (x : Nat) : Word := BitVec.ofNat 32 (x % 2 ^ 32)
def hiWord (x : Nat) : Word := BitVec.ofNat 32 (x / 2 ^ 32)

/-- The 64-bit value of a register pair (R51). -/
def pairNat (lo hi : Word) : Nat := lo.toNat + 2 ^ 32 * hi.toNat

/-- n bytes of x, least significant first (R2). -/
def bytesOf : Nat → Nat → List Byte
  | 0, _ => []
  | n + 1, x => BitVec.ofNat 8 (x % 256) :: bytesOf n (x / 256)

/-- The value of a little-endian byte list (R2). -/
def natOf : List Byte → Nat
  | [] => 0
  | b :: bs => b.toNat + 256 * natOf bs

/-- An unsigned little-endian field of a structure read as bytes: `len` bytes from `off`. -/
def leField (bs : List Byte) (off len : Nat) : Nat := natOf ((bs.drop off).take len)

/-- True when the bytes [off, off + len) of a structure are all zero (a res0 span, R3). -/
def zeroAt (bs : List Byte) (off len : Nat) : Bool := leField bs off len == 0

/-- The list 0, 1, …, n − 1. -/
def upto (n : Nat) : List Nat := List.range n

/-- The bits set in a mask of n bits, ascending. -/
def bitsSet (n : Nat) (m : Nat) : List Nat := (upto n).filter (flag m)

/-- The mask with exactly the listed bits set. -/
def maskOf (l : List Nat) : Nat := l.foldl (fun m i => m ||| 2 ^ i) 0

/-- x divided by y, rounded up. -/
def ceilDiv (x y : Nat) : Nat := (x + y - 1) / y

/-- Replace the n-th element of a list. -/
def setNth {α : Type} : List α → Nat → α → List α
  | [], _, _ => []
  | _ :: t, 0, a => a :: t
  | h :: t, n + 1, a => h :: setNth t n a

/-- Rewrite the n-th element of a list. -/
def modNth {α : Type} : List α → Nat → (α → α) → List α
  | [], _, _ => []
  | h :: t, 0, f => f h :: t
  | h :: t, n + 1, f => h :: modNth t n f

end Sys2Proof.Machine
end

