-- ==== Sys2Proof/WellFormed.lean ====
section
/-! DEFINITION. Well-formed instructions: pairs, quads, selectors and field ranges of R215 to R226, and the reply classes of R225. -/

namespace Sys2Proof

/-- The field rules of R226 check 3 that the constructor's types do not already hold: even pairs (R51), shift fields (R62),
selectors, port codes, OL ranges (R218) and a reply register only with Y = 1 (R225). A device step has no field rule. -/
def Instr.wf (i : Instr) : Bool :=
  match i with
  | .nop _ => true
  | .yield _ => true
  | .setm _ => true
  | .setmh i => decide (i.toNat < 2)
  | .getm _ _ => true
  | .gets d a _ => decide (a.toNat < 18 ∧ (a.toNat = 13 → d.toNat % 2 = 0))
  | .braJ _ _ => true
  | .braL _ _ _ _ => true
  | .brx a _ => decide (a.toNat % 2 = 0)
  | .call n _ _ => decide (1 ≤ n.toNat ∧ n.toNat ≤ 7)
  | .callx d a _ => decide (a.toNat % 2 = 0 ∧ 1 ≤ d.toNat ∧ d.toNat ≤ 7)
  | .ret d _ => decide (1 ≤ d.toNat ∧ d.toNat ≤ 7)
  | .exit _ => true
  | .trap _ _ => true
  | .brk _ _ => true
  | .wait file a _ => decide ((file.toNat = 2 → a.toNat < 8) ∧ (file.toNat = 3 → a.toNat = 0))
  | .sleep a _ => decide (a.toNat % 2 = 0)
  | .phint _ _ _ _ _ => true
  | .iadd _ _ _ _ => true
  | .isub _ _ _ _ => true
  | .iaddc _ _ _ _ _ _ => true
  | .imul _ _ _ _ => true
  | .imulh _ _ _ _ => true
  | .imad _ _ _ _ => true
  | .ineg _ _ _ => true
  | .iabs _ _ _ => true
  | .imin _ _ _ _ => true
  | .imax _ _ _ _ => true
  | .and _ _ _ _ => true
  | .or _ _ _ _ => true
  | .xor _ _ _ _ => true
  | .andn _ _ _ _ => true
  | .not _ _ _ => true
  | .shlR _ _ _ _ => true
  | .shrR _ _ _ _ => true
  | .shaR _ _ _ _ => true
  | .rolR _ _ _ _ => true
  | .shlI _ _ _ _ => true
  | .shrI _ _ _ _ => true
  | .shaI _ _ _ _ => true
  | .rolI _ _ _ _ => true
  | .fsh _ a _ _ => decide (a.toNat % 2 = 0)
  | .popc _ _ _ => true
  | .clz _ _ _ => true
  | .brev _ _ _ => true
  | .bfx _ _ pos len _ => decide (1 ≤ len.toNat ∧ len.toNat ≤ 32 ∧ pos.toNat + len.toNat ≤ 32)
  | .bfi _ _ _ pos len _ => decide (1 ≤ len.toNat ∧ len.toNat ≤ 32 ∧ pos.toNat + len.toNat ≤ 32)
  | .bperm _ _ _ _ => true
  | .sel _ _ _ _ _ _ => true
  | .icmp _ _ _ fn _ => decide (fn.toNat < 6)
  | .iaddi _ _ _ _ => true
  | .mov _ _ _ => true
  | .movi _ _ _ => true
  | .lit _ _ _ => true
  | .movs _ _ _ => true
  | .movv _ _ _ _ => true
  | .lea d a _ _ => decide (d.toNat % 2 = 0 ∧ a.toNat % 2 = 0)
  | .sadd _ _ _ _ => true
  | .ssub _ _ _ _ => true
  | .smul _ _ _ _ => true
  | .sand _ _ _ _ => true
  | .sor _ _ _ _ => true
  | .sxor _ _ _ _ => true
  | .sshl _ _ _ _ => true
  | .sshr _ _ _ _ => true
  | .scmp _ _ _ fn _ => decide (fn.toNat < 6)
  | .smovSS _ _ _ => true
  | .smovFS _ _ _ => true
  | .smovSF _ _ _ => true
  | .slitS _ _ _ => true
  | .slitF _ _ _ => true
  | .pand _ _ _ _ => true
  | .por _ _ _ _ => true
  | .pxor _ _ _ _ => true
  | .pnot _ _ _ => true
  | .pmov _ _ _ => true
  | .shfl _ _ _ _ => true
  | .vote d _ _ => decide (d.toNat % 2 = 0)
  | .lred _ _ i _ => decide (i.toNat < 6)
  | .lscan _ _ i _ => decide (i.toNat < 16 ∧ i.toNat % 8 < 6)
  | .matchV _ _ _ => true
  | .compact _ _ _ => true
  | .regroup _ _ b _ => decide (b.toNat % 2 = 0)
  | .fadd _ _ _ _ => true
  | .fsub _ _ _ _ => true
  | .fmul _ _ _ _ => true
  | .ffma _ _ _ _ => true
  | .fmin _ _ _ _ => true
  | .fmax _ _ _ _ => true
  | .fminn _ _ _ _ => true
  | .fmaxn _ _ _ _ => true
  | .fabs _ _ _ => true
  | .fneg _ _ _ => true
  | .fcmp _ _ _ fn _ => decide (fn.toNat < 8)
  | .frcp _ _ _ => true
  | .frsq _ _ _ => true
  | .fsqrt _ _ _ => true
  | .fex2 _ _ _ => true
  | .flg2 _ _ _ => true
  | .fsin _ _ _ => true
  | .fcos _ _ _ => true
  | .ftanh _ _ _ => true
  | .fscl _ _ _ _ => true
  | .frnd _ _ _ => true
  | .fcls _ _ _ => true
  | .fcvt _ _ i _ => decide (i.toNat < 20)
  | .icvt _ _ i _ => decide (4 ≤ i.toNat ∧ i.toNat < 12)
  | .tsum d _ _ _ => decide (d.toNat % 2 = 0)
  | .tprd d _ _ _ => decide (d.toNat % 2 = 0)
  | .cmul d a b _ => decide (d.toNat % 2 = 0 ∧ a.toNat % 2 = 0 ∧ b.toNat % 2 = 0)
  | .cfma d a b _ => decide (d.toNat % 4 = 0 ∧ a.toNat % 2 = 0 ∧ b.toNat % 2 = 0)
  | .dot2 _ _ _ _ => true
  | .h2add _ _ _ _ => true
  | .h2mul _ _ _ _ => true
  | .h2fma _ _ _ _ => true
  | .qblk _ _ _ _ => true
  | .qcvt _ _ _ _ => true
  | .plsplit _ _ _ _ => true
  | .pljoin _ _ _ _ => true
  | .ldI _ a _ _ => decide (a.toNat % 2 = 0)
  | .ldL _ a _ _ => decide (a.toNat % 2 = 0)
  | .stI _ a _ _ => decide (a.toNat % 2 = 0)
  | .stL _ a _ _ => decide (a.toNat % 2 = 0)
  | .ldl _ _ _ _ => true
  | .stl _ _ _ _ => true
  | .atom _ a _ fn _ => decide (a.toNat % 2 = 0 ∧ fn.toNat < 7)
  | .atomc _ a _ _ => decide (a.toNat % 2 = 0)
  | .red a _ fn _ => decide (a.toNat % 2 = 0 ∧ fn.toNat < 6)
  | .fence _ => true
  | .cctl a i _ => decide (a.toNat % 2 = 0 ∧ i.toNat < 5)
  | .lalloc _ _ i _ => decide (1 ≤ i.toNat ∧ i.toNat ≤ 3)
  | .lfree _ _ i _ => decide (1 ≤ i.toNat ∧ i.toNat ≤ 3)
  | .tlmake _ a _ => decide (a.toNat % 2 = 0)
  | .tldrop _ _ _ => true
  | .tlqry _ _ i _ => decide (i.toNat ≤ 16)
  | .binit _ _ _ _ => true
  | .blink _ _ _ _ => true
  | .bara _ _ _ => true
  | .barw d _ _ _ => decide (d.toNat % 2 = 0)
  | .baraw d _ _ _ => decide (d.toNat % 2 = 0)
  | .bart d _ _ _ => decide (d.toNat % 2 = 0)
  | .barx _ _ _ _ => true
  | .push _ i _ => decide (i.toNat < 6)
  | .pushr _ i _ => decide (i.toNat < 6)
  | .pop _ i _ => decide (i.toNat < 6)
  | .peek _ i _ => decide (i.toNat < 6)
  | .pqry _ i _ => decide (i.toNat < 6)
  | .plink _ _ i _ => decide (i.toNat < 6)
  | .plinkUnlink _ i _ => decide (i.toNat < 6)
  | .tret _ => true
  | .csrr _ csr _ => decide (csr ≠ 0x2002 ∧ csr ≠ 0x000B)
  | .csrw _ csr _ => decide (csr ≠ 0x0008 ∧ csr ≠ 0x0009 ∧ csr ≠ 0x1000)
  | .ctxrd _ _ _ _ => true
  | .ctxwr _ _ _ _ => true
  | .save _ _ b _ => decide (b.toNat % 2 = 0)
  | .rstr _ _ b _ => decide (b.toNat % 2 = 0)
  | .haltcr _ _ _ => true
  | .resume _ _ _ => true
  | .killcr _ _ _ => true
  | .tlbinv _ a _ _ => decide (a.toNat % 2 = 0)
  | .cinv a i _ => decide (a.toNat % 2 = 0 ∧ i.toNat < 4)
  | .tkt _ a _ _ => decide (a.toNat % 2 = 0)
  | .hmsg _ a _ _ => decide (a.toNat % 2 = 0)
  | .idle _ => true
  | .mcopy y d a => decide (a.toNat % 2 = 0 ∧ (y = 0 → d = 0))
  | .ucopy y d a => decide (a.toNat % 2 = 0 ∧ (y = 0 → d = 0))
  | .gcopy y d a => decide (a.toNat % 2 = 0 ∧ (y = 0 → d = 0))
  | .reduce y d a => decide (a.toNat % 2 = 0 ∧ (y = 0 → d = 0))
  | .cqry _ _ _ => true
  | .vinit y d _ b => decide (b.toNat % 2 = 0 ∧ (y = 0 → d = 0))
  | .vtake _ _ => true
  | .vput y d _ _ => decide ((y = 0 → d = 0))
  | .vqry _ _ _ => true
  | .sfill y d _ _ => decide ((y = 0 → d = 0))
  | .sdrain y d _ _ => decide ((y = 0 → d = 0))
  | .sstop y d _ => decide ((y = 0 → d = 0))
  | .mma y d _ _ => decide ((y = 0 → d = 0))
  | .mmac y d _ _ => decide ((y = 0 → d = 0))
  | .mfence => true
  | .mwait _ => true
  | .mqry _ _ => true
  | .celget _ _ => true
  | .celpin y d _ _ => decide ((y = 0 → d = 0))
  | .celfree y d _ => decide ((y = 0 → d = 0))
  | .celfreeEvict y d _ => decide ((y = 0 → d = 0))
  | .celld y d _ => decide ((y = 0 → d = 0))
  | .celst y d _ => decide ((y = 0 → d = 0))
  | .celz y d _ => decide ((y = 0 → d = 0))
  | .delta y d _ => decide ((y = 0 → d = 0))
  | .dqry y d _ => decide ((y = 0 → d = 0))
  | .agset _ a => decide (a.toNat % 2 = 0)
  | .agfree y d _ => decide ((y = 0 → d = 0))
  | .mst y d a => decide (a.toNat % 2 = 0 ∧ (y = 0 → d = 0))
  | .mldr y d a => decide (a.toNat % 2 = 0 ∧ (y = 0 → d = 0))
  | .coll y d a => decide (a.toNat % 2 = 0 ∧ (y = 0 → d = 0))
  | .collw _ a => decide (a.toNat % 2 = 0)
  | .flush => true
  | .launch y d _ b => decide (b.toNat % 2 = 0 ∧ (y = 0 → d = 0))
  | .launchd y d _ b => decide (b.toNat % 4 = 0 ∧ (y = 0 → d = 0))
  | .join _ => true
  | .joinall _ => true
  | .tileq _ _ => true
  | .cancel y d => decide ((y = 0 → d = 0))
  | .qpush y d _ b => decide (b.toNat % 2 = 0 ∧ (y = 0 → d = 0))
  | .timeq _ _ => true
  | .tsig y d a _ => decide (a.toNat % 2 = 0 ∧ (y = 0 → d = 0))
  | .scoreboardLand _ _ => true
  | .storeQueueDrain _ => true
  | .storeAck _ => true
  | .remoteAccess _ => true
  | .fabricResponse _ => true
  | .impreciseFault => true
  | .spill _ _ => true
  | .fill _ _ => true
  | .haltComplete _ => true
  | .eventDelivery _ _ => true
  | .preqWrite _ _ _ => true
  | .graceExpiry _ => true
  | .watchdog _ _ => true
  | .dsplitWrite _ _ => true
  | .dsplitDone _ _ => true
  | .timelRead _ _ => true
  | .ctxerrRead _ _ => true
  | .childStart _ _ => true
  | .dependenceEntry _ _ => true
  | .childRelaunch _ _ => true
  | .tileComplete _ => true
  | .sleepWake _ _ => true
  | .tsigFire _ _ => true
  | .copyArrival _ => true
  | .streamSlotDone _ => true
  | .streamFault _ => true
  | .matrixArrival _ => true
  | .portValueLand _ _ _ => true
  | .portPark _ _ => true
  | .portDeadlock _ => true
  | .fabricArrival _ => true
  | .switchContribution _ => true
  | .tupleTimeout _ _ => true
  | .collStepTimeout _ => true
  | .fabricPacketExpiry _ => true
  | .linkFailure _ _ _ => true
  | .kick _ _ _ _ => true
  | .nopPacket _ _ => true
  | .launchPacket _ _ _ => true
  | .gangPacket _ _ => true
  | .waitPacket _ _ => true
  | .waitPacketPoll _ _ _ => true
  | .signalPacket _ _ => true
  | .signalAck _ _ _ => true
  | .timestampPacket _ _ => true
  | .reserve _ _ _ => true
  | .held _ _ => true
  | .gangNo _ _ => true
  | .commit _ _ => true
  | .release _ _ => true
  | .reserveTimerExpiry _ => true
  | .holdTimerExpiry _ _ => true
  | .backoffExpiry _ => true
  | .gangPartStart _ _ => true
  | .rdmaWrite _ _ _ _ _ => true
  | .rdmaRead _ _ _ _ _ => true
  | .rdmaNak _ _ => true
  | .hmsgTimeout _ => true
  | .query _ _ => true
  | .setp _ _ => true
  | .setfloor _ _ => true
  | .cleartrip _ _ => true
  | .attest _ _ => true
  | .idkey _ _ => true
  | .joinmem _ _ => true
  | .thermalTrip _ => true
  | .powerOn _ => true
  | .firmwareLoaded _ _ _ => true
  | .firmwareVerified _ _ => true
  | .stackTrainingDone _ _ _ => true
  | .dieLinksUp _ _ => true
  | .thermalCalibrationDone _ => true
  | .coreReset _ _ => true
  | .dieReset _ _ => true
  | .packageReset _ => true
  | .powerCycle _ => true
  | .softError _ _ _ _ => true
  | .podTimeSyncChange _ _ _ => true
  | .packageReachable _ _ => true

/-- True for a device step of the opcode table: it has no encoding and never issues from a group. -/
def Instr.isEvent (i : Instr) : Bool :=
  match i with
  | .nop _ => false
  | .yield _ => false
  | .setm _ => false
  | .setmh _ => false
  | .getm _ _ => false
  | .gets _ _ _ => false
  | .braJ _ _ => false
  | .braL _ _ _ _ => false
  | .brx _ _ => false
  | .call _ _ _ => false
  | .callx _ _ _ => false
  | .ret _ _ => false
  | .exit _ => false
  | .trap _ _ => false
  | .brk _ _ => false
  | .wait _ _ _ => false
  | .sleep _ _ => false
  | .phint _ _ _ _ _ => false
  | .iadd _ _ _ _ => false
  | .isub _ _ _ _ => false
  | .iaddc _ _ _ _ _ _ => false
  | .imul _ _ _ _ => false
  | .imulh _ _ _ _ => false
  | .imad _ _ _ _ => false
  | .ineg _ _ _ => false
  | .iabs _ _ _ => false
  | .imin _ _ _ _ => false
  | .imax _ _ _ _ => false
  | .and _ _ _ _ => false
  | .or _ _ _ _ => false
  | .xor _ _ _ _ => false
  | .andn _ _ _ _ => false
  | .not _ _ _ => false
  | .shlR _ _ _ _ => false
  | .shrR _ _ _ _ => false
  | .shaR _ _ _ _ => false
  | .rolR _ _ _ _ => false
  | .shlI _ _ _ _ => false
  | .shrI _ _ _ _ => false
  | .shaI _ _ _ _ => false
  | .rolI _ _ _ _ => false
  | .fsh _ _ _ _ => false
  | .popc _ _ _ => false
  | .clz _ _ _ => false
  | .brev _ _ _ => false
  | .bfx _ _ _ _ _ => false
  | .bfi _ _ _ _ _ _ => false
  | .bperm _ _ _ _ => false
  | .sel _ _ _ _ _ _ => false
  | .icmp _ _ _ _ _ => false
  | .iaddi _ _ _ _ => false
  | .mov _ _ _ => false
  | .movi _ _ _ => false
  | .lit _ _ _ => false
  | .movs _ _ _ => false
  | .movv _ _ _ _ => false
  | .lea _ _ _ _ => false
  | .sadd _ _ _ _ => false
  | .ssub _ _ _ _ => false
  | .smul _ _ _ _ => false
  | .sand _ _ _ _ => false
  | .sor _ _ _ _ => false
  | .sxor _ _ _ _ => false
  | .sshl _ _ _ _ => false
  | .sshr _ _ _ _ => false
  | .scmp _ _ _ _ _ => false
  | .smovSS _ _ _ => false
  | .smovFS _ _ _ => false
  | .smovSF _ _ _ => false
  | .slitS _ _ _ => false
  | .slitF _ _ _ => false
  | .pand _ _ _ _ => false
  | .por _ _ _ _ => false
  | .pxor _ _ _ _ => false
  | .pnot _ _ _ => false
  | .pmov _ _ _ => false
  | .shfl _ _ _ _ => false
  | .vote _ _ _ => false
  | .lred _ _ _ _ => false
  | .lscan _ _ _ _ => false
  | .matchV _ _ _ => false
  | .compact _ _ _ => false
  | .regroup _ _ _ _ => false
  | .fadd _ _ _ _ => false
  | .fsub _ _ _ _ => false
  | .fmul _ _ _ _ => false
  | .ffma _ _ _ _ => false
  | .fmin _ _ _ _ => false
  | .fmax _ _ _ _ => false
  | .fminn _ _ _ _ => false
  | .fmaxn _ _ _ _ => false
  | .fabs _ _ _ => false
  | .fneg _ _ _ => false
  | .fcmp _ _ _ _ _ => false
  | .frcp _ _ _ => false
  | .frsq _ _ _ => false
  | .fsqrt _ _ _ => false
  | .fex2 _ _ _ => false
  | .flg2 _ _ _ => false
  | .fsin _ _ _ => false
  | .fcos _ _ _ => false
  | .ftanh _ _ _ => false
  | .fscl _ _ _ _ => false
  | .frnd _ _ _ => false
  | .fcls _ _ _ => false
  | .fcvt _ _ _ _ => false
  | .icvt _ _ _ _ => false
  | .tsum _ _ _ _ => false
  | .tprd _ _ _ _ => false
  | .cmul _ _ _ _ => false
  | .cfma _ _ _ _ => false
  | .dot2 _ _ _ _ => false
  | .h2add _ _ _ _ => false
  | .h2mul _ _ _ _ => false
  | .h2fma _ _ _ _ => false
  | .qblk _ _ _ _ => false
  | .qcvt _ _ _ _ => false
  | .plsplit _ _ _ _ => false
  | .pljoin _ _ _ _ => false
  | .ldI _ _ _ _ => false
  | .ldL _ _ _ _ => false
  | .stI _ _ _ _ => false
  | .stL _ _ _ _ => false
  | .ldl _ _ _ _ => false
  | .stl _ _ _ _ => false
  | .atom _ _ _ _ _ => false
  | .atomc _ _ _ _ => false
  | .red _ _ _ _ => false
  | .fence _ => false
  | .cctl _ _ _ => false
  | .lalloc _ _ _ _ => false
  | .lfree _ _ _ _ => false
  | .tlmake _ _ _ => false
  | .tldrop _ _ _ => false
  | .tlqry _ _ _ _ => false
  | .binit _ _ _ _ => false
  | .blink _ _ _ _ => false
  | .bara _ _ _ => false
  | .barw _ _ _ _ => false
  | .baraw _ _ _ _ => false
  | .bart _ _ _ _ => false
  | .barx _ _ _ _ => false
  | .push _ _ _ => false
  | .pushr _ _ _ => false
  | .pop _ _ _ => false
  | .peek _ _ _ => false
  | .pqry _ _ _ => false
  | .plink _ _ _ _ => false
  | .plinkUnlink _ _ _ => false
  | .tret _ => false
  | .csrr _ _ _ => false
  | .csrw _ _ _ => false
  | .ctxrd _ _ _ _ => false
  | .ctxwr _ _ _ _ => false
  | .save _ _ _ _ => false
  | .rstr _ _ _ _ => false
  | .haltcr _ _ _ => false
  | .resume _ _ _ => false
  | .killcr _ _ _ => false
  | .tlbinv _ _ _ _ => false
  | .cinv _ _ _ => false
  | .tkt _ _ _ _ => false
  | .hmsg _ _ _ _ => false
  | .idle _ => false
  | .mcopy _ _ _ => false
  | .ucopy _ _ _ => false
  | .gcopy _ _ _ => false
  | .reduce _ _ _ => false
  | .cqry _ _ _ => false
  | .vinit _ _ _ _ => false
  | .vtake _ _ => false
  | .vput _ _ _ _ => false
  | .vqry _ _ _ => false
  | .sfill _ _ _ _ => false
  | .sdrain _ _ _ _ => false
  | .sstop _ _ _ => false
  | .mma _ _ _ _ => false
  | .mmac _ _ _ _ => false
  | .mfence => false
  | .mwait _ => false
  | .mqry _ _ => false
  | .celget _ _ => false
  | .celpin _ _ _ _ => false
  | .celfree _ _ _ => false
  | .celfreeEvict _ _ _ => false
  | .celld _ _ _ => false
  | .celst _ _ _ => false
  | .celz _ _ _ => false
  | .delta _ _ _ => false
  | .dqry _ _ _ => false
  | .agset _ _ => false
  | .agfree _ _ _ => false
  | .mst _ _ _ => false
  | .mldr _ _ _ => false
  | .coll _ _ _ => false
  | .collw _ _ => false
  | .flush => false
  | .launch _ _ _ _ => false
  | .launchd _ _ _ _ => false
  | .join _ => false
  | .joinall _ => false
  | .tileq _ _ => false
  | .cancel _ _ => false
  | .qpush _ _ _ _ => false
  | .timeq _ _ => false
  | .tsig _ _ _ _ => false
  | .scoreboardLand _ _ => true
  | .storeQueueDrain _ => true
  | .storeAck _ => true
  | .remoteAccess _ => true
  | .fabricResponse _ => true
  | .impreciseFault => true
  | .spill _ _ => true
  | .fill _ _ => true
  | .haltComplete _ => true
  | .eventDelivery _ _ => true
  | .preqWrite _ _ _ => false
  | .graceExpiry _ => true
  | .watchdog _ _ => true
  | .dsplitWrite _ _ => false
  | .dsplitDone _ _ => true
  | .timelRead _ _ => false
  | .ctxerrRead _ _ => false
  | .childStart _ _ => true
  | .dependenceEntry _ _ => true
  | .childRelaunch _ _ => true
  | .tileComplete _ => true
  | .sleepWake _ _ => true
  | .tsigFire _ _ => true
  | .copyArrival _ => true
  | .streamSlotDone _ => true
  | .streamFault _ => true
  | .matrixArrival _ => true
  | .portValueLand _ _ _ => true
  | .portPark _ _ => true
  | .portDeadlock _ => true
  | .fabricArrival _ => true
  | .switchContribution _ => true
  | .tupleTimeout _ _ => true
  | .collStepTimeout _ => true
  | .fabricPacketExpiry _ => true
  | .linkFailure _ _ _ => true
  | .kick _ _ _ _ => true
  | .nopPacket _ _ => true
  | .launchPacket _ _ _ => true
  | .gangPacket _ _ => true
  | .waitPacket _ _ => true
  | .waitPacketPoll _ _ _ => true
  | .signalPacket _ _ => true
  | .signalAck _ _ _ => true
  | .timestampPacket _ _ => true
  | .reserve _ _ _ => true
  | .held _ _ => true
  | .gangNo _ _ => true
  | .commit _ _ => true
  | .release _ _ => true
  | .reserveTimerExpiry _ => true
  | .holdTimerExpiry _ _ => true
  | .backoffExpiry _ => true
  | .gangPartStart _ _ => true
  | .rdmaWrite _ _ _ _ _ => true
  | .rdmaRead _ _ _ _ _ => true
  | .rdmaNak _ _ => true
  | .hmsgTimeout _ => true
  | .query _ _ => true
  | .setp _ _ => true
  | .setfloor _ _ => true
  | .cleartrip _ _ => true
  | .attest _ _ => true
  | .idkey _ _ => true
  | .joinmem _ _ => true
  | .thermalTrip _ => true
  | .powerOn _ => true
  | .firmwareLoaded _ _ _ => true
  | .firmwareVerified _ _ => true
  | .stackTrainingDone _ _ _ => true
  | .dieLinksUp _ _ => true
  | .thermalCalibrationDone _ => true
  | .coreReset _ _ => true
  | .dieReset _ _ => true
  | .packageReset _ => true
  | .powerCycle _ => true
  | .softError _ _ _ _ => true
  | .podTimeSyncChange _ _ _ => true
  | .packageReachable _ _ => true

end Sys2Proof
end

