-- ==== Sys2Proof/Decode.lean ====
section
/-! DEFINITION. The decoder (R213 to R226), total on any words and rejecting by the traps of R226, and the encoder written from the same tables. -/

namespace Sys2Proof

/-- Why words are no instruction (R226): ILLEGAL, or PRIV for a privileged opcode outside the privileged slot. -/
inductive DecodeError where
  | illegal
  | priv
  deriving DecidableEq, Repr

/-- An R-, I- or L-form leading word (R214). -/
def mkR (op : BitVec 8) (d a b : BitVec 6) (n : Ann) : Word :=
  BitVec.ofNat 32 (op.toNat * 2 ^ 24 + d.toNat * 2 ^ 18 + a.toNat * 2 ^ 12 + b.toNat * 2 ^ 6 + n.h.toNat * 2 ^ 4 + n.s.toNat)

/-- An M-form word (R214). -/
def mkM (op : BitVec 8) (i : BitVec 24) : Word := BitVec.ofNat 32 (op.toNat * 2 ^ 24 + i.toNat)

/-- A J-form word (R214). -/
def mkJ (op : BitVec 8) (o : BitVec 20) (s : BitVec 4) : Word :=
  BitVec.ofNat 32 (op.toNat * 2 ^ 24 + o.toNat * 2 ^ 4 + s.toNat)

/-- An X-form word (R214). -/
def mkX (fn : BitVec 7) (y : BitVec 1) (d a b : BitVec 6) (eng : BitVec 3) : Word :=
  BitVec.ofNat 32 (7 * 2 ^ 29 + fn.toNat * 2 ^ 22 + y.toNat * 2 ^ 21 + d.toNat * 2 ^ 15 + a.toNat * 2 ^ 9 + b.toNat * 2 ^ 3 + eng.toNat)

/-- An operand literal (R218). -/
def mkOL (len : BitVec 6) (pos : BitVec 5) (fn : BitVec 4) (pn : BitVec 1) (p : BitVec 3) (b : BitVec 6) : Word :=
  BitVec.ofNat 32 (len.toNat * 2 ^ 22 + pos.toNat * 2 ^ 16 + fn.toNat * 2 ^ 12 + pn.toNat * 2 ^ 11 + p.toNat * 2 ^ 8 + b.toNat)

/-- Bits of a word from `lo`, w of them. -/
def bitsAt (w lo : Nat) (x : Word) : BitVec w := BitVec.ofNat w (x.toNat / 2 ^ lo)

def olLen (x : Word) : BitVec 6 := bitsAt 6 22 x
def olPos (x : Word) : BitVec 5 := bitsAt 5 16 x
def olFn (x : Word) : BitVec 4 := bitsAt 4 12 x
def olPn (x : Word) : BitVec 1 := bitsAt 1 11 x
def olP (x : Word) : BitVec 3 := bitsAt 3 8 x
def olB (x : Word) : BitVec 6 := bitsAt 6 0 x

/-- A narrow field in the low bits of a 6-bit one, and the same with fixed high bits. -/
def up (w : Nat) (x : BitVec w) : BitVec 6 := BitVec.ofNat 6 x.toNat
def upHi (hi w : Nat) (x : BitVec w) : BitVec 6 := BitVec.ofNat 6 (hi * 2 ^ w + x.toNat)

/-- The low w bits of a 6-bit field. -/
def low (w : Nat) (x : BitVec 6) : BitVec w := BitVec.ofNat w x.toNat

/-- The instruction when the field conditions of its row hold, ILLEGAL otherwise (R215, R226 check 3). -/
def okIf (c : Bool) (i : Instr) : Except DecodeError Instr := if c then .ok i else .error .illegal

/-- How many literal words follow the leading word of an opcode (R214). -/
def literalWords (op : Nat) : Nat :=
  match op with
  | 0x06 => 1
  | 0x08 => 1
  | 0x0F => 2
  | 0x12 => 1
  | 0x2B => 1
  | 0x2C => 1
  | 0x2E => 1
  | 0x2F => 1
  | 0x33 => 1
  | 0x48 => 1
  | 0x4C => 1
  | 0x4D => 1
  | 0x6A => 1
  | 0x99 => 1
  | 0x9B => 1
  | 0x9E => 1
  | 0xA0 => 1
  | 0xC1 => 1
  | 0xC2 => 1
  | 0xC3 => 1
  | 0xC4 => 1
  | _ => 0

/-- Opcodes 0x00 to 0x0F: control and mode (R219). -/
def decode0 (op : Nat) (d a b : BitVec 6) (nt : Ann) (l1 l2 : Word) : Except DecodeError Instr :=
  match op with
  | 0x00 => if d = 0 ∧ a = 0 ∧ b = 0 then .ok (.nop nt) else okIf (decide (d = 1 ∧ a = 0 ∧ b = 0)) (.yield nt)
  | 0x03 => okIf (decide (a = 0 ∧ b = 0)) (.getm d nt)
  | 0x04 => okIf (decide (b = 0)) (.gets d a nt)
  | 0x06 => okIf (decide (d.toNat / 2 = 0 ∧ a.toNat / 8 = 0 ∧ b = 0)) (.braL (low 1 d) (low 3 a) l1 nt)
  | 0x07 => okIf (decide (d = 0 ∧ b = 0)) (.brx a nt)
  | 0x08 => okIf (decide (a = 0 ∧ b = 0)) (.call d l1 nt)
  | 0x09 => okIf (decide (b = 0)) (.callx d a nt)
  | 0x0A => okIf (decide (a = 0 ∧ b = 0)) (.ret d nt)
  | 0x0B => okIf (decide (d = 0 ∧ a = 0 ∧ b = 0)) (.exit nt)
  | 0x0C => if d = 0 ∧ a = 0 then .ok (.trap b nt) else okIf (decide (d = 1 ∧ a = 0)) (.brk b nt)
  | 0x0D => okIf (decide (d.toNat / 4 = 0 ∧ b = 0)) (.wait (low 2 d) a nt)
  | 0x0E => okIf (decide (d = 0 ∧ b = 0)) (.sleep a nt)
  | 0x0F => okIf (decide (b = 0)) (.phint d a l1 l2 nt)
  | _ => .error .illegal

/-- Opcodes 0x10 to 0x1F: vector integer (R220). -/
def decode1 (op : Nat) (d a b : BitVec 6) (nt : Ann) (l1 : Word) : Except DecodeError Instr :=
  match op with
  | 0x10 => .ok (.iadd d a b nt)
  | 0x11 => .ok (.isub d a b nt)
  | 0x12 => okIf (decide (b = 0 ∧ l1 = mkOL 0 0 0 (olPn l1) (olP l1) (olB l1))) (.iaddc d a (olB l1) (olP l1) (olPn l1) nt)
  | 0x13 => .ok (.imul d a b nt)
  | 0x14 => .ok (.imulh d a b nt)
  | 0x15 => .ok (.imad d a b nt)
  | 0x16 => okIf (decide (b = 0)) (.ineg d a nt)
  | 0x17 => okIf (decide (b = 0)) (.iabs d a nt)
  | 0x18 => .ok (.imin d a b nt)
  | 0x19 => .ok (.imax d a b nt)
  | 0x1A => .ok (.and d a b nt)
  | 0x1B => .ok (.or d a b nt)
  | 0x1C => .ok (.xor d a b nt)
  | 0x1D => .ok (.andn d a b nt)
  | 0x1E => okIf (decide (b = 0)) (.not d a nt)
  | 0x1F => .ok (.shlR d a b nt)
  | _ => .error .illegal

/-- Opcodes 0x20 to 0x2F: vector integer (R220). -/
def decode2 (op : Nat) (d a b : BitVec 6) (nt : Ann) (l1 : Word) : Except DecodeError Instr :=
  match op with
  | 0x20 => .ok (.shrR d a b nt)
  | 0x21 => .ok (.shaR d a b nt)
  | 0x22 => .ok (.rolR d a b nt)
  | 0x23 => okIf (decide (b.toNat / 32 = 0)) (.shlI d a (low 5 b) nt)
  | 0x24 => okIf (decide (b.toNat / 32 = 0)) (.shrI d a (low 5 b) nt)
  | 0x25 => okIf (decide (b.toNat / 32 = 0)) (.shaI d a (low 5 b) nt)
  | 0x26 => okIf (decide (b.toNat / 32 = 0)) (.rolI d a (low 5 b) nt)
  | 0x27 => okIf (decide (b.toNat / 32 = 0)) (.fsh d a (low 5 b) nt)
  | 0x28 => okIf (decide (b = 0)) (.popc d a nt)
  | 0x29 => okIf (decide (b = 0)) (.clz d a nt)
  | 0x2A => okIf (decide (b = 0)) (.brev d a nt)
  | 0x2B => okIf (decide (b = 0 ∧ l1 = mkOL (olLen l1) (olPos l1) 0 0 0 0)) (.bfx d a (olPos l1) (olLen l1) nt)
  | 0x2C => okIf (decide (b = 0 ∧ l1 = mkOL (olLen l1) (olPos l1) 0 0 0 (olB l1))) (.bfi d a (olB l1) (olPos l1) (olLen l1) nt)
  | 0x2D => .ok (.bperm d a b nt)
  | 0x2E => okIf (decide (b = 0 ∧ l1 = mkOL 0 0 0 (olPn l1) (olP l1) (olB l1))) (.sel d a (olB l1) (olP l1) (olPn l1) nt)
  | 0x2F => okIf (decide (d.toNat / 8 = 0 ∧ b = 0 ∧ l1 = mkOL 0 0 (olFn l1) 0 0 (olB l1))) (.icmp (low 3 d) a (olB l1) (olFn l1) nt)
  | _ => .error .illegal

/-- Opcodes 0x30 to 0x3F: vector integer (R220). -/
def decode3 (op : Nat) (d a b : BitVec 6) (nt : Ann) (l1 : Word) : Except DecodeError Instr :=
  match op with
  | 0x30 => .ok (.iaddi d a b nt)
  | 0x31 => okIf (decide (b = 0)) (.mov d a nt)
  | 0x32 => okIf (decide (a = 0)) (.movi d b nt)
  | 0x33 => okIf (decide (a = 0 ∧ b = 0)) (.lit d l1 nt)
  | 0x34 => okIf (decide (b = 0)) (.movs d a nt)
  | 0x35 => .ok (.movv d a b nt)
  | 0x36 => .ok (.lea d a b nt)
  | _ => .error .illegal

/-- Opcodes 0x40 to 0x4F: scalar (R221). -/
def decode4 (op : Nat) (d a b : BitVec 6) (nt : Ann) (l1 : Word) : Except DecodeError Instr :=
  match op with
  | 0x40 => .ok (.sadd d a b nt)
  | 0x41 => .ok (.ssub d a b nt)
  | 0x42 => .ok (.smul d a b nt)
  | 0x43 => .ok (.sand d a b nt)
  | 0x44 => .ok (.sor d a b nt)
  | 0x45 => .ok (.sxor d a b nt)
  | 0x46 => .ok (.sshl d a b nt)
  | 0x47 => .ok (.sshr d a b nt)
  | 0x48 => okIf (decide (d.toNat / 8 = 0 ∧ b = 0 ∧ l1 = mkOL 0 0 (olFn l1) 0 0 (olB l1))) (.scmp (low 3 d) a (olB l1) (olFn l1) nt)
  | 0x49 => okIf (decide (b = 0)) (.smovSS d a nt)
  | 0x4A => okIf (decide (d.toNat / 8 = 0 ∧ b = 0)) (.smovFS (low 3 d) a nt)
  | 0x4B => okIf (decide (a.toNat / 8 = 0 ∧ b = 0)) (.smovSF d (low 3 a) nt)
  | 0x4C => okIf (decide (a = 0 ∧ b = 0)) (.slitS d l1 nt)
  | 0x4D => okIf (decide (d.toNat / 8 = 0 ∧ a = 0 ∧ b = 0)) (.slitF (low 3 d) l1 nt)
  | _ => .error .illegal

/-- Opcodes 0x50 to 0x5F: predicates and cross-lane (R221). -/
def decode5 (op : Nat) (d a b : BitVec 6) (nt : Ann) (_ : Word) : Except DecodeError Instr :=
  match op with
  | 0x50 => okIf (decide (d.toNat / 8 = 0 ∧ a.toNat / 8 = 0 ∧ b.toNat / 8 = 0)) (.pand (low 3 d) (low 3 a) (low 3 b) nt)
  | 0x51 => okIf (decide (d.toNat / 8 = 0 ∧ a.toNat / 8 = 0 ∧ b.toNat / 8 = 0)) (.por (low 3 d) (low 3 a) (low 3 b) nt)
  | 0x52 => okIf (decide (d.toNat / 8 = 0 ∧ a.toNat / 8 = 0 ∧ b.toNat / 8 = 0)) (.pxor (low 3 d) (low 3 a) (low 3 b) nt)
  | 0x53 => okIf (decide (d.toNat / 8 = 0 ∧ a.toNat / 8 = 0 ∧ b = 0)) (.pnot (low 3 d) (low 3 a) nt)
  | 0x54 => okIf (decide (d.toNat / 8 = 0 ∧ a.toNat / 8 = 0 ∧ b = 0)) (.pmov (low 3 d) (low 3 a) nt)
  | 0x58 => .ok (.shfl d a b nt)
  | 0x59 => okIf (decide (a.toNat / 8 = 0 ∧ b = 0)) (.vote d (low 3 a) nt)
  | 0x5A => .ok (.lred d a b nt)
  | 0x5B => .ok (.lscan d a b nt)
  | 0x5C => okIf (decide (b = 0)) (.matchV d a nt)
  | 0x5D => okIf (decide (b = 0)) (.compact d a nt)
  | 0x5E => okIf (decide (d.toNat / 8 = 0)) (.regroup (low 3 d) a b nt)
  | _ => .error .illegal

/-- Opcodes 0x60 to 0x6F: floating point (R222). -/
def decode6 (op : Nat) (d a b : BitVec 6) (nt : Ann) (l1 : Word) : Except DecodeError Instr :=
  match op with
  | 0x60 => .ok (.fadd d a b nt)
  | 0x61 => .ok (.fsub d a b nt)
  | 0x62 => .ok (.fmul d a b nt)
  | 0x63 => .ok (.ffma d a b nt)
  | 0x64 => .ok (.fmin d a b nt)
  | 0x65 => .ok (.fmax d a b nt)
  | 0x66 => .ok (.fminn d a b nt)
  | 0x67 => .ok (.fmaxn d a b nt)
  | 0x68 => okIf (decide (b = 0)) (.fabs d a nt)
  | 0x69 => okIf (decide (b = 0)) (.fneg d a nt)
  | 0x6A => okIf (decide (d.toNat / 8 = 0 ∧ b = 0 ∧ l1 = mkOL 0 0 (olFn l1) 0 0 (olB l1))) (.fcmp (low 3 d) a (olB l1) (olFn l1) nt)
  | 0x6B => okIf (decide (b = 0)) (.frcp d a nt)
  | 0x6C => okIf (decide (b = 0)) (.frsq d a nt)
  | 0x6D => okIf (decide (b = 0)) (.fsqrt d a nt)
  | 0x6E => okIf (decide (b = 0)) (.fex2 d a nt)
  | 0x6F => okIf (decide (b = 0)) (.flg2 d a nt)
  | _ => .error .illegal

/-- Opcodes 0x70 to 0x7F: floating point (R222). -/
def decode7 (op : Nat) (d a b : BitVec 6) (nt : Ann) (_ : Word) : Except DecodeError Instr :=
  match op with
  | 0x70 => okIf (decide (b = 0)) (.fsin d a nt)
  | 0x71 => okIf (decide (b = 0)) (.fcos d a nt)
  | 0x72 => okIf (decide (b = 0)) (.ftanh d a nt)
  | 0x73 => .ok (.fscl d a b nt)
  | 0x74 => okIf (decide (b = 0)) (.frnd d a nt)
  | 0x75 => okIf (decide (b = 0)) (.fcls d a nt)
  | 0x76 => okIf (decide (b.toNat / 32 = 0)) (.fcvt d a (low 5 b) nt)
  | 0x77 => okIf (decide (b.toNat / 32 = 0)) (.icvt d a (low 5 b) nt)
  | 0x78 => .ok (.tsum d a b nt)
  | 0x79 => .ok (.tprd d a b nt)
  | 0x7A => .ok (.cmul d a b nt)
  | 0x7B => .ok (.cfma d a b nt)
  | 0x7C => .ok (.dot2 d a b nt)
  | 0x7D => .ok (.h2add d a b nt)
  | 0x7E => .ok (.h2mul d a b nt)
  | 0x7F => .ok (.h2fma d a b nt)
  | _ => .error .illegal

/-- Opcodes 0x90 to 0x9F: quantise, planes, loads and stores (R222, R223). -/
def decode9 (op : Nat) (d a b : BitVec 6) (nt : Ann) (l1 : Word) : Except DecodeError Instr :=
  match op with
  | 0x90 => .ok (.qblk d a b nt)
  | 0x91 => .ok (.qcvt d a b nt)
  | 0x92 => okIf (decide (b.toNat / 4 = 0)) (.plsplit d a (low 2 b) nt)
  | 0x93 => .ok (.pljoin d a b nt)
  | 0x98 => .ok (.ldI d a b nt)
  | 0x99 => okIf (decide (b = 0)) (.ldL d a l1 nt)
  | 0x9A => .ok (.stI d a b nt)
  | 0x9B => okIf (decide (b = 0)) (.stL d a l1 nt)
  | 0x9C => .ok (.ldl d a b nt)
  | 0x9D => .ok (.stl d a b nt)
  | 0x9E => okIf (decide (b = 0 ∧ l1 = mkOL 0 0 (olFn l1) 0 0 (olB l1))) (.atom d a (olB l1) (olFn l1) nt)
  | 0x9F => .ok (.atomc d a b nt)
  | _ => .error .illegal

/-- Opcodes 0xA0 to 0xAF: memory (R223). -/
def decodeA (op : Nat) (d a b : BitVec 6) (nt : Ann) (l1 : Word) : Except DecodeError Instr :=
  match op with
  | 0xA0 => okIf (decide (d = 0 ∧ b = 0 ∧ l1 = mkOL 0 0 (olFn l1) 0 0 (olB l1))) (.red a (olB l1) (olFn l1) nt)
  | 0xA1 => okIf (decide (d = 0 ∧ a = 0 ∧ b = 0)) (.fence nt)
  | 0xA2 => okIf (decide (d = 0)) (.cctl a b nt)
  | 0xA3 => .ok (.lalloc d a b nt)
  | 0xA4 => .ok (.lfree d a b nt)
  | 0xA5 => okIf (decide (b = 0)) (.tlmake d a nt)
  | 0xA6 => okIf (decide (b = 0)) (.tldrop d a nt)
  | 0xA7 => .ok (.tlqry d a b nt)
  | _ => .error .illegal

/-- Opcodes 0xB0 to 0xBF: barriers and ports (R223). -/
def decodeB (op : Nat) (d a b : BitVec 6) (nt : Ann) (_ : Word) : Except DecodeError Instr :=
  match op with
  | 0xB0 => okIf (decide (b.toNat / 8 = 0)) (.binit d a (low 3 b) nt)
  | 0xB1 => .ok (.blink d a b nt)
  | 0xB2 => okIf (decide (d = 0 ∧ b.toNat / 8 = 0)) (.bara a (low 3 b) nt)
  | 0xB3 => okIf (decide (b.toNat / 8 = 0)) (.barw d a (low 3 b) nt)
  | 0xB4 => okIf (decide (b.toNat / 8 = 0)) (.baraw d a (low 3 b) nt)
  | 0xB5 => okIf (decide (b.toNat / 8 = 0)) (.bart d a (low 3 b) nt)
  | 0xB6 => okIf (decide (b.toNat / 8 = 0)) (.barx d a (low 3 b) nt)
  | 0xB8 => okIf (decide (d = 0 ∧ b.toNat / 8 = 0)) (.push a (low 3 b) nt)
  | 0xB9 => okIf (decide (d = 0 ∧ b.toNat / 8 = 0)) (.pushr a (low 3 b) nt)
  | 0xBA => okIf (decide (a = 0 ∧ b.toNat / 8 = 0)) (.pop d (low 3 b) nt)
  | 0xBB => okIf (decide (a = 0 ∧ b.toNat / 8 = 0)) (.peek d (low 3 b) nt)
  | 0xBC => okIf (decide (a = 0 ∧ b.toNat / 8 = 0)) (.pqry d (low 3 b) nt)
  | 0xBD => if b.toNat / 8 = 0 then .ok (.plink d a (low 3 b) nt) else okIf (decide (a = 0 ∧ b.toNat / 8 = 1)) (.plinkUnlink d (low 3 b) nt)
  | _ => .error .illegal

/-- Opcodes 0xC0 to 0xCF: privileged (R224). -/
def decodeC (op : Nat) (d a b : BitVec 6) (nt : Ann) (l1 : Word) : Except DecodeError Instr :=
  match op with
  | 0xC0 => okIf (decide (d = 0 ∧ a = 0 ∧ b = 0)) (.tret nt)
  | 0xC1 => if a = 0 ∧ b = 0 ∧ l1 = 0x2002 then .ok (.timelRead d nt) else if a = 0 ∧ b = 0 ∧ l1 = 0x000B then .ok (.ctxerrRead d nt) else okIf (decide (a = 0 ∧ b = 0)) (.csrr d l1 nt)
  | 0xC2 => if d = 0 ∧ b = 0 ∧ l1 = 0x0008 then .ok (.preqWrite a 0 nt) else if d = 0 ∧ b = 0 ∧ l1 = 0x0009 then .ok (.preqWrite a 1 nt) else if d = 0 ∧ b = 0 ∧ l1 = 0x1000 then .ok (.dsplitWrite a nt) else okIf (decide (d = 0 ∧ b = 0)) (.csrw a l1 nt)
  | 0xC3 => okIf (decide (b = 0)) (.ctxrd d a l1 nt)
  | 0xC4 => okIf (decide (b = 0)) (.ctxwr d a l1 nt)
  | 0xC5 => .ok (.save d a b nt)
  | 0xC6 => .ok (.rstr d a b nt)
  | 0xC7 => okIf (decide (b = 0)) (.haltcr d a nt)
  | 0xC8 => okIf (decide (b = 0)) (.resume d a nt)
  | 0xC9 => okIf (decide (b = 0)) (.killcr d a nt)
  | 0xCA => .ok (.tlbinv d a b nt)
  | 0xCB => okIf (decide (d = 0)) (.cinv a b nt)
  | 0xCC => .ok (.tkt d a b nt)
  | 0xCD => .ok (.hmsg d a b nt)
  | 0xCE => okIf (decide (d = 0 ∧ a = 0 ∧ b = 0)) (.idle nt)
  | _ => .error .illegal

/-- Engine 0, copy (R225). -/
def decodeX0 (fn : Nat) (y : BitVec 1) (d a b : BitVec 6) : Except DecodeError Instr :=
  match fn with
  | 0 => okIf (decide (b = 0)) (.mcopy y d a)
  | 1 => okIf (decide (b = 0)) (.ucopy y d a)
  | 2 => okIf (decide (b = 0)) (.gcopy y d a)
  | 3 => okIf (decide (b = 0)) (.reduce y d a)
  | 4 => okIf (decide (y = 1)) (.cqry d a b)
  | _ => .error .illegal

/-- Engine 1, vat and stream (R225). -/
def decodeX1 (fn : Nat) (y : BitVec 1) (d a b : BitVec 6) : Except DecodeError Instr :=
  match fn with
  | 0 => .ok (.vinit y d a b)
  | 1 => okIf (decide (y = 1 ∧ b = 0)) (.vtake d a)
  | 2 => .ok (.vput y d a b)
  | 3 => okIf (decide (y = 1)) (.vqry d a b)
  | 4 => .ok (.sfill y d a b)
  | 5 => .ok (.sdrain y d a b)
  | 6 => okIf (decide (b = 0)) (.sstop y d a)
  | _ => .error .illegal

/-- Engine 2, matrix (R225). -/
def decodeX2 (fn : Nat) (y : BitVec 1) (d a b : BitVec 6) : Except DecodeError Instr :=
  match fn with
  | 0 => .ok (.mma y d a b)
  | 1 => .ok (.mmac y d a b)
  | 2 => okIf (decide (y = 0 ∧ d = 0 ∧ a = 0 ∧ b = 0)) (.mfence)
  | 3 => okIf (decide (y = 0 ∧ d = 0 ∧ b = 0)) (.mwait a)
  | 4 => okIf (decide (y = 1 ∧ b = 0)) (.mqry d a)
  | _ => .error .illegal

/-- Engine 3, cellar (R225). -/
def decodeX3 (slot : Bool) (fn : Nat) (y : BitVec 1) (d a b : BitVec 6) : Except DecodeError Instr :=
  match fn with
  | 0 => okIf (decide (y = 1 ∧ b = 0)) (.celget d a)
  | 1 => .ok (.celpin y d a b)
  | 2 => okIf (decide (b = 0)) (if slot then .celfreeEvict y d a else .celfree y d a)
  | 3 => okIf (decide (b = 0)) (.celld y d a)
  | 4 => okIf (decide (b = 0)) (.celst y d a)
  | 5 => okIf (decide (b = 0)) (.celz y d a)
  | 6 => okIf (decide (b = 0)) (.delta y d a)
  | 7 => okIf (decide (b = 0)) (.dqry y d a)
  | _ => .error .illegal

/-- Engine 4, fabric (R225). -/
def decodeX4 (fn : Nat) (y : BitVec 1) (d a b : BitVec 6) : Except DecodeError Instr :=
  match fn with
  | 0 => okIf (decide (y = 1 ∧ b = 0)) (.agset d a)
  | 1 => okIf (decide (b = 0)) (.agfree y d a)
  | 2 => okIf (decide (b = 0)) (.mst y d a)
  | 3 => okIf (decide (b = 0)) (.mldr y d a)
  | 4 => okIf (decide (b = 0)) (.coll y d a)
  | 5 => okIf (decide (y = 1 ∧ b = 0)) (.collw d a)
  | 6 => okIf (decide (y = 0 ∧ d = 0 ∧ a = 0 ∧ b = 0)) (.flush)
  | _ => .error .illegal

/-- Engine 5, level sequencer (R225). -/
def decodeX5 (fn : Nat) (y : BitVec 1) (d a b : BitVec 6) : Except DecodeError Instr :=
  match fn with
  | 0 => .ok (.launch y d a b)
  | 1 => .ok (.launchd y d a b)
  | 2 => okIf (decide (y = 1 ∧ a = 0 ∧ b = 0)) (.join d)
  | 3 => okIf (decide (y = 1 ∧ a = 0 ∧ b = 0)) (.joinall d)
  | 4 => okIf (decide (y = 1 ∧ b = 0)) (.tileq d a)
  | 5 => okIf (decide (a = 0 ∧ b = 0)) (.cancel y d)
  | 6 => .ok (.qpush y d a b)
  | _ => .error .illegal

/-- Engine 6, time (R225). -/
def decodeX6 (fn : Nat) (y : BitVec 1) (d a b : BitVec 6) : Except DecodeError Instr :=
  match fn with
  | 0 => okIf (decide (y = 1 ∧ b = 0)) (.timeq d a)
  | 1 => .ok (.tsig y d a b)
  | _ => .error .illegal

/-- Any X-form word (R225); engine 7 is reserved. `slot` is true in the privileged slot, where CELFREE evicts (R420). -/
def decodeX (slot : Bool) (eng fn : Nat) (y : BitVec 1) (d a b : BitVec 6) : Except DecodeError Instr :=
  match eng with
  | 0 => decodeX0 fn y d a b
  | 1 => decodeX1 fn y d a b
  | 2 => decodeX2 fn y d a b
  | 3 => decodeX3 slot fn y d a b
  | 4 => decodeX4 fn y d a b
  | 5 => decodeX5 fn y d a b
  | 6 => decodeX6 fn y d a b
  | _ => .error .illegal

/-- Any R-, I- or L-form word by its opcode (R219 to R224); a privileged opcode outside the privileged slot is PRIV
before its fields are checked (R226). -/
def decodeOp (slot : Bool) (op : Nat) (d a b : BitVec 6) (nt : Ann) (l1 l2 : Word) : Except DecodeError Instr :=
  match op / 16 with
  | 0x0 => decode0 op d a b nt l1 l2
  | 0x1 => decode1 op d a b nt l1
  | 0x2 => decode2 op d a b nt l1
  | 0x3 => decode3 op d a b nt l1
  | 0x4 => decode4 op d a b nt l1
  | 0x5 => decode5 op d a b nt l1
  | 0x6 => decode6 op d a b nt l1
  | 0x7 => decode7 op d a b nt l1
  | 0x9 => decode9 op d a b nt l1
  | 0xA => decodeA op d a b nt l1
  | 0xB => decodeB op d a b nt l1
  | 0xC => if op = 0xCF then .error .illegal else if slot then decodeC op d a b nt l1 else .error .priv
  | _ => .error .illegal

/-- The instruction at the leading word w with the words l1 and l2 after it, issued from the privileged slot or not
(R213 to R226). Total: every word is an instruction or an error of R226. -/
def decode (slot : Bool) (w l1 l2 : Word) : Except DecodeError Instr :=
  let op := w.toNat / 2 ^ 24
  if w.toNat / 2 ^ 29 = 7 then
    decodeX slot (w.toNat % 8) (w.toNat / 2 ^ 22 % 128) (bitsAt 1 21 w) (bitsAt 6 15 w) (bitsAt 6 9 w) (bitsAt 6 3 w)
  else if op = 1 then .ok (.setm (bitsAt 24 0 w))
  else if op = 2 then .ok (.setmh (bitsAt 24 0 w))
  else if op = 5 then .ok (.braJ (bitsAt 20 4 w) (bitsAt 4 0 w))
  else decodeOp slot op (bitsAt 6 18 w) (bitsAt 6 12 w) (bitsAt 6 6 w) ⟨bitsAt 2 4 w, bitsAt 4 0 w⟩ l1 l2

/-- The words of an instruction (R214 to R225); a device step has none. -/
def encode (i : Instr) : List Word :=
  match i with
  | .nop nt => [mkR 0x00 0 0 0 nt]
  | .yield nt => [mkR 0x00 1 0 0 nt]
  | .setm i => [mkM 0x01 i]
  | .setmh i => [mkM 0x02 i]
  | .getm d nt => [mkR 0x03 d 0 0 nt]
  | .gets d a nt => [mkR 0x04 d a 0 nt]
  | .braJ o s => [mkJ 0x05 o s]
  | .braL pn p off nt => mkR 0x06 (up 1 pn) (up 3 p) 0 nt :: [off]
  | .brx a nt => [mkR 0x07 0 a 0 nt]
  | .call n off nt => mkR 0x08 n 0 0 nt :: [off]
  | .callx d a nt => [mkR 0x09 d a 0 nt]
  | .ret d nt => [mkR 0x0A d 0 0 nt]
  | .exit nt => [mkR 0x0B 0 0 0 nt]
  | .trap i nt => [mkR 0x0C 0 0 i nt]
  | .brk i nt => [mkR 0x0C 1 0 i nt]
  | .wait file a nt => [mkR 0x0D (up 2 file) a 0 nt]
  | .sleep a nt => [mkR 0x0E 0 a 0 nt]
  | .phint r0 r1 lo hi nt => mkR 0x0F r0 r1 0 nt :: [lo, hi]
  | .iadd d a b nt => [mkR 0x10 d a b nt]
  | .isub d a b nt => [mkR 0x11 d a b nt]
  | .iaddc d a b p pn nt => mkR 0x12 d a 0 nt :: [(mkOL 0 0 0 pn p b)]
  | .imul d a b nt => [mkR 0x13 d a b nt]
  | .imulh d a b nt => [mkR 0x14 d a b nt]
  | .imad d a b nt => [mkR 0x15 d a b nt]
  | .ineg d a nt => [mkR 0x16 d a 0 nt]
  | .iabs d a nt => [mkR 0x17 d a 0 nt]
  | .imin d a b nt => [mkR 0x18 d a b nt]
  | .imax d a b nt => [mkR 0x19 d a b nt]
  | .and d a b nt => [mkR 0x1A d a b nt]
  | .or d a b nt => [mkR 0x1B d a b nt]
  | .xor d a b nt => [mkR 0x1C d a b nt]
  | .andn d a b nt => [mkR 0x1D d a b nt]
  | .not d a nt => [mkR 0x1E d a 0 nt]
  | .shlR d a b nt => [mkR 0x1F d a b nt]
  | .shrR d a b nt => [mkR 0x20 d a b nt]
  | .shaR d a b nt => [mkR 0x21 d a b nt]
  | .rolR d a b nt => [mkR 0x22 d a b nt]
  | .shlI d a i nt => [mkR 0x23 d a (up 5 i) nt]
  | .shrI d a i nt => [mkR 0x24 d a (up 5 i) nt]
  | .shaI d a i nt => [mkR 0x25 d a (up 5 i) nt]
  | .rolI d a i nt => [mkR 0x26 d a (up 5 i) nt]
  | .fsh d a i nt => [mkR 0x27 d a (up 5 i) nt]
  | .popc d a nt => [mkR 0x28 d a 0 nt]
  | .clz d a nt => [mkR 0x29 d a 0 nt]
  | .brev d a nt => [mkR 0x2A d a 0 nt]
  | .bfx d a pos len nt => mkR 0x2B d a 0 nt :: [(mkOL len pos 0 0 0 0)]
  | .bfi d a b pos len nt => mkR 0x2C d a 0 nt :: [(mkOL len pos 0 0 0 b)]
  | .bperm d a b nt => [mkR 0x2D d a b nt]
  | .sel d a b p pn nt => mkR 0x2E d a 0 nt :: [(mkOL 0 0 0 pn p b)]
  | .icmp d a b fn nt => mkR 0x2F (up 3 d) a 0 nt :: [(mkOL 0 0 fn 0 0 b)]
  | .iaddi d a i nt => [mkR 0x30 d a i nt]
  | .mov d a nt => [mkR 0x31 d a 0 nt]
  | .movi d i nt => [mkR 0x32 d 0 i nt]
  | .lit d x nt => mkR 0x33 d 0 0 nt :: [x]
  | .movs d a nt => [mkR 0x34 d a 0 nt]
  | .movv d a i nt => [mkR 0x35 d a i nt]
  | .lea d a b nt => [mkR 0x36 d a b nt]
  | .sadd d a b nt => [mkR 0x40 d a b nt]
  | .ssub d a b nt => [mkR 0x41 d a b nt]
  | .smul d a b nt => [mkR 0x42 d a b nt]
  | .sand d a b nt => [mkR 0x43 d a b nt]
  | .sor d a b nt => [mkR 0x44 d a b nt]
  | .sxor d a b nt => [mkR 0x45 d a b nt]
  | .sshl d a b nt => [mkR 0x46 d a b nt]
  | .sshr d a b nt => [mkR 0x47 d a b nt]
  | .scmp d a b fn nt => mkR 0x48 (up 3 d) a 0 nt :: [(mkOL 0 0 fn 0 0 b)]
  | .smovSS d a nt => [mkR 0x49 d a 0 nt]
  | .smovFS d a nt => [mkR 0x4A (up 3 d) a 0 nt]
  | .smovSF d a nt => [mkR 0x4B d (up 3 a) 0 nt]
  | .slitS d x nt => mkR 0x4C d 0 0 nt :: [x]
  | .slitF d x nt => mkR 0x4D (up 3 d) 0 0 nt :: [x]
  | .pand d a b nt => [mkR 0x50 (up 3 d) (up 3 a) (up 3 b) nt]
  | .por d a b nt => [mkR 0x51 (up 3 d) (up 3 a) (up 3 b) nt]
  | .pxor d a b nt => [mkR 0x52 (up 3 d) (up 3 a) (up 3 b) nt]
  | .pnot d a nt => [mkR 0x53 (up 3 d) (up 3 a) 0 nt]
  | .pmov d a nt => [mkR 0x54 (up 3 d) (up 3 a) 0 nt]
  | .shfl d a b nt => [mkR 0x58 d a b nt]
  | .vote d a nt => [mkR 0x59 d (up 3 a) 0 nt]
  | .lred d a i nt => [mkR 0x5A d a i nt]
  | .lscan d a i nt => [mkR 0x5B d a i nt]
  | .matchV d a nt => [mkR 0x5C d a 0 nt]
  | .compact d a nt => [mkR 0x5D d a 0 nt]
  | .regroup d a b nt => [mkR 0x5E (up 3 d) a b nt]
  | .fadd d a b nt => [mkR 0x60 d a b nt]
  | .fsub d a b nt => [mkR 0x61 d a b nt]
  | .fmul d a b nt => [mkR 0x62 d a b nt]
  | .ffma d a b nt => [mkR 0x63 d a b nt]
  | .fmin d a b nt => [mkR 0x64 d a b nt]
  | .fmax d a b nt => [mkR 0x65 d a b nt]
  | .fminn d a b nt => [mkR 0x66 d a b nt]
  | .fmaxn d a b nt => [mkR 0x67 d a b nt]
  | .fabs d a nt => [mkR 0x68 d a 0 nt]
  | .fneg d a nt => [mkR 0x69 d a 0 nt]
  | .fcmp d a b fn nt => mkR 0x6A (up 3 d) a 0 nt :: [(mkOL 0 0 fn 0 0 b)]
  | .frcp d a nt => [mkR 0x6B d a 0 nt]
  | .frsq d a nt => [mkR 0x6C d a 0 nt]
  | .fsqrt d a nt => [mkR 0x6D d a 0 nt]
  | .fex2 d a nt => [mkR 0x6E d a 0 nt]
  | .flg2 d a nt => [mkR 0x6F d a 0 nt]
  | .fsin d a nt => [mkR 0x70 d a 0 nt]
  | .fcos d a nt => [mkR 0x71 d a 0 nt]
  | .ftanh d a nt => [mkR 0x72 d a 0 nt]
  | .fscl d a b nt => [mkR 0x73 d a b nt]
  | .frnd d a nt => [mkR 0x74 d a 0 nt]
  | .fcls d a nt => [mkR 0x75 d a 0 nt]
  | .fcvt d a i nt => [mkR 0x76 d a (up 5 i) nt]
  | .icvt d a i nt => [mkR 0x77 d a (up 5 i) nt]
  | .tsum d a b nt => [mkR 0x78 d a b nt]
  | .tprd d a b nt => [mkR 0x79 d a b nt]
  | .cmul d a b nt => [mkR 0x7A d a b nt]
  | .cfma d a b nt => [mkR 0x7B d a b nt]
  | .dot2 d a b nt => [mkR 0x7C d a b nt]
  | .h2add d a b nt => [mkR 0x7D d a b nt]
  | .h2mul d a b nt => [mkR 0x7E d a b nt]
  | .h2fma d a b nt => [mkR 0x7F d a b nt]
  | .qblk d a b nt => [mkR 0x90 d a b nt]
  | .qcvt d a b nt => [mkR 0x91 d a b nt]
  | .plsplit d a i nt => [mkR 0x92 d a (up 2 i) nt]
  | .pljoin d a b nt => [mkR 0x93 d a b nt]
  | .ldI d a i nt => [mkR 0x98 d a i nt]
  | .ldL d a off nt => mkR 0x99 d a 0 nt :: [off]
  | .stI d a i nt => [mkR 0x9A d a i nt]
  | .stL d a off nt => mkR 0x9B d a 0 nt :: [off]
  | .ldl d a b nt => [mkR 0x9C d a b nt]
  | .stl d a b nt => [mkR 0x9D d a b nt]
  | .atom d a b fn nt => mkR 0x9E d a 0 nt :: [(mkOL 0 0 fn 0 0 b)]
  | .atomc d a b nt => [mkR 0x9F d a b nt]
  | .red a b fn nt => mkR 0xA0 0 a 0 nt :: [(mkOL 0 0 fn 0 0 b)]
  | .fence nt => [mkR 0xA1 0 0 0 nt]
  | .cctl a i nt => [mkR 0xA2 0 a i nt]
  | .lalloc d a i nt => [mkR 0xA3 d a i nt]
  | .lfree d a i nt => [mkR 0xA4 d a i nt]
  | .tlmake d a nt => [mkR 0xA5 d a 0 nt]
  | .tldrop d a nt => [mkR 0xA6 d a 0 nt]
  | .tlqry d a i nt => [mkR 0xA7 d a i nt]
  | .binit d a i nt => [mkR 0xB0 d a (up 3 i) nt]
  | .blink d a b nt => [mkR 0xB1 d a b nt]
  | .bara a i nt => [mkR 0xB2 0 a (up 3 i) nt]
  | .barw d a i nt => [mkR 0xB3 d a (up 3 i) nt]
  | .baraw d a i nt => [mkR 0xB4 d a (up 3 i) nt]
  | .bart d a i nt => [mkR 0xB5 d a (up 3 i) nt]
  | .barx d a i nt => [mkR 0xB6 d a (up 3 i) nt]
  | .push a i nt => [mkR 0xB8 0 a (up 3 i) nt]
  | .pushr a i nt => [mkR 0xB9 0 a (up 3 i) nt]
  | .pop d i nt => [mkR 0xBA d 0 (up 3 i) nt]
  | .peek d i nt => [mkR 0xBB d 0 (up 3 i) nt]
  | .pqry d i nt => [mkR 0xBC d 0 (up 3 i) nt]
  | .plink d a i nt => [mkR 0xBD d a (up 3 i) nt]
  | .plinkUnlink d i nt => [mkR 0xBD d 0 (upHi 1 3 i) nt]
  | .tret nt => [mkR 0xC0 0 0 0 nt]
  | .csrr d csr nt => [mkR 0xC1 d 0 0 nt, csr]
  | .csrw a csr nt => [mkR 0xC2 0 a 0 nt, csr]
  | .ctxrd d a item nt => mkR 0xC3 d a 0 nt :: [item]
  | .ctxwr d a item nt => mkR 0xC4 d a 0 nt :: [item]
  | .save d a b nt => [mkR 0xC5 d a b nt]
  | .rstr d a b nt => [mkR 0xC6 d a b nt]
  | .haltcr d a nt => [mkR 0xC7 d a 0 nt]
  | .resume d a nt => [mkR 0xC8 d a 0 nt]
  | .killcr d a nt => [mkR 0xC9 d a 0 nt]
  | .tlbinv d a b nt => [mkR 0xCA d a b nt]
  | .cinv a i nt => [mkR 0xCB 0 a i nt]
  | .tkt d a b nt => [mkR 0xCC d a b nt]
  | .hmsg d a b nt => [mkR 0xCD d a b nt]
  | .idle nt => [mkR 0xCE 0 0 0 nt]
  | .mcopy y d a => [mkX 0 y d a 0 0]
  | .ucopy y d a => [mkX 1 y d a 0 0]
  | .gcopy y d a => [mkX 2 y d a 0 0]
  | .reduce y d a => [mkX 3 y d a 0 0]
  | .cqry d a b => [mkX 4 1 d a b 0]
  | .vinit y d a b => [mkX 0 y d a b 1]
  | .vtake d a => [mkX 1 1 d a 0 1]
  | .vput y d a b => [mkX 2 y d a b 1]
  | .vqry d a b => [mkX 3 1 d a b 1]
  | .sfill y d a b => [mkX 4 y d a b 1]
  | .sdrain y d a b => [mkX 5 y d a b 1]
  | .sstop y d a => [mkX 6 y d a 0 1]
  | .mma y d a b => [mkX 0 y d a b 2]
  | .mmac y d a b => [mkX 1 y d a b 2]
  | .mfence => [mkX 2 0 0 0 0 2]
  | .mwait a => [mkX 3 0 0 a 0 2]
  | .mqry d a => [mkX 4 1 d a 0 2]
  | .celget d a => [mkX 0 1 d a 0 3]
  | .celpin y d a b => [mkX 1 y d a b 3]
  | .celfree y d a => [mkX 2 y d a 0 3]
  | .celfreeEvict y d a => [mkX 2 y d a 0 3]
  | .celld y d a => [mkX 3 y d a 0 3]
  | .celst y d a => [mkX 4 y d a 0 3]
  | .celz y d a => [mkX 5 y d a 0 3]
  | .delta y d a => [mkX 6 y d a 0 3]
  | .dqry y d a => [mkX 7 y d a 0 3]
  | .agset d a => [mkX 0 1 d a 0 4]
  | .agfree y d a => [mkX 1 y d a 0 4]
  | .mst y d a => [mkX 2 y d a 0 4]
  | .mldr y d a => [mkX 3 y d a 0 4]
  | .coll y d a => [mkX 4 y d a 0 4]
  | .collw d a => [mkX 5 1 d a 0 4]
  | .flush => [mkX 6 0 0 0 0 4]
  | .launch y d a b => [mkX 0 y d a b 5]
  | .launchd y d a b => [mkX 1 y d a b 5]
  | .join d => [mkX 2 1 d 0 0 5]
  | .joinall d => [mkX 3 1 d 0 0 5]
  | .tileq d a => [mkX 4 1 d a 0 5]
  | .cancel y d => [mkX 5 y d 0 0 5]
  | .qpush y d a b => [mkX 6 y d a b 5]
  | .timeq d a => [mkX 0 1 d a 0 6]
  | .tsig y d a b => [mkX 1 y d a b 6]
  | .scoreboardLand _ _ => []
  | .storeQueueDrain _ => []
  | .storeAck _ => []
  | .remoteAccess _ => []
  | .fabricResponse _ => []
  | .impreciseFault => []
  | .spill _ _ => []
  | .fill _ _ => []
  | .haltComplete _ => []
  | .eventDelivery _ _ => []
  | .preqWrite a hi nt => [mkR 0xC2 0 a 0 nt, if hi = 0 then 0x0008 else 0x0009]
  | .graceExpiry _ => []
  | .watchdog _ _ => []
  | .dsplitWrite a nt => [mkR 0xC2 0 a 0 nt, 0x1000]
  | .dsplitDone _ _ => []
  | .timelRead d nt => [mkR 0xC1 d 0 0 nt, 0x2002]
  | .ctxerrRead d nt => [mkR 0xC1 d 0 0 nt, 0x000B]
  | .childStart _ _ => []
  | .dependenceEntry _ _ => []
  | .childRelaunch _ _ => []
  | .tileComplete _ => []
  | .sleepWake _ _ => []
  | .tsigFire _ _ => []
  | .copyArrival _ => []
  | .streamSlotDone _ => []
  | .streamFault _ => []
  | .matrixArrival _ => []
  | .portValueLand _ _ _ => []
  | .portPark _ _ => []
  | .portDeadlock _ => []
  | .fabricArrival _ => []
  | .switchContribution _ => []
  | .tupleTimeout _ _ => []
  | .collStepTimeout _ => []
  | .fabricPacketExpiry _ => []
  | .linkFailure _ _ _ => []
  | .kick _ _ _ _ => []
  | .nopPacket _ _ => []
  | .launchPacket _ _ _ => []
  | .gangPacket _ _ => []
  | .waitPacket _ _ => []
  | .waitPacketPoll _ _ _ => []
  | .signalPacket _ _ => []
  | .signalAck _ _ _ => []
  | .timestampPacket _ _ => []
  | .reserve _ _ _ => []
  | .held _ _ => []
  | .gangNo _ _ => []
  | .commit _ _ => []
  | .release _ _ => []
  | .reserveTimerExpiry _ => []
  | .holdTimerExpiry _ _ => []
  | .backoffExpiry _ => []
  | .gangPartStart _ _ => []
  | .rdmaWrite _ _ _ _ _ => []
  | .rdmaRead _ _ _ _ _ => []
  | .rdmaNak _ _ => []
  | .hmsgTimeout _ => []
  | .query _ _ => []
  | .setp _ _ => []
  | .setfloor _ _ => []
  | .cleartrip _ _ => []
  | .attest _ _ => []
  | .idkey _ _ => []
  | .joinmem _ _ => []
  | .thermalTrip _ => []
  | .powerOn _ => []
  | .firmwareLoaded _ _ _ => []
  | .firmwareVerified _ _ => []
  | .stackTrainingDone _ _ _ => []
  | .dieLinksUp _ _ => []
  | .thermalCalibrationDone _ => []
  | .coreReset _ _ => []
  | .dieReset _ _ => []
  | .packageReset _ => []
  | .powerCycle _ => []
  | .softError _ _ _ _ => []
  | .podTimeSyncChange _ _ _ => []
  | .packageReachable _ _ => []

/-- True when the instruction issues from the privileged slot only: a privileged opcode (R224), or CELFREE as eviction (R420). -/
def privSlot (i : Instr) : Bool :=
  match encode i with
  | [] => false
  | w :: _ => (decide (0xC0 ≤ w.toNat / 2 ^ 24) && decide (w.toNat / 2 ^ 24 ≤ 0xCE)) ||
    (match i with
     | .celfreeEvict _ _ _ => true
     | _ => false)

/-- The number of words of an instruction with the leading word w (R213). -/
def wordCount (w : Word) : Nat :=
  if w.toNat / 2 ^ 29 = 7 then 1 else 1 + literalWords (w.toNat / 2 ^ 24)

/-- The k-th 32-bit word of an instruction laid out first word lowest. -/
def tableWord (w k : Nat) : Word := BitVec.ofNat 32 (w / 2 ^ (32 * k))

/-- The decoder's answer for an instruction whose bits are w, first word lowest, words it does not give being zero.
Privileged opcodes are decoded as in the privileged slot, every other word as outside it. -/
def decodeTableWord (nbits w : Nat) : Option Instr :=
  let x := w % 2 ^ nbits
  let op := (tableWord x 0).toNat / 2 ^ 24
  (decode (decide (0xC0 ≤ op) && decide (op ≤ 0xCE)) (tableWord x 0) (tableWord x 1) (tableWord x 2)).toOption

end Sys2Proof
end

