-- ==== Sys2Proof/Machine/Num.lean ====
section
/-! DEFINITION. Exact numbers and rounding: the formats of R76, special values R78, flushing R79, the rounding modes R81 to R85, conversions R86 to R88. -/

namespace Sys2Proof.Machine

/-- An exact extended real: NaN, a signed infinity, or sign × m × 2^e (zeros keep their sign). -/
inductive XR where
  | nan
  | inf (neg : Bool)
  | fin (neg : Bool) (m : Nat) (e : Int)
  deriving DecidableEq, Repr

/-- A positive real magnitude to be rounded: a ratio, or the square root of a ratio. -/
inductive Mag where
  | rat (num den : Nat)
  | sqrt (num den : Nat)
  deriving DecidableEq, Repr

/-- Integer square root by bits: the greatest r with r × r ≤ n, searching below 2^fuel. -/
def isqrtGo (n : Nat) : Nat → Nat → Nat
  | 0, r => r
  | k + 1, r => if (r + 2 ^ k) * (r + 2 ^ k) ≤ n then isqrtGo n k (r + 2 ^ k) else isqrtGo n k r

def isqrt (n : Nat) : Nat := isqrtGo n (n.log2 / 2 + 1) 0

/-- num/den × 2^s as a ratio. -/
def scaleRat (num den : Nat) (s : Int) : Nat × Nat :=
  if 0 ≤ s then (num * 2 ^ s.toNat, den) else (num, den * 2 ^ (-s).toNat)

/-- floor(x / 2^e) and whether that quotient is exact. -/
def Mag.scaled (x : Mag) (e : Int) : Nat × Bool :=
  match x with
  | .rat n d => let (a, b) := scaleRat n d (-e); (a / b, a % b == 0)
  | .sqrt n d =>
    let (a, b) := scaleRat n d (-(2 * e))
    let r := isqrt (a / b)
    (r, r * r * b == a)

/-- floor(log2 (num/den)) of a positive ratio. -/
def ratLog2 (num den : Nat) : Int :=
  let k : Int := (num.log2 : Int) - (den.log2 : Int)
  let (a, b) := scaleRat num den (-k)
  if a < b then k - 1 else k

/-- floor(log2 x) of a positive magnitude. -/
def Mag.log2 : Mag → Int
  | .rat n d => ratLog2 n d
  | .sqrt n d => ratLog2 n d / 2

def Mag.isZero : Mag → Bool
  | .rat n _ => n == 0
  | .sqrt n _ => n == 0

/-- m × 2^e as a magnitude. -/
def Mag.dyadic (m : Nat) (e : Int) : Mag := let (a, b) := scaleRat m 1 e; .rat a b

/-- The rounding modes of R58. -/
inductive RM where
  | rne | rz | rd | ru | rna | sr
  deriving DecidableEq, Repr

/-- MODE.RM codes; 6 and 7 are reserved (R58). -/
def RM.ofCode : Nat → Option RM
  | 0 => some .rne | 1 => some .rz | 2 => some .rd | 3 => some .ru | 4 => some .rna | 5 => some .sr
  | _ => none

/-- The choice of R81 and R83 between the candidates q and q + 1: t holds q and 32 further bits, `exact` says nothing
lies below them, r is the draw. True means the candidate of larger magnitude. -/
def roundUp (rm : RM) (neg odd : Bool) (f : Nat) (exact : Bool) (r : Nat) : Bool :=
  if f == 0 && exact then false else
  match rm with
  | .rne => decide (2 ^ 31 < f) || (f == 2 ^ 31 && (!exact || odd))
  | .rz => false
  | .rd => neg
  | .ru => !neg
  | .rna => decide (2 ^ 31 ≤ f)
  | .sr => decide (2 ^ 32 ≤ f + r)

/-- x rounded to a multiple of 2^e: the multiple (R81, R83). -/
def Mag.roundTo (x : Mag) (e : Int) (rm : RM) (neg : Bool) (r : Nat) : Nat :=
  let (t, exact) := x.scaled (e - 32)
  let q := t / 2 ^ 32
  if roundUp rm neg (q % 2 == 1) (t % 2 ^ 32) exact r then q + 1 else q

/-- An IEEE 754 binary interchange format (R76). -/
structure FFmt where
  ebits : Nat
  mbits : Nat
  deriving DecidableEq, Repr

def f16 : FFmt := ⟨5, 10⟩
def bf16 : FFmt := ⟨8, 7⟩
def f32 : FFmt := ⟨8, 23⟩
def f64 : FFmt := ⟨11, 52⟩

def FFmt.bits (f : FFmt) : Nat := 1 + f.ebits + f.mbits
def FFmt.bias (f : FFmt) : Nat := 2 ^ (f.ebits - 1) - 1
/-- Exponent of the subnormal spacing. -/
def FFmt.emin (f : FFmt) : Int := 1 - (f.bias : Int) - f.mbits
def FFmt.infCode (f : FFmt) : Nat := (2 ^ f.ebits - 1) * 2 ^ f.mbits
def FFmt.signBit (f : FFmt) : Nat := 2 ^ (f.ebits + f.mbits)
/-- The canonical quiet NaN of R78. -/
def FFmt.nanCode (f : FFmt) : Nat := f.infCode + 2 ^ (f.mbits - 1)
def FFmt.sgn (f : FFmt) (neg : Bool) : Nat := if neg then f.signBit else 0

/-- The exact value of a code (R76). -/
def FFmt.decode (f : FFmt) (c : Nat) : XR :=
  let neg := flag c (f.ebits + f.mbits)
  let e := c / 2 ^ f.mbits % 2 ^ f.ebits
  let m := c % 2 ^ f.mbits
  if e == 2 ^ f.ebits - 1 then (if m == 0 then .inf neg else .nan)
  else if e == 0 then .fin neg m f.emin
  else .fin neg (2 ^ f.mbits + m) (f.emin + (e : Int) - 1)

/-- A rounded code with what R162, R167 and R78 report about it. -/
structure Rounded where
  code : Nat
  ovf : Bool := false
  sat : Bool := false
  deriving DecidableEq, Repr

/-- Rounding of a magnitude to the format by R81, with overflow by R82. -/
def FFmt.roundMag (f : FFmt) (rm : RM) (satM : Bool) (r : Nat) (neg : Bool) (x : Mag) : Rounded :=
  if x.isZero then ⟨f.sgn neg, false, false⟩ else
  let e := max (x.log2 - f.mbits) f.emin
  let q := x.roundTo e rm neg r
  let c := (e - f.emin).toNat * 2 ^ f.mbits + q
  if c < f.infCode then ⟨f.sgn neg + c, false, false⟩
  else if satM then ⟨f.sgn neg + f.infCode - 1, true, true⟩
  else
    let toMax := match rm with
      | .rz => true
      | .rd => !neg
      | .ru => neg
      | _ => false
    ⟨f.sgn neg + (if toMax then f.infCode - 1 else f.infCode), true, false⟩

/-- Round(x, T, rm) for the standard formats, without flushing (R81, R82, R86). -/
def FFmt.round (f : FFmt) (rm : RM) (satM : Bool) (r : Nat) : XR → Rounded
  | .nan => ⟨f.nanCode, false, false⟩
  | .inf neg => ⟨f.sgn neg + f.infCode, false, false⟩
  | .fin neg m e => f.roundMag rm satM r neg (Mag.dyadic m e)

/-- A code that is a non-zero subnormal. -/
def FFmt.isSub (f : FFmt) (c : Nat) : Bool :=
  let a := c % f.signBit
  decide (0 < a) && decide (a < 2 ^ f.mbits)

/-- FTZ: a subnormal becomes a zero of its sign (R79). -/
def FFmt.flush (f : FFmt) (ftz : Bool) (c : Nat) : Nat :=
  if ftz && f.isSub c then c - c % f.signBit else c

def FFmt.isNan (f : FFmt) (c : Nat) : Bool := decide (f.infCode < c % f.signBit)

namespace XR

def isNan : XR → Bool
  | .nan => true
  | _ => false

def isInf : XR → Bool
  | .inf _ => true
  | _ => false

def isZero : XR → Bool
  | .fin _ m _ => m == 0
  | _ => false

def neg? : XR → Bool
  | .nan => false
  | .inf s => s
  | .fin s _ _ => s

def neg : XR → XR
  | .nan => .nan
  | .inf s => .inf (!s)
  | .fin s m e => .fin (!s) m e

def abs : XR → XR
  | .nan => .nan
  | .inf _ => .inf false
  | .fin _ m e => .fin false m e

/-- The zero of a sign. -/
def zero (neg : Bool) : XR := .fin neg 0 0

/-- An exact integer. -/
def ofInt (x : Int) : XR := .fin (decide (x < 0)) x.natAbs 0

/-- The signed multiple of 2^lo that a finite value is, for lo at or below its exponent. -/
def signedAt (lo : Int) : XR → Int
  | .fin s m e => let a : Int := (m * 2 ^ (e - lo).toNat : Nat); if s then -a else a
  | _ => 0

def expo : XR → Int
  | .fin _ _ e => e
  | _ => 0

/-- Exact product: NaN for 0 × Inf (R78). -/
def mul : XR → XR → XR
  | .nan, _ => .nan
  | _, .nan => .nan
  | .inf s, .inf t => .inf (s != t)
  | .inf s, .fin t m _ => if m == 0 then .nan else .inf (s != t)
  | .fin t m _, .inf s => if m == 0 then .nan else .inf (s != t)
  | .fin s m e, .fin t n f => .fin (s != t) (m * n) (e + f)

/-- Exact sum; an exact zero sum of opposite signs takes the sign `zs` (R78: +0, or −0 under RD). -/
def addZ (zs : Bool) : XR → XR → XR
  | .nan, _ => .nan
  | _, .nan => .nan
  | .inf s, .inf t => if s == t then .inf s else .nan
  | .inf s, .fin _ _ _ => .inf s
  | .fin _ _ _, .inf t => .inf t
  | .fin s m e, .fin t n f =>
    let lo := min e f
    let z := signedAt lo (.fin s m e) + signedAt lo (.fin t n f)
    if z == 0 then
      (if m == 0 && n == 0 && s == t then .fin s 0 lo else .fin zs 0 lo)
    else .fin (decide (z < 0)) z.natAbs lo

def add (x y : XR) : XR := addZ false x y
def sub (x y : XR) : XR := add x y.neg

/-- Order of two values that are not NaN: the sign of x − y, zeros equal. -/
def cmp : XR → XR → Ordering
  | .inf s, .inf t => if s == t then .eq else if s then .lt else .gt
  | .inf s, _ => if s then .lt else .gt
  | _, .inf t => if t then .gt else .lt
  | x, y => compare (signedAt (min x.expo y.expo) x) (signedAt (min x.expo y.expo) y)

/-- The magnitude of a finite value. -/
def mag : XR → Mag
  | .fin _ m e => Mag.dyadic m e
  | _ => .rat 0 1

end XR

/-- RoundNE32 of R7: FP32 code, round to nearest even, overflow to infinity, subnormals kept. -/
def roundNE32 (x : XR) : Nat := (f32.round .rne false 0 x).code

/-- The exact value of an FP32 word. -/
def x32 (w : Word) : XR := f32.decode w.toNat

/-- The FP32 word of RoundNE32. -/
def ne32 (x : XR) : Word := BitVec.ofNat 32 (roundNE32 x)

/-- IEEE 754-2019 minimum or maximum on exact values: any NaN gives NaN, −0 orders below +0 (R132, R198). -/
def xMinMax (wantMax : Bool) (x y : XR) : XR :=
  if x.isNan || y.isNan then .nan else
  let xLess := match x.cmp y with
    | .lt => true
    | .gt => false
    | .eq => x.neg?
  if xLess == wantMax then y else x

/-- minimumNumber or maximumNumber: a NaN is ignored unless both are NaN (R198). -/
def xMinMaxNum (wantMax : Bool) (x y : XR) : XR :=
  if x.isNan then y else if y.isNan then x else xMinMax wantMax x y

/-- A value rounded to an integer by a mode (R87). -/
def roundInt (rm : RM) (r : Nat) : XR → Int
  | .fin neg m e =>
    let q := (Mag.dyadic m e).roundTo 0 rm neg r
    if neg then -(q : Int) else q
  | _ => 0

/-- Clamp an integer to the range of an n-bit type (R75). -/
def clampInt (signed : Bool) (n : Nat) (x : Int) : Int :=
  if signed then max (-(2 ^ (n - 1) : Int)) (min (2 ^ (n - 1) - 1 : Int) x)
  else max 0 (min (2 ^ n - 1 : Int) x)

/-- An integer result reduced modulo 2^n, or clamped when MODE.SAT is 1 (R75). -/
def narrowInt (signed : Bool) (n : Nat) (satM : Bool) (x : Int) : Nat :=
  wrap n (if satM then clampInt signed n x else x)

/-- Conversion of a floating value to an integer type (R87): always clamped; NaN gives 0. -/
def floatToInt (signed : Bool) (n : Nat) (rm : RM) (r : Nat) : XR → Nat
  | .nan => 0
  | .inf neg => wrap n (clampInt signed n (if neg then -(2 ^ 65 : Int) else 2 ^ 65))
  | x => wrap n (clampInt signed n (roundInt rm r x))

/-- One step of the LFSR of R84. -/
def lfsrStep (s : Nat) : Nat := if s % 2 == 1 then (s / 2) ^^^ 0x80200003 else s / 2

def lfsrSteps : Nat → Nat → Nat
  | 0, s => s
  | n + 1, s => lfsrSteps n (lfsrStep s)

/-- A draw advances the state by 32 steps (R84). -/
def lfsrNext (s : Nat) : Nat := lfsrSteps 32 s

/-- The state of a lane's LFSR when its group starts (R84). -/
def lfsrStart (tidx depth group lane : Nat) : Nat :=
  0x6A09E667 ^^^ ((tidx % 2 ^ 16) * 2 ^ 16) ^^^ ((depth % 8) * 2 ^ 10) ^^^ ((group % 16) * 2 ^ 6) ^^^ (lane % 64)

end Sys2Proof.Machine
end

