-- ==== Sys2Proof/Machine/State.lean ====
section
/-! DEFINITION. The state of the machine: groups, crews, tiles, memories, engines, fabric, queues, host side; its faults and refusals; State.reset. -/

namespace Sys2Proof.Machine

/-- Registers held sparsely: index or stack position, and value, indices rising. -/
abbrev RegMap := List (Nat × Word)

/-- Memory as bytes by global key (see `Mem` in Ops), keys rising, no listed byte equal to what an unlisted one reads as. -/
abbrev Memory := List Host.Cell

/-- A fixed-latency result younger than its latency: an early read may still see the old value (R71). -/
structure Early where
  reg : Nat
  old : Word
  left : Nat
  deriving DecidableEq, Repr

/-- One value in a port's input queue (R178, R189): landed or in flight; a PUSHR value waits for the listed stores; `bad` when
its word is poisoned (R411). -/
structure PortVal where
  val : Word
  landed : Bool
  release : Bool
  need : List Nat
  bad : Bool
  deriving DecidableEq, Repr

/-- Registers of a lane that an accepted command reads, or with `write` writes (R125, R127, R166): the group's next scoreboard entry
when the command was accepted, the stack positions, values that the command may still see there (R165), and the positions that
the group has written since. -/
structure RegSpan where
  cmd : Nat
  write : Bool
  sb : Nat
  pos : List Nat
  olds : List (Nat × Word)
  touched : List Nat
  deriving DecidableEq, Repr

/-- One lane of a group (R50, R54, R61, R84, R48, R178); `poison` holds the poisoned stack positions, 2^20 + x for predicate x. -/
structure Lane where
  v : RegMap
  fill : Option Nat
  wb : Nat
  mark : Nat
  p : BitVec 8
  origin : Word
  lfsr : Word
  earlyV : List Early
  earlyP : List Early
  poison : List Nat
  inP : List PortVal
  inM : List PortVal
  spans : List RegSpan
  deriving DecidableEq, Repr

/-- Why a split does not go on (R38, R49, R401). `held` is at issue: the instruction is tried again. -/
inductive Wait where
  | none
  | held
  | barrier (obj : Nat) (dst : Nat) (queued : Bool)
  | regroup (partner bm pd : Nat)
  | sleep (till : Nat)
  | vtake (vat dst : Nat)
  | join
  | joinall (taken flags : Nat)
  | plink (port tag dst : Nat)
  | port (port : Nat) (parked : Bool)
  | celget
  | fence
  | collw
  | crewop
  | idle
  | spill
  | fill
  deriving DecidableEq, Repr

/-- One split (R39): PC, lane mask, wait, ready age (R38) and when it began to wait (R187, R404). -/
structure Split where
  idx : Nat
  pc : Nat
  mask : Nat
  wait : Wait
  age : Nat
  since : Nat
  deriving DecidableEq, Repr

/-- One park record (R43). -/
structure Park where
  pc : Nat
  mask : Nat
  deriving DecidableEq, Repr

/-- A register that a scoreboarded result will write (R72). -/
inductive Target where
  | v (lane pos : Nat)
  | s (n : Nat)
  | p (lane n : Nat)
  deriving DecidableEq, Repr

/-- One scoreboarded result (R72): its registers, with the values once known; `acq` while it is an acquire that has not taken effect
(R147, R335). -/
structure SbEntry where
  id : Nat
  writes : List (Target × Option Word)
  acq : Bool
  deriving DecidableEq, Repr

/-- One lane's store in a store-queue entry (R292): virtual address, bytes, the bits written of each byte when not all (R295),
and the place itself when a layout record gives it (R123). -/
structure LaneStore where
  lane : Nat
  va : Nat
  data : List Byte
  mask : List Byte
  key : Option Nat
  deriving DecidableEq, Repr

/-- One store-queue entry (R145, R293): a store, or a RED with its operation; `acq` when it is an acquire too, as an SC store
and an ACQREL or SC RED are (R147, R149). -/
structure StoreEntry where
  id : Nat
  red : Option Nat
  et : Nat
  ord : Nat
  sc : Nat
  pc : Nat
  lanes : List LaneStore
  acq : Bool
  deriving DecidableEq, Repr

/-- The arrival record of a group (R310): object, parity, and whether its arrival is still queued there. -/
structure ArrRec where
  obj : Nat
  parity : Bool
  queued : Bool
  deriving DecidableEq, Repr

/-- How a halted group stopped (R401, R415): recorded PC, skid, 0 PHINT / 1 BOUNDARY / 2 WAITING, PHINT mask and ranges. -/
structure Stop where
  pc : Nat
  skid : Nat
  kind : Nat
  live : Nat
  range0 : Nat
  range1 : Nat
  deriving DecidableEq, Repr

/-- A link binding (R180): my port 2 to 5, the partner group, whether PLINK made it and with which tag. -/
structure Link where
  port : Nat
  partner : Nat
  byPlink : Bool
  tag : Nat
  deriving DecidableEq, Repr

/-- The input queue of one lane at one link port (R178). -/
structure LinkQueue where
  port : Nat
  lane : Nat
  vals : List PortVal
  deriving DecidableEq, Repr

/-- A command of R164 not yet retired for its group (R166), or an arrived one of another group whose arrival this group has
not acquired (`other`): whether it has arrived, the barrier phases to which its arrival has contributed (object; false while
the phase is open, true once it is the last completed one), its operand and output spans. -/
structure Unretired where
  id : Nat
  other : Bool
  arrived : Bool
  phases : List (Nat × Bool)
  src : List (Nat × Nat)
  dst : List (Nat × Nat)
  deriving DecidableEq, Repr

/-- One group (R34, R50, R54, R72, R145); `bad` holds its poisoned registers, n for s[n] and 64 + n for f[n] (R411). Of accesses
under way: `unacked` its stores not acknowledged, `readPend` the stores of others it has read or learnt of that are not, `handed`
those its releases short of POD have passed on, `acqOut` its acquiring stores (R147 to R150). -/
structure Group where
  id : Nat
  pkg : Nat
  core : Nat
  crew : Nat
  num : Nat
  width : Nat
  alloc : Nat
  priv : Bool
  handler : Bool
  ctx : Nat
  tile : Option Nat
  age : Nat
  lanes : List Lane
  s : RegMap
  f : RegMap
  mode : Word
  bad : List Nat
  earlyS : List Early
  earlyF : List Early
  splits : List Split
  parks : List Park
  cur : Nat
  sb : List SbEntry
  sq : List StoreEntry
  unacked : List Nat
  readPend : List Nat
  handed : List Nat
  acqOut : List Nat
  unretired : List Unretired
  arr : Option ArrRec
  colls : List (Nat × Nat × Option Nat)
  sample : Option Nat
  timeh : Option Nat
  ctxerr : Bool
  haltLeft : Option Nat
  stop : Option Stop
  links : List Link
  linkq : List LinkQueue
  tick : Nat
  nextSb : Nat
  deriving DecidableEq, Repr

/-- The guard record of a crew (R114); `by_` is the group whose barrier wait has reported it, 0 for none (R115). -/
structure GuardRec where
  by_ : Nat
  group : Nat
  pc : Nat
  level : Nat
  offset : Nat
  bank : Nat
  count : Nat
  deriving DecidableEq, Repr

/-- An event for the handler group (R363, R366, R400). -/
structure Event where
  code : Nat
  crew : Nat
  group : Nat
  arg : Nat
  skid : Nat
  pc : Nat
  info : Nat
  deriving DecidableEq, Repr

/-- State of a crew number (R366). -/
inductive CrewSt where
  | run | halting | halted | busy
  deriving DecidableEq, Repr

/-- A pending TSIG (R332): its time, the level-tagged reference of its barrier object, and whether the time passed while its
crew was saved. -/
structure Tsig where
  time : Nat
  ref : Nat
  late : Bool
  deriving DecidableEq, Repr

/-- A crew resident on a core (R23, R35, R366, R410), with the event it waits for, the time of its pre-emption request, and
whether RSTR has put it back and RESUME has not been issued yet (R370). A number with no record is FREE. -/
structure Crew where
  id : Nat
  pkg : Nat
  core : Nat
  num : Nat
  ctx : Nat
  st : CrewSt
  tile : Option Nat
  slot : Nat
  blocks : List (Nat × Nat)
  regs : Nat
  width : Nat
  lgen : Nat
  guard : Option GuardRec
  tsigs : List Tsig
  event : Option Event
  preqAt : Option Nat
  restored : Bool
  deriving DecidableEq, Repr

/-- A cellar extent of a core (R168, R169). -/
structure Extent where
  pkg : Nat
  core : Nat
  head : Nat
  n : Nat
  ctx : Nat
  key : Nat
  lay : Nat
  rows : Nat
  cols : Nat
  pin : Bool
  gen : Nat
  shnd : Nat
  soff : Nat
  valid : Nat
  crew : Nat
  users : List Nat
  deriving DecidableEq, Repr

/-- Core-scope registers and privileged state of one core (R362 to R366). A core not listed is as at reset. -/
structure Core where
  pkg : Nat
  num : Nat
  hvec : Nat
  ecause : Word
  epc : Nat
  einfo : Word
  preq : Nat
  grace : Nat
  spilla : List (Nat × Nat)
  evq : List Event
  cur : Option Event
  slotFault : Bool
  released : Bool
  lgen : Nat
  work : Bool
  deriving DecidableEq, Repr

/-- Die state of R429. -/
inductive DieSt where
  | rom | verify | training | ready | failed
  deriving DecidableEq, Repr

/-- A die: its state, links, DSPLIT, and the version and digest of its accepted firmware with the image loaded (R429, R433). -/
structure Die where
  st : DieSt
  links : Bool
  dmem : Nat
  busy : Bool
  fw : Option (Nat × Nat)
  fwBytes : List Byte
  deriving DecidableEq, Repr

/-- Stack state of R429. -/
inductive StackSt where
  | untrained | training | ready | failed
  deriving DecidableEq, Repr

/-- One package (R18, R364, R426 to R431). -/
structure Package where
  num : Nat
  member : Bool
  reachable : Bool
  pstate : Nat
  trip : Bool
  tripAt : Nat
  service : Nat
  dies : List Die
  hbm : List StackSt
  inService : List Nat
  thermal : Bool
  stag : Nat
  slice : Nat
  pctx : Nat
  sync : Bool
  skewHeld : Bool
  failedPlanes : List Nat
  deriving DecidableEq, Repr

/-- One level-table entry (R20). -/
structure Level where
  dom : Nat
  width : Nat
  crew : Nat
  regs : Nat
  fanout : Nat
  barobj : Nat
  shape0 : Nat
  shape1 : Nat
  shape2 : Nat
  place : Nat
  memb : Nat
  ckey : Nat
  py : Nat
  px : Nat
  ph : Nat
  pw : Nat
  stag : Nat
  deriving DecidableEq, Repr

/-- A validated launch record (R19, R21). -/
structure LaunchRec where
  addr : Nat
  idem : Bool
  timed : Bool
  retry : Nat
  entry : Nat
  t0 : Nat
  args : Nat
  portmap : Nat
  levels : List Level
  deriving DecidableEq, Repr

/-- A tree: the validated copy of its record, the packet that started it, and its gang, 0 for none (R19, R407, R387). -/
structure Tree where
  id : Nat
  pkg : Nat
  ctx : Nat
  rcd : LaunchRec
  queue : Nat
  index : Nat
  tag : Nat
  report : Nat
  gang : Nat
  part : Nat
  late : Bool
  tries : Nat
  dies : List Nat
  members : List Nat
  reln : Nat
  deriving DecidableEq, Repr

/-- State of one child of a batch (R26 to R33). -/
inductive ChildSt where
  | waiting | running (tile : Nat) | relaunch | done (st : Nat)
  deriving DecidableEq, Repr

/-- A layout box of a dependence set after its step (R30): handle, origin, extent, bound version. -/
structure DepSet where
  handle : Nat
  org : List Nat
  ext : List Nat
  ver : Nat
  deriving DecidableEq, Repr

/-- A pinned-region entry (R397): VBASE, NCHUNK, rights (R 1, W 2), CLIST. -/
structure Region where
  vbase : Nat
  nchunk : Nat
  rights : Nat
  clist : Nat
  deriving DecidableEq, Repr

/-- A live layout handle (R119, R120, R32), with the region entry its record named when it was made (R398). -/
structure Handle where
  pkg : Nat
  ctx : Nat
  h : Nat
  bytes : List Byte
  rgn : Option Region
  committed : Nat
  last : Option Nat
  dropped : Bool
  deriving DecidableEq, Repr

/-- A copy as accepted: 0 MCOPY, 1 UCOPY, 2 GCOPY, 3 REDUCE, its descriptor, the handle of each side (none at a GRP end or
for a handle violation, which `bad` marks) (R126, R128, R129). -/
structure CopyRec where
  fn : Nat
  desc : List Byte
  src : Option Handle
  dst : Option Handle
  bad : Bool
  deriving DecidableEq, Repr

/-- A child: state, relaunches used, dependence sets once entered, down-copies held for it or delivered to it (R129). -/
structure Child where
  idx : Nat
  st : ChildSt
  reln : Nat
  started : Bool
  entered : Bool
  freed : Bool
  reads : List DepSet
  write : Option DepSet
  hold : List Nat
  copies : List CopyRec
  overflow : Bool
  deriving DecidableEq, Repr

/-- A batch (R25 to R29). -/
structure Batch where
  id : Nat
  n : Nat
  t0 : Nat
  head : Nat
  last : Option Nat
  dep : Option (List Byte)
  kids : List Child
  bind : List (Nat × Nat × Nat)
  gmask : Nat
  deriving DecidableEq, Repr

/-- A span taken from a tile's pool (R113): window offset and length with its guard granules; a LALLOC block or the allocation
of an inner tile; the scoreboarded reply, by group and entry, after which its guard granules take effect (R300). -/
structure Span where
  off : Nat
  len : Nat
  block : Bool
  since : Option (Nat × Nat)
  deriving DecidableEq, Repr

/-- A running tile (R22 to R24, R111, R113, R437). `home` is the global key of window offset 0 of level memory, `va` the
address of the allocation of a PKG or POD tile; `live` once its groups have started; `vers` the versions bound to it: handle,
version, whether by its write set (R32). -/
structure Tile where
  id : Nat
  tree : Nat
  pkg : Nat
  core : Nat
  depth : Nat
  idx : Nat
  parent : Option Nat
  crew : Nat
  dom : Nat
  memb : Nat
  home : Nat
  va : Nat
  spans : List Span
  batch : Option Batch
  live : Bool
  reln : Nat
  vers : List (Nat × Nat × Bool)
  deriving DecidableEq, Repr

/-- An arrival's fold (R305). -/
structure Fold where
  f : Nat
  c : Nat
  x : Nat
  deriving DecidableEq, Repr

/-- Who made an arrival queued at a HELD object (R309). -/
inductive Arriver where
  | engine (cmd : Nat)
  | group (gid : Nat)
  | wait (gid split dst : Nat)
  | test (gid sb : Nat)
  | child (obj : Nat)
  deriving DecidableEq, Repr

/-- What the device holds beside a barrier object (R309): held arrivals and return paths. -/
structure BarDev where
  obj : Nat
  queue : List (Fold × Arriver)
  kids : List Nat
  deriving DecidableEq, Repr

/-- What an accepted command does. Bytes are its structure as read at acceptance. A down-copy counts the children whose part is
done, and gathers their flags (R129). -/
inductive CmdKind where
  | copy (r : CopyRec) (next : Nat) (f : Fold)
  | mma (complex : Bool) (block : List Byte) (kb : Nat) (sat : Bool) (fail : Nat) (ah bh oh : Option Handle)
      (idx : List (Nat × Word))
  | delta (query : Bool) (block : List Byte) (fail : Nat) (ckpt : Option Region)
  | celmove (fn : Nat) (block : List Byte) (fail : Nat)
  | celfree (head : Nat) (evict : Bool)
  | mst (block : List Byte) (keys : List Nat) (todo : List Nat) (out flags : Nat)
  | mldr (block : List Byte) (keys : List Nat) (seq : Nat) (out : Option Nat) (flags : Nat) (data : List (Byte × Bool))
  | coll (block : List Byte) (alg seq : Nat) (src dst : Region) (out : Option Nat) (flags : Nat)
  | hmsg (msg : List Byte)
  deriving DecidableEq, Repr

/-- An accepted engine command, with the number of its group and its PC (R114, R125, R164). -/
structure Cmd where
  id : Nat
  engine : Nat
  pkg : Nat
  core : Nat
  gid : Nat
  num : Nat
  pc : Nat
  crew : Nat
  tile : Option Nat
  ctx : Nat
  bar : Option Nat
  reply : Option Nat
  time : Nat
  sent : Bool
  batch : Nat
  src : List (Nat × Nat)
  dst : List (Nat × Nat)
  hnds : List Nat
  kind : CmdKind
  deriving DecidableEq, Repr

/-- A stream program in progress (R138, R139): its engine, the group number and PC that its guard hits name (R114), the tile that started it, the tile of the vat's window, the program
with its reference, the vat's header, the barrier with its reference, the handle bound at the start, the next slot, the flags
gathered; stopped by SSTOP, or its crew killed. -/
structure Stream where
  id : Nat
  engine : Nat
  pkg : Nat
  ctx : Nat
  crew : Nat
  num : Nat
  pc : Nat
  tile : Nat
  wtile : Nat
  drain : Bool
  prog : List Byte
  progRef : Nat
  vat : Nat
  bar : Nat
  barRef : Nat
  hnd : Option Handle
  n : Nat
  fold : Fold
  stopping : Bool
  killed : Bool
  deriving DecidableEq, Repr

/-- A live vat by its header, and its waiter list, oldest first (R137): group, split, destination. -/
structure VatDev where
  vat : Nat
  waiters : List (Nat × Nat × Nat)
  deriving DecidableEq, Repr

/-- What a fabric access asks of its target (R109, R141). -/
inductive AccKind where
  | load (z : Nat)
  | store
  | red (fn et : Nat)
  | atom (fn et : Nat)
  | cas (et : Nat) (cmp : List Byte)
  deriving DecidableEq, Repr

/-- An access under way, in the fabric or inside its package: there `key` is its place (R146, R109). `seq` is its place in the
program order of its group, `ord` and `sc` its order and scope, `alloc` whether caches may take its line (R60), `acq` an
acquiring store, `after` the accesses that go before it (R144), `res0` its reserved bits (R3). The `data` of a load are bytes it has taken (R143). -/
structure Packet where
  id : Nat
  src : Nat
  dst : Nat
  core : Nat
  gid : Nat
  crew : Nat
  ctx : Nat
  lane : Nat
  sb : Option Nat
  pc : Nat
  va : Nat
  kind : AccKind
  data : List Byte
  et : Nat
  sent : Nat
  seq : Nat
  ord : Nat
  sc : Nat
  alloc : Bool
  acq : Bool
  key : Option Nat
  after : List Nat
  res0 : Nat
  deriving DecidableEq, Repr

/-- A response on its way to the requester (R205), with its reserved bits (R3) and when it left (R195). -/
structure Response where
  pkt : Packet
  code : Nat
  data : List Byte
  res0 : Nat
  sent : Nat
  deriving DecidableEq, Repr

/-- A fault found after issue, not yet reported (R405, R407). -/
structure Imprecise where
  kind : Nat
  code : Nat
  pkg : Nat
  core : Nat
  crewId : Nat
  crew : Nat
  gid : Nat
  group : Nat
  ctx : Nat
  lgen : Nat
  pc : Nat
  addr : Nat
  target : Nat
  queue : Nat
  tag : Nat
  deriving DecidableEq, Repr

/-- An address group in a process's registry (R194, R195): members by rank, timeout in µs, how many MLDRs and COLLs each
package has had accepted on it, when it was freed, the planes whose reduction path has failed (R203), who has attached. -/
structure AddrGroup where
  id : Nat
  gen : Nat
  ctx : Nat
  members : List Nat
  tmo : Nat
  seqs : List (Nat × Nat)
  colls : List (Nat × Nat)
  freedAt : Option Nat
  failed : List Nat
  joined : List Nat
  deriving DecidableEq, Repr

/-- An open reduction tuple (R197 to R204): its plane, when it took a slot, contributions as rank, command and data, the type,
operation and count of the first, whether it is denied, and the elements of which some contribution was poisoned (R411). -/
structure Tuple where
  ctx : Nat
  grp : Nat
  gen : Nat
  offset : Nat
  seq : Nat
  plane : Nat
  start : Nat
  parts : List (Nat × Nat × List Byte)
  params : List Nat
  denied : Bool
  bad : List Nat
  deriving DecidableEq, Repr

/-- A cached 64-byte line (R112, R152): unit, global key of its first byte, bytes. -/
structure Line where
  unit : Nat
  key : Nat
  data : List Byte
  deriving DecidableEq, Repr

/-- A TLB entry of a package (R395). -/
structure Tlb where
  pkg : Nat
  ctx : Nat
  base : Nat
  len : Nat
  pa : Nat
  rights : Nat
  deriving DecidableEq, Repr

/-- A started queue packet that has not completed (R383): its bytes; for SIGNAL, whether its write is done; for a WAIT of a
barrier, the object. -/
structure QPacket where
  pkg : Nat
  queue : Nat
  index : Nat
  bytes : List Byte
  written : Bool
  obj : Option Nat
  deriving DecidableEq, Repr

/-- A queue that has been kicked, with its head packet and since when that head could start (R386). -/
structure QHead where
  pkg : Nat
  queue : Nat
  index : Nat
  since : Option Nat
  deriving DecidableEq, Repr

/-- What a holding reserves (R389): a crew's place on a core, and MEMB bytes at a level-memory key or an address. -/
structure Held where
  pkg : Nat
  core : Nat
  slot : Nat
  blocks : List (Nat × Nat)
  width : Nat
  ctx : Nat
  dom : Nat
  home : Nat
  va : Nat
  memb : Nat
  deriving DecidableEq, Repr

/-- Messages of R389: to a part RESERVE, COMMIT, RELEASE; to the coordinator HELD, NO. -/
inductive GangMsg where
  | reserve | commit | release | held | no
  deriving DecidableEq, Repr

/-- State of one part of a gang (R389): 0 FREE, 1 HELD, 2 COMMITTED, 3 STARTED, 4 completed; its timer, start time and core;
messages under way to it and from it with the attempt they belong to, oldest first; its answer HELD taken; its holding; its
report. -/
structure GangPart where
  part : Nat
  pkg : Nat
  dies : List Nat
  st : Nat
  timer : Nat
  start : Nat
  core : Nat
  inbox : List (GangMsg × Nat)
  outbox : List (GangMsg × Nat)
  ok : Bool
  hold : Option Held
  late : Bool
  word : Nat
  deriving DecidableEq, Repr

/-- A gang and its coordinator (R388, R389): 1 RESERVING, 2 BACKOFF, 3 RUNNING; `batch` the first batch of a POD gang's root. -/
structure Gang where
  id : Nat
  pkg : Nat
  queue : Nat
  index : Nat
  tag : Nat
  report : Nat
  kind : Nat
  ctx : Nat
  batch : Nat
  rcd : LaunchRec
  claim : Nat
  st : Nat
  attempt : Nat
  timer : Nat
  start : Nat
  members : List Nat
  parts : List GangPart
  deriving DecidableEq, Repr

/-- One message the device has sent on the management queue pair (R425). -/
structure HostMsg where
  pkg : Nat
  kind : Nat
  bytes : List Byte
  deriving DecidableEq, Repr

/-- What the device keeps of a saved group beside its save area: number, group, tile, link bindings, its splits that wait at a barrier
or a vat, its arrival record, which counts for the area's when it was queued at the save, the commands not retired with the registers
they hold, and the collectives whose outcomes it may still ask for (R166, R191, R309, R312, R355, log entry 23). -/
structure SavedGroup where
  num : Nat
  gid : Nat
  tile : Option Nat
  links : List Link
  parked : List Split
  arr : Option ArrRec
  tracked : Bool
  unretired : List Unretired
  spans : List (List RegSpan)
  colls : List (Nat × Nat × Option Nat)
  deriving DecidableEq, Repr

/-- A crew that SAVE has taken off its core (R370, R410): its tile, the core it left and its number there, its instance, its groups, and of its
streams the program's reference with the group and PC that their guard hits name (R114). -/
structure Saved where
  crew : Nat
  pkg : Nat
  core : Nat
  num : Nat
  ctx : Nat
  lgen : Nat
  tile : Nat
  groups : List SavedGroup
  streams : List (Nat × Nat × Nat)
  deriving DecidableEq, Repr

/-- What the pending reply of an instruction of the privileged slot waits for (R370, R373): a crew to halt, a crew to be saved at an
address, accesses under way to take effect. -/
inductive SysKind where
  | halt (crew : Nat)
  | save (crew va : Nat)
  | accesses (ids : List Nat)
  deriving DecidableEq, Repr

/-- An instruction of the privileged slot that has issued and not settled: its group and scoreboard entry (R370, R373). -/
structure SysOp where
  gid : Nat
  sb : Nat
  kind : SysKind
  deriving DecidableEq, Repr

/-- Which agent moves next: a split of a group issues, or an event of the opcode table happens. -/
inductive Act where
  | issue (gid split : Nat)
  | event (i : Instr)
  | pass
  deriving DecidableEq, Repr

/-- One turn of the agenda: pod time advances by `dt` ns, then the act. -/
structure Turn where
  dt : Nat
  act : Act
  deriving DecidableEq, Repr

/-- The whole machine. `liveBars` are the barrier objects that BINIT has initialised, `wildBars` those that an ordinary store has
since hit (R306); `stale` counts what switches and packages have dropped as stale (R195). `mixed` holds, for a command and a byte of its operands, a value that the byte had before an earlier store of
the command's own group reached it (R165). -/
structure State where
  g : Group
  groups : List Group
  mem : Memory
  free : Nat
  time : Nat
  next : Nat
  agenda : List Turn
  extended : Bool
  pkgs : List Package
  cores : List Core
  crews : List Crew
  tiles : List Tile
  trees : List Tree
  exts : List Extent
  bars : List BarDev
  liveBars : List Nat
  wildBars : List Nat
  handles : List Handle
  cmds : List Cmd
  streams : List Stream
  vats : List VatDev
  taint : List (Nat × Nat)
  mixed : List (Nat × Nat × Byte)
  undef : List (Nat × Nat × Nat)
  lines : List Line
  pend : List (Nat × Nat × Byte × Nat)
  tlb : List Tlb
  poison : List Nat
  corrected : List Nat
  net : List Packet
  resp : List Response
  imprecise : List Imprecise
  ags : List AddrGroup
  stale : Nat
  tuples : List Tuple
  qpkts : List QPacket
  gangs : List Gang
  saved : List Saved
  sysops : List SysOp
  heads : List QHead
  host : List HostMsg
  hostWords : List (Nat × Nat × Nat)
  deriving DecidableEq, Repr

/-- Why a step stops. -/
inductive Fault where
  /-- Raised by every instruction meaning when the group in focus has no split with the index `cur`: no instruction can
  issue there (R37). Safe: the hardware issues nothing in such a state. -/
  | noIssuer
  deriving DecidableEq, Repr

/-- Why a step has no meaning. -/
inductive Refusal where
  /-- Raised by an arm of `exec` whose instruction is not modelled yet. Safe: the machine stops. -/
  | notModelled (mnemonic : String)
  deriving DecidableEq, Repr

/-- A group with nothing in it: no lane, no split. -/
def Group.empty : Group where
  id := 0
  pkg := 0
  core := 0
  crew := 0
  num := 0
  width := 8
  alloc := 1
  priv := false
  handler := false
  ctx := 0
  tile := Option.none
  age := 0
  lanes := []
  s := []
  f := []
  mode := 0
  bad := []
  earlyS := []
  earlyF := []
  splits := []
  parks := []
  cur := 0
  sb := []
  sq := []
  unacked := []
  readPend := []
  handed := []
  acqOut := []
  unretired := []
  arr := Option.none
  colls := []
  sample := Option.none
  timeh := Option.none
  ctxerr := false
  haltLeft := Option.none
  stop := Option.none
  links := []
  linkq := []
  tick := 0
  nextSb := 0

/-- A die at power-on: in ROM, nothing verified, DSPLIT zero (R429, R365). -/
def Die.reset : Die := ⟨.rom, false, 0, false, none, []⟩

/-- A package at power-on (R429, R430, R365; the values the spec leaves open are log entry 4). -/
def Package.reset (num : Nat) : Package where
  num := num
  member := true
  reachable := true
  pstate := 0
  trip := false
  tripAt := 0
  service := 0
  dies := List.replicate 9 Die.reset
  hbm := List.replicate 12 .untrained
  inService := []
  thermal := false
  stag := 0
  slice := 0
  pctx := 0
  sync := false
  skewHeld := false
  failedPlanes := []

/-- The machine right after power-on: one package, its dies in ROM, no crew, no group, memory unwritten (R429, R430). -/
def State.reset : State where
  g := Group.empty
  groups := []
  mem := []
  free := 0
  time := 0
  next := 1
  agenda := []
  extended := false
  pkgs := [Package.reset 0]
  cores := []
  crews := []
  tiles := []
  trees := []
  exts := []
  bars := []
  liveBars := []
  wildBars := []
  handles := []
  cmds := []
  streams := []
  vats := []
  taint := []
  mixed := []
  undef := []
  lines := []
  pend := []
  tlb := []
  poison := []
  corrected := []
  net := []
  resp := []
  imprecise := []
  ags := []
  stale := 0
  tuples := []
  qpkts := []
  gangs := []
  saved := []
  sysops := []
  heads := []
  host := []
  hostWords := []

end Sys2Proof.Machine
end

