-- ==== Sys2Proof/Machine/Ops.lean ====
section
/-! DEFINITION. Named operations over registers, memory and the parts of State; splits and park records; taking a trap, halting, and the frame of every instruction. -/

namespace Sys2Proof.Machine

open Host (Outcome)

/-! ### Sparse register maps -/

/-- The value listed under k, or d. -/
def rget (d : Word) : RegMap → Nat → Word
  | [], _ => d
  | (j, w) :: t, k => if j = k then w else rget d t k

/-- The map with w under k, indices rising. -/
def rput : RegMap → Nat → Word → RegMap
  | [], k, w => [(k, w)]
  | (j, x) :: t, k, w => if k < j then (k, w) :: (j, x) :: t else if j = k then (k, w) :: t else (j, x) :: rput t k w

/-! ### Memory -/

/-- The byte at a key; an unlisted key reads as `Config.unwritten`. -/
def Memory.get (m : Memory) (k : Nat) : Byte :=
  match m with
  | [] => Config.unwritten
  | (j, b) :: t => if j = k then b else Memory.get t k

/-- Forget every listed byte whose key satisfies p. -/
def Memory.drop (m : Memory) (p : Nat → Bool) : Memory := m.filter fun c => !p c.1

/-- The memory with an entry for key k, before the first greater key. -/
def Memory.enter (m : Memory) (k : Nat) (b : Byte) : Memory :=
  match m with
  | [] => [(k, b)]
  | (j, c) :: t =>
    if k < j then (k, b) :: (j, c) :: t
    else if j = k then (k, b) :: t
    else (j, c) :: Memory.enter t k b

/-- The memory with byte b at key k, in canonical form: keys rising, no entry equal to the unwritten byte. -/
def Memory.put (m : Memory) (k : Nat) (b : Byte) : Memory :=
  if b = Config.unwritten then m.drop fun j => j == k else m.enter k b

/-- The canonical form: keys strictly rising and above `lo`, no entry equal to the unwritten byte. -/
def Memory.wfFrom : Nat → Memory → Bool
  | _, [] => true
  | lo, (k, b) :: t => decide (lo ≤ k) && decide (b ≠ Config.unwritten) && Memory.wfFrom (k + 1) t

def Memory.wf (m : Memory) : Bool := Memory.wfFrom 0 m

/-- Global keys: package memory by physical address, core, cluster and die memory and cellar bytes by unit. -/
def keyPkg (pkg pa : Nat) : Nat := pkg * 2 ^ 52 + pa
def keyCore (pkg core off : Nat) : Nat := pkg * 2 ^ 52 + 1 * 2 ^ 48 + core * 2 ^ 20 + off
def keyClu (pkg clu off : Nat) : Nat := pkg * 2 ^ 52 + 2 * 2 ^ 48 + clu * 2 ^ 24 + off
def keyDie (pkg die off : Nat) : Nat := pkg * 2 ^ 52 + 3 * 2 ^ 48 + die * 2 ^ 28 + off
def keyCel (pkg core byte : Nat) : Nat := pkg * 2 ^ 52 + 4 * 2 ^ 48 + core * 2 ^ 18 + byte

/-- The memory kind of a key: 0 package, 1 core, 2 cluster, 3 die, 4 cellar; and its package. -/
def keyKind (k : Nat) : Nat := k / 2 ^ 48 % 16
def keyPkgOf (k : Nat) : Nat := k / 2 ^ 52

/-! ### Coordinates (R16) -/

def coreY (die core : Nat) : Nat :=
  let clu := core / 8
  8 * (die / 3) + 2 * (clu / 4) + core % 8 / 4
def coreX (die core : Nat) : Nat :=
  let clu := core / 8
  16 * (die % 3) + 4 * (clu % 4) + core % 4

/-- Row and column of a core given by its package core number. -/
def rowOf (n : Nat) : Nat := coreY (n / 128) (n % 128)
def colOf (n : Nat) : Nat := coreX (n / 128) (n % 128)

/-- The package core number at row y, column x. -/
def coreAt (y x : Nat) : Nat :=
  let ly := y % 8
  let lx := x % 16
  128 * (3 * (y / 8) + x / 16) + 8 * (4 * (ly / 2) + lx / 4) + 4 * (ly % 2) + lx % 4

def dieOf (n : Nat) : Nat := n / 128
def cluOf (n : Nat) : Nat := n / 8

/-! ### Parts of the state -/

/-- A fresh free value and the state with the counter advanced. -/
def State.draw (s : State) : Nat × State := (Config.freeNat s.free, { s with free := s.free + 1 })

/-- A fresh choice below n (0 when n is 0). -/
def State.pick (s : State) (n : Nat) : Nat × State := (Config.freeNat s.free % n, { s with free := s.free + 1 })

def State.fresh (s : State) : Nat × State := (s.next, { s with next := s.next + 1 })

/-- Every group, the one in focus first. -/
def State.allGroups (s : State) : List Group := s.g :: s.groups

def State.group? (s : State) (gid : Nat) : Option Group := s.allGroups.find? fun g => g.id == gid && gid != 0

/-- The state with every group rewritten. -/
def State.mapGroups (s : State) (f : Group → Group) : State := { s with g := f s.g, groups := s.groups.map f }

def State.modGroup (s : State) (gid : Nat) (f : Group → Group) : State :=
  s.mapGroups fun g => if g.id = gid then f g else g

/-- The state with group gid in focus; unchanged when there is none. -/
def State.focus (s : State) (gid : Nat) : State :=
  if s.g.id = gid then s else
  match s.groups.find? fun g => g.id == gid with
  | some g => { s with g := g, groups := (if s.g.id = 0 then s.groups.filter fun h => h.id != gid
                                          else s.g :: s.groups.filter fun h => h.id != gid) }
  | none => s

/-- Groups gone from the machine. -/
def State.dropGroups (s : State) (p : Group → Bool) : State :=
  { s with g := if p s.g then Group.empty else s.g, groups := s.groups.filter fun g => !p g }

def State.addGroup (s : State) (g : Group) : State := { s with groups := s.groups ++ [g] }

def State.crew? (s : State) (id : Nat) : Option Crew := s.crews.find? fun c => c.id == id
def State.modCrew (s : State) (id : Nat) (f : Crew → Crew) : State :=
  { s with crews := s.crews.map fun c => if c.id = id then f c else c }
/-- The crew with a number on a core. -/
def State.crewAt (s : State) (pkg core num : Nat) : Option Crew :=
  s.crews.find? fun c => c.pkg == pkg && c.core == core && c.num == num
def State.groupsOf (s : State) (crew : Nat) : List Group :=
  s.allGroups.filter fun g => g.crew == crew && !g.priv && g.id != 0

def State.tile? (s : State) (id : Nat) : Option Tile := s.tiles.find? fun t => t.id == id
def State.modTile (s : State) (id : Nat) (f : Tile → Tile) : State :=
  { s with tiles := s.tiles.map fun t => if t.id = id then f t else t }
def State.tree? (s : State) (id : Nat) : Option Tree := s.trees.find? fun t => t.id == id
def State.modTree (s : State) (id : Nat) (f : Tree → Tree) : State :=
  { s with trees := s.trees.map fun t => if t.id = id then f t else t }

def State.pkg? (s : State) (n : Nat) : Option Package := s.pkgs.find? fun p => p.num == n
/-- The package with a number, or one at power-on that is no member. -/
def State.pkg (s : State) (n : Nat) : Package := (s.pkg? n).getD { Package.reset n with member := false }
def State.modPkg (s : State) (n : Nat) (f : Package → Package) : State :=
  { s with pkgs := s.pkgs.map fun p => if p.num = n then f p else p }

/-- A core as core reset leaves it (R365), not released. -/
def Core.reset (pkg num : Nat) : Core where
  pkg := pkg
  num := num
  hvec := 0
  ecause := 0
  epc := 0
  einfo := 0
  preq := 0
  grace := 20
  spilla := []
  evq := []
  cur := none
  slotFault := false
  released := false
  lgen := 0
  work := false

def State.core (s : State) (pkg num : Nat) : Core :=
  (s.cores.find? fun c => c.pkg == pkg && c.num == num).getD (Core.reset pkg num)
def State.modCore (s : State) (pkg num : Nat) (f : Core → Core) : State :=
  let c := f (s.core pkg num)
  if s.cores.any fun c => c.pkg == pkg && c.num == num then
    { s with cores := s.cores.map fun d => if d.pkg = pkg ∧ d.num = num then c else d }
  else { s with cores := c :: s.cores }

def Package.die (p : Package) (n : Nat) : Die := p.dies.getD n Die.reset
def State.modDie (s : State) (pkg n : Nat) (f : Die → Die) : State :=
  s.modPkg pkg fun p => { p with dies := modNth p.dies n f }

def State.cmd? (s : State) (id : Nat) : Option Cmd := s.cmds.find? fun c => c.id == id
def State.modCmd (s : State) (id : Nat) (f : Cmd → Cmd) : State :=
  { s with cmds := s.cmds.map fun c => if c.id = id then f c else c }
def State.dropCmd (s : State) (id : Nat) : State :=
  { s with cmds := s.cmds.filter fun c => c.id != id, taint := s.taint.filter fun t => t.1 != id,
           mixed := s.mixed.filter fun t => t.1 != id,
           corrected := s.corrected.filter fun c => c != id }

/-- The byte at a key: a free value where the spec leaves memory undefined (R112, R431), else what is listed. -/
def State.byte (s : State) (k : Nat) : Byte :=
  match s.undef.find? fun u => decide (u.1 ≤ k) && decide (k < u.2.1) with
  | some u => BitVec.ofNat 8 (Config.freeReg u.2.2 k).toNat
  | none => s.mem.get k

/-- Undefined ranges without one key. -/
def cutKey (k : Nat) : List (Nat × Nat × Nat) → List (Nat × Nat × Nat)
  | [] => []
  | (lo, hi, sd) :: t =>
    if lo ≤ k ∧ k < hi then
      (if lo < k then [(lo, k, sd)] else []) ++ (if k + 1 < hi then [(k + 1, hi, sd)] else []) ++ cutKey k t
    else (lo, hi, sd) :: cutKey k t

def State.setByte (s : State) (k : Nat) (b : Byte) : State :=
  { s with mem := s.mem.put k b, undef := cutKey k s.undef }

def State.setBytes (s : State) (k : Nat) (bs : List Byte) : State :=
  match bs with
  | [] => s
  | b :: t => State.setBytes (s.setByte k b) (k + 1) t

def State.bytes (s : State) (k n : Nat) : List Byte := (List.range n).map fun j => s.byte (k + j)
def State.num (s : State) (k n : Nat) : Nat := natOf (s.bytes k n)
def State.setNum (s : State) (k n x : Nat) : State := s.setBytes k (bytesOf n x)

/-- A range of memory becomes undefined (R5). -/
def State.spoil (s : State) (lo n : Nat) : State :=
  { s with mem := s.mem.drop fun k => decide (lo ≤ k) && decide (k < lo + n),
           undef := (lo, lo + n, s.free) :: s.undef, free := s.free + 1 }

/-- ECC words (R411): 64 bytes in package memory, 8 bytes elsewhere; the key of a byte's word. -/
def eccWord (k : Nat) : Nat := if keyKind k = 0 then k / 64 * 64 else k / 8 * 8
def eccSize (k : Nat) : Nat := if keyKind k = 0 then 64 else 8
def State.poisonedAt (s : State) (k n : Nat) : Bool :=
  !s.poison.isEmpty && (List.range n).any fun j => s.poison.contains (eccWord (k + j))

/-- A message of the device to the host (R425). -/
def State.tell (s : State) (pkg kind : Nat) (bs : List Byte) : State :=
  { s with host := s.host ++ [⟨pkg, kind, bs⟩] }

/-! ### Lanes, masks and splits (R39 to R43) -/

def Group.lane (g : Group) (i : Nat) : Lane :=
  g.lanes.getD i ⟨[], none, 0, 0, 1, 0, 1, [], [], [], [], [], []⟩
def Group.modLane (g : Group) (i : Nat) (f : Lane → Lane) : Group := { g with lanes := modNth g.lanes i f }

def Group.split? (g : Group) (idx : Nat) : Option Split := g.splits.find? fun p => p.idx == idx
def Group.modSplit (g : Group) (idx : Nat) (f : Split → Split) : Group :=
  { g with splits := g.splits.map fun p => if p.idx = idx then f p else p }

/-- The issuing split; one with an empty mask when the group has none. -/
def Group.issuing (g : Group) : Split := (g.split? g.cur).getD ⟨g.cur, 0, 0, .none, 0, 0⟩
def Group.pc (g : Group) : Nat := g.issuing.pc
def Group.mask (g : Group) : Nat := g.issuing.mask

/-- Lanes of the issuing split, ascending. -/
def Group.lanesIn (g : Group) : List Nat := bitsSet g.width g.mask

/-- The lowest lane of the issuing split: the lane a trap of the whole instruction names (log entry 11). -/
def Group.lowLane (g : Group) : Nat := g.lanesIn.headD 0

/-- Live lanes: the splits' masks and the park records' (R39). -/
def Group.live (g : Group) : Nat :=
  (g.splits.foldl (fun m p => m ||| p.mask) 0) ||| (g.parks.foldl (fun m p => m ||| p.mask) 0)
def Group.laneLive (g : Group) (i : Nat) : Bool := decide (i < g.width) && flag g.live i

/-- The lowest free split index (R40). -/
def Group.freeIdx (g : Group) : Option Nat := [0, 1, 2, 3].find? fun i => !g.splits.any fun p => p.idx == i

/-- Park records become splits while an index is free, oldest first (R43). At most 12 records exist. -/
def Group.promote : Nat → Group → Group
  | 0, g => g
  | k + 1, g =>
    match g.parks, g.freeIdx with
    | p :: t, some i => Group.promote k { g with splits := g.splits ++ [⟨i, p.pc, p.mask, .none, 0, 0⟩], parks := t }
    | _, _ => g

/-- Every split with an empty mask removed, then promotion (R42, R43). -/
def Group.tidy (g : Group) : Group := Group.promote 12 { g with splits := g.splits.filter fun p => p.mask != 0 }

/-- New lane sets become splits while an index is free, then park records (R40). -/
def Group.addSets (g : Group) : List (Nat × Nat) → Group
  | [] => g
  | (pc, m) :: t =>
    match g.freeIdx with
    | some i => Group.addSets { g with splits := g.splits ++ [⟨i, pc, m, .none, 0, 0⟩] } t
    | none => Group.addSets { g with parks := g.parks ++ [⟨pc, m⟩] } t

/-- A split that is at issue: ready, or held there with its instruction not issued, a port instruction's wait included (R41, R72,
R185, R298, log entry 9). -/
def Wait.atIssue : Wait → Bool
  | .none => true
  | .held => true
  | .fence => true
  | .port _ _ => true
  | _ => false

/-- Splits that hold the issuing split's PC at issue merge with it under the lowest index (R41, log entry 9). -/
def Group.merge (g : Group) : Group :=
  let me := g.issuing
  let same := fun (p : Split) => p.pc == me.pc && p.wait.atIssue
  let set := g.splits.filter same
  if !same me || set.length ≤ 1 then g else
  let idx := set.foldl (fun a p => min a p.idx) me.idx
  let m := set.foldl (fun a p => a ||| p.mask) 0
  Group.promote 12 { g with
    cur := idx
    splits := (⟨idx, me.pc, m, me.wait, me.age, me.since⟩ :: g.splits.filter fun p => !same p) }

/-! ### MODE (R55) -/

def Group.modeField (g : Group) (hi lo : Nat) : Nat := field g.mode.toNat hi lo
def Group.chk (g : Group) : Bool := flag g.mode.toNat 24
def Group.fr (g : Group) : Nat := g.modeField 23 21
def Group.ch (g : Group) : Nat := g.modeField 20 19
def Group.ord (g : Group) : Nat := g.modeField 18 17
def Group.sc (g : Group) : Nat := g.modeField 16 14
def Group.ftz (g : Group) : Bool := flag g.mode.toNat 13
def Group.satM (g : Group) : Bool := flag g.mode.toNat 12
def Group.rm (g : Group) : Nat := g.modeField 11 9
def Group.et (g : Group) : Nat := g.modeField 8 4
def Group.gn (g : Group) : Bool := flag g.mode.toNat 3
def Group.gp (g : Group) : Nat := g.modeField 2 0

/-! ### Registers (R50, R61, R71) -/

/-- The word at a stack position of a lane: an unlisted one is 0, or undefined when the lane has a seed (R23). -/
def Lane.at (l : Lane) (pos : Nat) : Word :=
  rget (match l.fill with
    | some sd => Config.freeReg sd pos
    | none => 0) l.v pos

/-- One value out of a register's value and the older ones an early read may see (R71). -/
def pickEarly (es : List Early) (reg : Nat) (now : Word) (coin : Nat) : Word :=
  match es.filter fun e => e.reg == reg with
  | [] => now
  | olds => (now :: olds.map Early.old).getD (coin % (olds.length + 1)) now

/-- An accepted command holds a position of a lane; one writes it (R125, R166). -/
def Lane.held (l : Lane) (pos : Nat) : Bool := l.spans.any fun x => x.pos.contains pos
def Lane.filling (l : Lane) (pos : Nat) : Bool := l.spans.any fun x => x.write && x.pos.contains pos

/-- v[x] of lane i as the instruction reads it (R61, R71): undefined while a copy fills it (R125). -/
def Group.v (g : Group) (i x : Nat) : Word :=
  let l := g.lane i
  let pos := l.wb + x
  if l.filling pos then BitVec.ofNat 32 (Config.freeAt g.id g.tick (100 + i) pos)
  else pickEarly l.earlyV pos (l.at pos) (Config.freeAt g.id g.tick i pos)

/-- p[x] of lane i as read; p0 reads true (R50). -/
def Group.p (g : Group) (i x : Nat) : Bool :=
  if x = 0 then true else
  let l := g.lane i
  pickEarly l.earlyP x (if flag l.p.toNat x then 1 else 0) (Config.freeAt g.id g.tick i (10000 + x)) == 1

/-- s[x] as read; s0 reads zero (R50). -/
def Group.sreg (g : Group) (x : Nat) : Word :=
  if x = 0 then 0 else pickEarly g.earlyS x (rget 0 g.s x) (Config.freeAt g.id g.tick 64 x)

/-- f[x] as read. -/
def Group.freg (g : Group) (x : Nat) : Word :=
  pickEarly g.earlyF x (rget 0 g.f x) (Config.freeAt g.id g.tick 65 x)

/-- The early values of a register after a write of latency lat (R71): the old value may be read until the new result is due, and
what older results left may be read no longer than that, for writes of one group land in issue order; a write that lands at once
leaves nothing early. -/
def putEarly (es : List Early) (reg : Nat) (old : Word) (lat : Nat) : List Early :=
  if lat = 0 then es.filter fun e => e.reg != reg
  else es.map (fun e => if e.reg = reg then { e with left := min e.left lat } else e) ++ [⟨reg, old, lat⟩]

/-- The spans of a lane after its group has written a position. -/
def Lane.touch (l : Lane) (pos : Nat) : List RegSpan :=
  l.spans.map fun x => if x.pos.contains pos && !x.touched.contains pos then { x with touched := pos :: x.touched } else x

/-- A word written at a position of a lane; one that an accepted command holds becomes undefined, `free` (R125, R166). -/
def Lane.put (l : Lane) (pos : Nat) (w free : Word) : Lane :=
  { l with v := rput l.v pos (if l.held pos then free else w),
           poison := l.poison.filter fun q => q != pos,
           spans := l.touch pos }

/-- The undefined value of a write of a group at a position of lane i. -/
def Group.freeWord (g : Group) (i pos : Nat) : Word := BitVec.ofNat 32 (Config.freeAt g.id g.tick (200 + i) pos)

/-- A write of v[x] in lane i; with a latency, an early reader may still see the old value (R71). -/
def Group.setV (g : Group) (lat i x : Nat) (w : Word) : Group :=
  g.modLane i fun l =>
    let pos := l.wb + x
    { l.put pos w (g.freeWord i pos) with earlyV := putEarly l.earlyV pos (l.at pos) lat }

/-- The predicate byte with bit x set to b; p0 stays true. -/
def setPBit (p : BitVec 8) (x : Nat) (b : Bool) : BitVec 8 :=
  if x = 0 then p else if b then p ||| BitVec.ofNat 8 (2 ^ x) else p &&& ~~~(BitVec.ofNat 8 (2 ^ x))

def Group.setP (g : Group) (lat i x : Nat) (b : Bool) : Group :=
  if x = 0 then g else
  g.modLane i fun l =>
    { l with p := setPBit l.p x b,
             poison := l.poison.filter fun q => q != 2 ^ 20 + x,
             earlyP := putEarly l.earlyP x (if flag l.p.toNat x then 1 else 0) lat }

/-- A write of s[x]; s0 is discarded (R50). -/
def Group.setS (g : Group) (lat x : Nat) (w : Word) : Group :=
  if x = 0 then g else
  { g with s := rput g.s x w,
           bad := g.bad.filter fun q => q != x,
           earlyS := putEarly g.earlyS x (rget 0 g.s x) lat }

def Group.setF (g : Group) (lat x : Nat) (w : Word) : Group :=
  { g with f := rput g.f x w,
           bad := g.bad.filter fun q => q != 64 + x,
           earlyF := putEarly g.earlyF x (rget 0 g.f x) lat }

/-- A pair of v registers of lane i as 64 bits, and its writing (R51). -/
def Group.v2 (g : Group) (i x : Nat) : Nat := pairNat (g.v i x) (g.v i (x + 1))
def Group.setV2 (g : Group) (lat i x n : Nat) : Group := (g.setV lat i x (loWord n)).setV lat i (x + 1) (hiWord n)
def Group.s2 (g : Group) (x : Nat) : Nat := pairNat (g.sreg x) (g.sreg (x + 1))
def Group.setS2 (g : Group) (lat x n : Nat) : Group := (g.setS lat x (loWord n)).setS lat (x + 1) (hiWord n)

/-- LaneActive(i) of R7, R73. -/
def Group.active (g : Group) (i : Nat) : Bool := flag g.mask i && (g.p i g.gp != g.gn)

/-- The active lanes of the issuing split, ascending. -/
def Group.actives (g : Group) : List Nat := g.lanesIn.filter g.active

/-- Fold a per-lane rewrite over lanes, reading every operand from the group before (R6). -/
def Group.eachLane (g : Group) (ls : List Nat) (f : Nat → Group → Group) : Group := ls.foldl (fun h i => f i h) g

/-- Results grow older by d cycles of issue distance (R69, R71). -/
def ageEarly (d : Nat) (es : List Early) : List Early :=
  (es.filter fun e => decide (d < e.left)).map fun e => { e with left := e.left - d }

def Group.older (g : Group) (d : Nat) : Group :=
  { g with
    earlyS := ageEarly d g.earlyS
    earlyF := ageEarly d g.earlyF
    lanes := g.lanes.map fun l => { l with earlyV := ageEarly d l.earlyV, earlyP := ageEarly d l.earlyP } }

/-! ### Groups at their start (R23, R48, R84, R362) -/

/-- A lane at its start: undefined registers under a seed, p1 to p7 false, its own origin and LFSR state. -/
def Lane.start (seed : Nat) (origin lfsr : Nat) : Lane where
  v := []
  fill := some seed
  wb := 0
  mark := 0
  p := 1
  origin := BitVec.ofNat 32 origin
  lfsr := BitVec.ofNat 32 lfsr
  earlyV := []
  earlyP := []
  poison := []
  inP := []
  inM := []
  spans := []

/-- A group at its entry: split 0 with every lane, MODE and every s and f register zero. -/
def Group.start (id pkg core crew num width alloc : Nat) (priv handler : Bool) (ctx : Nat) (tile : Option Nat)
    (tidx depth entry seed : Nat) : Group :=
  { Group.empty with
    id := id
    pkg := pkg
    core := core
    crew := crew
    num := num
    width := width
    alloc := alloc
    priv := priv
    handler := handler
    ctx := ctx
    tile := tile
    age := id
    lanes := (List.range width).map fun l => Lane.start (seed + l) (num % 16 * 2 ^ 8 + l) (lfsrStart tidx depth num l)
    splits := [⟨0, entry, 2 ^ width - 1, .none, 0, 0⟩] }

/-- What a privileged group, which is no tile and no member of a crew, reads of special register a: a free value (R362, log entry 1). -/
def Group.openSpecial (g : Group) (a : Nat) : Nat := (Config.freeReg g.id (2 ^ 20 + a)).toNat

/-- The LFSR states of a privileged group at its start, from what it reads of sr.tidx, sr.depth and sr.group (R84, R362, R363). -/
def Group.seedPriv (g : Group) : Group :=
  { g with lanes := ((List.range g.lanes.length).zip g.lanes).map fun il =>
      { il.2 with lfsr := BitVec.ofNat 32 (lfsrStart (g.openSpecial 9) (g.openSpecial 8) (g.openSpecial 2) il.1) } }

/-! ### Scoreboard (R72) -/

/-- A result of the scoreboard entry `sb` lands at a position of a lane: a command accepted after its instruction may see the old
value or the new one (R165), for any other it is a write (R125, R166). -/
def Lane.landAt (l : Lane) (sb pos : Nat) (w free : Word) : Lane :=
  { l with v := rput l.v pos (if l.spans.any fun x => x.pos.contains pos && decide (x.sb ≤ sb) then free else w),
           earlyV := putEarly l.earlyV pos 0 0,
           poison := l.poison.filter fun q => q != pos,
           spans := l.spans.map fun x =>
             if !x.pos.contains pos then x
             else if sb < x.sb then { x with olds := x.olds ++ [(pos, l.at pos)] }
             else { x with touched := pos :: x.touched } }

/-- Write a landed value of a scoreboard entry into its register. -/
def Group.land (g : Group) (sb : Nat) (t : Target) (w : Word) : Group :=
  match t with
  | .v i pos => g.modLane i fun l => l.landAt sb pos w (g.freeWord i pos)
  | .s n => g.setS 0 n w
  | .p i n => g.setP 0 i n (w == 1)

/-- A scoreboarded result with its values, taking an entry. -/
def Group.post (g : Group) (ws : List (Target × Option Word)) : Group :=
  { g with sb := g.sb ++ [⟨g.nextSb, ws, false⟩], nextSb := g.nextSb + 1 }

/-- A scoreboarded word into s[d]. -/
def Group.postS (g : Group) (d : Nat) (w : Word) : Group := g.post [(.s d, some w)]
def Group.postS2 (g : Group) (d n : Nat) : Group := g.post [(.s d, some (loWord n)), (.s (d + 1), some (hiWord n))]

/-- The registers v[x] of the lanes as scoreboard targets with their values. -/
def Group.targets (g : Group) (ls : List Nat) (x : Nat) (w : Nat → Option Word) : List (Target × Option Word) :=
  ls.map fun i => (Target.v i ((g.lane i).wb + x), w i)

/-- An accepted command takes registers of a lane: what an early read of them may still see, the command may (R71, R165). -/
def Lane.hold (l : Lane) (cmd : Nat) (write : Bool) (sb : Nat) (pos : List Nat) : Lane :=
  { l with spans := l.spans ++
      [⟨cmd, write, sb, pos, (l.earlyV.filter fun e => pos.contains e.reg).map fun e => (e.reg, e.old), []⟩] }

/-- Commands let go of the registers they hold. -/
def Group.letGo (g : Group) (p : Nat → Bool) : Group :=
  if g.lanes.all fun l => l.spans.isEmpty then g
  else { g with lanes := g.lanes.map fun l => { l with spans := l.spans.filter fun x => !p x.cmd } }

/-- Commands are no longer unretired, or not acquired, for a group, which frees the registers they hold (R166). -/
def Group.retire (g : Group) (p : Unretired → Bool) : Group :=
  let ids := (g.unretired.filter p).map Unretired.id
  { g with unretired := g.unretired.filter fun u => !p u }.letGo fun c => ids.contains c

def State.letGo (s : State) (cmd : Nat) : State := s.mapGroups fun g => g.letGo fun c => c == cmd

/-- The stack position of register VREG + n as a command knows it: in the window at its acceptance where it holds the register, else
in the window as it stands (log entry 100). -/
def Lane.regAt (l : Lane) (cmd vreg n : Nat) : Nat :=
  match l.spans.find? fun x => x.cmd == cmd with
  | some x => x.pos.getD n (l.wb + vreg + n)
  | none => l.wb + vreg + n

/-- The spill area of crew number n of a core (R61, R364), and the key of a stack position in a lane's part of it. -/
def Core.spill (c : Core) (n : Nat) : Nat := ((c.spilla.find? fun p => p.1 == n).map Prod.snd).getD 0
def spillKey (pkg base group lane pos : Nat) : Nat := keyPkg pkg (base + 16384 * (64 * group + lane) + 4 * pos)

/-- The place of a stack position of a lane that a spill has taken out of the file (R61, R63). -/
def State.spilledAt (s : State) (g : Group) (lane pos : Nat) : Option Nat :=
  if 8 * (g.lane lane).mark ≤ pos then none
  else (s.crew? g.crew).map fun c => spillKey g.pkg ((s.core c.pkg c.core).spill c.num) g.num lane pos

/-- The word at a stack position of a lane, wherever it is kept (R61). -/
def State.stackWord (s : State) (g : Group) (lane pos : Nat) : Word :=
  match s.spilledAt g lane pos with
  | some k => BitVec.ofNat 32 (s.num k 4)
  | none => (g.lane lane).at pos

/-- The word that a command reads at a position of a lane that holds `now`: none, and undefined, where the group has written it since (R125, R166);
any of the values it had while results older than the command were still on their way (R165). -/
def Lane.seenBy (l : Lane) (cmd pos coin : Nat) (now : Word) : Option Word :=
  match l.spans.find? fun x => x.cmd == cmd && x.pos.contains pos with
  | none => some now
  | some x =>
    if x.touched.contains pos then none else
    let olds := (x.olds.filter fun o => o.1 == pos).map Prod.snd
    some ((now :: olds).getD (coin % (olds.length + 1)) now)

/-- An entry's acquire has taken effect (R147), or is to when it lands (R335). -/
def Group.setAcq (g : Group) (id : Nat) (b : Bool) : Group :=
  { g with sb := g.sb.map fun e => if e.id = id then { e with acq := b } else e }
def Group.acquired (g : Group) (id : Nat) : Group := g.setAcq id false

/-- Give values to an entry's pending targets. -/
def Group.fillSb (g : Group) (id : Nat) (f : Target → Option Word) : Group :=
  { g with sb := g.sb.map fun e =>
      if e.id = id then { e with writes := e.writes.map fun tw => (tw.1, tw.2.or (f tw.1)) } else e }

/-! ### Level codes (R12, R13) -/

/-- The level table of a tree. -/
def Tree.level (t : Tree) (d : Nat) : Level := t.rcd.levels.getD d ⟨0, 0, 1, 1, 0, 0, 1, 1, 1, 0, 0, 0, 0, 0, 0, 0, 0⟩

/-- The tile and the tree of a group. -/
def State.tileOf (s : State) (g : Group) : Option Tile := g.tile.bind s.tile?
def State.treeOf (s : State) (t : Tile) : Option Tree := s.tree? t.tree

/-- HERE and PARENT resolved from a tile; a group without a tile keeps the code, 6 or 7 (R13). -/
def State.resolve (s : State) (g : Group) (lv : Nat) : Nat :=
  if lv < 6 then lv else
  match s.tileOf g with
  | none => lv
  | some t =>
    if lv = 6 then t.dom
    else if t.depth = 0 then min 5 (t.dom + 1)
    else match s.treeOf t with
      | some tr => (tr.level (t.depth - 1)).dom
      | none => lv

/-- Registers that name a barrier object of a level: a pair for PKG and POD (R306). -/
def State.objRegs (s : State) (lv : Nat) : Nat :=
  let r := s.resolve s.g lv
  if r = 4 ∨ r = 5 then 2 else 1

/-- What the device keeps of a saved group, with its crew (R191). -/
def State.savedGroup? (s : State) (gid : Nat) : Option (Saved × SavedGroup) :=
  s.saved.findSome? fun v => (v.groups.find? fun g => g.gid == gid).map fun g => (v, g)

/-- The link bindings of a group, on its core or saved (R184, R191). -/
def State.linksOf (s : State) (gid : Nat) : List Link :=
  match s.group? gid with
  | some g => g.links
  | none => ((s.savedGroup? gid).map fun v => v.2.links).getD []

/-- The crew, group number and tile of a group, on its core or saved. -/
def State.whose (s : State) (gid : Nat) : Option (Nat × Nat × Option Nat) :=
  match s.group? gid with
  | some g => some (g.crew, g.num, g.tile)
  | none => (s.savedGroup? gid).map fun v => (v.1.crew, v.2.num, v.2.tile)

/-- The groups of some crews, on their cores or saved. -/
def State.gidsOf (s : State) (crews : List Nat) : List Nat :=
  ((s.allGroups.filter fun g => crews.contains g.crew && !g.priv && g.id != 0).map Group.id) ++
  (s.saved.filter fun v => crews.contains v.crew).flatMap fun v => v.groups.map SavedGroup.gid

/-- The groups that a port map puts into one binding set with a group: those that its GMASK names in the children of its batch
(R27, R182). -/
def State.portPeers (s : State) (gid : Nat) : List Nat :=
  match s.whose gid with
  | some (_, num, some tile) =>
    match (s.tile? tile).bind Tile.parent with
    | none => []
    | some p =>
      let mask := (((s.tile? p).bind Tile.batch).map Batch.gmask).getD 0
      if !flag mask num then [] else
      (s.gidsOf ((s.tiles.filter fun x => x.parent == some p).map Tile.crew)).filter fun i =>
        ((s.whose i).map fun w => flag mask w.2.1).getD false
  | _ => []

/-- The groups of a binding set: those reached over link bindings and within port-binding sets (R27, R184). -/
def State.bindSetFrom (s : State) : Nat → List Nat → List Nat
  | 0, acc => acc
  | n + 1, acc => s.bindSetFrom n (acc ++ acc.flatMap fun gid => (s.linksOf gid).map Link.partner ++ s.portPeers gid).eraseDups

def State.bindSet (s : State) (gid : Nat) : List Nat :=
  if (s.linksOf gid).isEmpty && (s.portPeers gid).isEmpty then [gid]
  else s.bindSetFrom (s.allGroups.length + (s.saved.map fun v => v.groups.length).sum) [gid]

/-- The crews with a group in the binding sets of some crews (R184). -/
def State.boundCrews (s : State) (crews : List Nat) : List Nat :=
  (((s.gidsOf crews).flatMap s.bindSet).filterMap fun i => (s.whose i).map Prod.fst).eraseDups

/-- A member of a restored binding set is off its core, or has not been resumed: no member runs (R370). -/
def State.setHeld (s : State) (crew : Nat) : Bool :=
  (s.boundCrews [crew]).any fun c => c != crew && ((s.crew? c).map Crew.restored).getD true

/-! ### Halting and traps (R362, R371, R400 to R403) -/

/-- A descheduled wait, at which a halt stops the group at once (R401). -/
def Wait.desched : Wait → Bool
  | .none => false
  | .held => false
  | .fence => false
  | .spill => false
  | .fill => false
  | _ => true

/-- Waits in which the whole group issues nothing (R63, R171, R293, R298, R314, R342, R355); one at a barrier, port or sleep holds
its split alone (R49, R244). -/
def Wait.ofGroup : Wait → Bool
  | .none => false
  | .held => false
  | .barrier _ _ _ => false
  | .sleep _ => false
  | .port _ _ => false
  | .idle => false
  | _ => true

/-- A wait at which the instruction has been issued and is tried again until it completes: its issue counts once (R69, R401). -/
def Wait.retried : Wait → Bool
  | .plink _ _ _ => true
  | .join => true
  | .joinall _ _ => true
  | .celget => true
  | .collw => true
  | .idle => true
  | _ => false

/-- The split whose wait deschedules the whole group (R314, R401). -/
def Group.groupWaiter (g : Group) : Option Split := g.splits.find? fun p => p.wait.desched && p.wait.ofGroup

/-- The group is descheduled: every split is, or one waits in a command that deschedules the group (R314, R401). -/
def Group.waiting (g : Group) : Bool :=
  !g.splits.isEmpty && ((g.splits.all fun p => p.wait.desched) || g.groupWaiter.isSome)

/-- The PC that a group records when it stops: that of the command that deschedules it, else of its lowest split (R371, R401). -/
def Group.nextPc (g : Group) : Nat :=
  match g.groupWaiter, g.splits with
  | some p, _ => p.pc
  | none, [] => 0
  | none, p :: t => (t.foldl (fun (a : Split) b => if b.idx < a.idx then b else a) p).pc

/-- The group stops here with the skid it has used (R401). -/
def Group.halt (g : Group) (kind : Nat) : Group :=
  if g.stop.isSome then g else
  { g with
    stop := some ⟨g.nextPc, (match g.haltLeft with | some k => 8 - k | none => 0), kind, 2 ^ 64 - 1, 0, 0⟩
    haltLeft := none
    splits := g.splits.map fun p => match p.wait with
      | .regroup _ _ _ => { p with wait := .none }
      | _ => p }

/-- The halt reaches a group: a descheduled one stops at once, another within 8 instructions (R401). -/
def Group.haltBegin (g : Group) : Group :=
  if g.stop.isSome then g
  else if g.waiting then g.halt 2
  else if g.haltLeft.isSome then g else { g with haltLeft := some 8 }

/-- Broadcast the halt to a crew with an event to deliver; a crew already halting keeps its first event (R401, R402). -/
def State.haltCrew (s : State) (crew : Nat) (ev : Option Event) : State :=
  let s := s.modCrew crew fun c =>
    match c.st with
    | .run => { c with st := .halting, event := ev }
    | .halting => if c.event.isNone then { c with event := ev } else c
    | _ => c
  s.mapGroups fun g => if g.crew = crew ∧ g.priv = false then g.haltBegin else g

/-- Work for the agent groups of a package, or, with none named, of every package (R368). -/
def State.signalWork (s : State) (pkg : Option Nat) : State :=
  { s with cores := s.cores.map fun c => if pkg.isNone ∨ pkg = some c.pkg then { c with work := true } else c }

/-- A slot fault of a core (R362): both privileged groups stop, and the host is told the trap code and PC. -/
def State.slotFault (s : State) (pkg core code pc : Nat) : State :=
  let s := s.modCore pkg core fun c => { c with slotFault := true }
  s.tell pkg 2 (bytesOf 4 2 ++ bytesOf 4 code ++ bytesOf 8 pc ++ bytesOf 4 core ++ List.replicate 44 0)

/-- A precise trap of the crew would be delivered: no event of it is outstanding (R402). -/
def Crew.delivers (c : Crew) : Bool := c.st == .run || (c.st == .halting && c.event.isNone)

/-- Take the precise trap `code` at the issuing split (R226, R371, R401): the instruction has no effect, the group stops and
records its PC (PC + 4 for TRAP and BRK), and its crew halts. A second trap of a halting crew is not delivered; the group
records the instruction itself (R402). A privileged group takes a slot fault. -/
def State.takeTrap (s : State) (code arg lane : Nat) : State :=
  let g := s.g
  if g.priv then s.slotFault g.pkg g.core code g.pc else
  match s.crew? g.crew with
  | none => s
  | some c =>
    let pc := if c.delivers ∧ (code = 0x0C ∨ code = 0x0D) then (g.pc + 4) % 2 ^ 64 else g.pc
    let ev : Event := ⟨code, c.num, g.num, arg, 0, pc, lane⟩
    let g' := { (g.modSplit g.cur fun p => { p with pc := pc, wait := .none }) with
                stop := some ⟨pc, (match g.haltLeft with | some k => 8 - k | none => 0), 1, 2 ^ 64 - 1, 0, 0⟩,
                haltLeft := none }
    ({ s with g := g' }).haltCrew c.id (some ev)

/-! ### The frame of an instruction -/

/-- What the body of an instruction comes to. -/
inductive Res where
  | done (s : State)
  | jump (s : State)
  | trap (code arg lane : Nat)
  | hold
  | fence
  | wait (s : State) (w : Wait)
  deriving Repr

/-- Count an issued instruction against a halt's skid (R401). -/
def Group.countSkid (g : Group) : Group :=
  match g.haltLeft with
  | some 0 => g.halt 1
  | some (k + 1) => let g := { g with haltLeft := some k }; if k = 0 then g.halt 1 else g
  | none => g

/-- The issue of an instruction of stall count S counts once: results grow older by S + 1 and the skid by one, unless it counted
when its wait began (R69, R401). -/
def Group.counted (g : Group) (w : Wait) (stall : Nat) : Group := if w.retried then g else (g.older (stall + 1)).countSkid

/-- The issuing split moves to the next instruction, its age restarts (R38, R69, R213). -/
def Group.advance (g : Group) (len stall : Nat) : Group :=
  (g.modSplit g.cur fun p => { p with pc := (p.pc + len) % 2 ^ 64, wait := .none, age := 0 }).counted g.issuing.wait stall

/-- The same for an instruction that has set its own PCs. -/
def Group.jumped (g : Group) (stall : Nat) : Group :=
  ((g.modSplit g.cur fun p => { p with wait := if p.wait = .held ∨ p.wait = .fence then .none else p.wait, age := 0 }).older (stall + 1)).countSkid

/-- The issuing split waits at its instruction. -/
def Group.waitAt (g : Group) (w : Wait) (now : Nat) : Group :=
  g.modSplit g.cur fun p => if p.wait = w then p else { p with wait := w, since := now }

/-- An instruction's group closed: its split moved on, one more instruction counted. -/
def Group.closed (g : Group) (len stall : Nat) : Group := { g.advance len stall with tick := g.tick + 1 }
def Group.closedJump (g : Group) (stall : Nat) : Group := { g.jumped stall with tick := g.tick + 1 }

/-- The group of an instruction that waits: its first wait closes its issue, except at issue; a halting or pre-empted group that
is descheduled stops (R401, R63, R412). -/
def Group.closedWait (g : Group) (stall now : Nat) (w : Wait) (pre : Bool) : Group :=
  let h := g.waitAt w now
  let h := if w.atIssue || g.issuing.wait.desched then h else (h.older (stall + 1)).countSkid
  if (h.haltLeft.isSome || (pre && !h.priv)) && h.waiting then h.halt 2 else { h with tick := h.tick + 1 }

/-- PREQ asks the crew of the group in focus to stop (R363). -/
def State.preempted (s : State) : Bool :=
  flag (s.core s.g.pkg s.g.core).preq (((s.crew? s.g.crew).map Crew.num).getD 64)

/-- The state with another group in focus' place. -/
def State.setG (s : State) (g : Group) : State := { s with g := g }

/-- The state in which the issuing split executes: splits that hold its PC merged into it (R41). -/
def State.merged (s : State) : State := s.setG s.g.merge

/-- Close an instruction: its next state by what its body came to (R226, R72, R401). -/
def finish (len stall : Nat) (s : State) (r : Res) : State :=
  match r with
  | .done t => t.setG (t.g.closed len stall)
  | .jump t => t.setG (t.g.closedJump stall)
  | .trap c a l => s.takeTrap c a l
  | .hold => s.setG (s.g.waitAt .held s.time)
  | .fence => s.setG (s.g.waitAt .fence s.time)
  | .wait t w => t.setG (t.g.closedWait stall t.time w t.preempted)

end Sys2Proof.Machine
end

