-- ==== Sys2Proof/Machine/Operands.lean ====
section
/-! DEFINITION. Which registers an instruction reads and writes (R50 to R52, R219 to R225), the checks at issue of R226, and the frame every instruction runs in. -/

namespace Sys2Proof.Machine

open Host (Outcome)

/-- The registers an instruction reads (r…) and writes (w…) in the files v, s, p and f; `lane` when it reads one named
lane only; `guarded` when LaneActive decides per lane (R73); `post` when its result takes a scoreboard entry (R70, R72). -/
structure Uses where
  rv : List Nat := []
  wv : List Nat := []
  rs : List Nat := []
  ws : List Nat := []
  rp : List Nat := []
  wp : List Nat := []
  rf : List Nat := []
  wf : List Nat := []
  lane : Option Nat := none
  guarded : Bool := false
  post : Bool := false
  deriving DecidableEq, Repr

/-- n registers from x on. -/
def regs (n : Nat) {k : Nat} (x : BitVec k) : List Nat := (List.range n).map fun j => x.toNat + j

/-- Element types of 64 bits, whose fields name pairs: B64, S64, N64, F64, C32 (R51, R57). -/
def wideEt (et : Nat) : Bool := et == 3 || et == 10 || et == 11 || et == 15 || et == 17

/-- Registers per element of a type. -/
def perEt (et : Nat) : Nat := if wideEt et then 2 else 1

/-- A reply register only with Y = 1 (R225). -/
def yreg (y : BitVec 1) (d : BitVec 6) : List Nat := if y = 1 then [d.toNat] else []

/-- The live layout handle with a number, of a context in a package (R120). -/
def State.handle? (s : State) (pkg ctx h : Nat) : Option Handle :=
  s.handles.find? fun x => x.pkg == pkg && x.ctx == ctx && x.h == h && !x.dropped && h != 0

/-- NDIM of a layout record (R116). -/
def Handle.ndim (h : Handle) : Nat := leField h.bytes 2 2 % 8
/-- Element type of a layout record. -/
def Handle.et (h : Handle) : Nat := leField h.bytes 2 2 / 2 ^ 11

/-- The coordinate registers an LDL or STL reads, and the registers per element of its layout (R295). -/
def State.coords (s : State) (a b : BitVec 6) : List Nat :=
  match s.handle? s.g.pkg s.g.ctx (s.g.sreg a.toNat).toNat with
  | some h => regs h.ndim b
  | none => []
def State.layoutPer (s : State) (a : BitVec 6) : Nat :=
  match s.handle? s.g.pkg s.g.ctx (s.g.sreg a.toNat).toNat with
  | some h => perEt h.et
  | none => 1

/-- The registers an instruction reads and writes (R219 to R225), with the element type MODE selects. -/
def uses (s : State) (i : Instr) : Uses :=
  let w := perEt s.g.et
  let fr := s.g.fr
  match i with
  | .nop _ => {}
  | .yield _ => {}
  | .setm _ => {}
  | .setmh _ => {}
  | .getm d _ => { ws := regs 1 d }
  | .gets d a _ => { wv := regs (if a.toNat = 13 then 2 else 1) d, guarded := true }
  | .braJ _ _ => { guarded := true }
  | .braL _ p _ _ => { rp := regs 1 p, guarded := true }
  | .brx a _ => { rv := regs 2 a, guarded := true }
  | .call k _ _ => { wv := [8 * k.toNat + 62, 8 * k.toNat + 63], guarded := true }
  | .callx d a _ => { rv := regs 2 a, wv := [8 * d.toNat + 62, 8 * d.toNat + 63], guarded := true }
  | .ret _ _ => { rv := [62, 63], guarded := true }
  | .exit _ => { guarded := true }
  | .trap _ _ => { guarded := true }
  | .brk _ _ => { guarded := true }
  | .wait _ _ _ => {}
  | .sleep a _ => { rs := regs 2 a }
  | .phint r0 r1 _ _ _ => { rs := regs 1 r0 ++ regs 1 r1 }
  | .iadd d a b _ => { rv := regs w a ++ regs w b, wv := regs w d, guarded := true }
  | .isub d a b _ => { rv := regs w a ++ regs w b, wv := regs w d, guarded := true }
  | .iaddc d a b p _ _ => { rv := regs 1 a ++ regs 1 b, rp := regs 1 p, wv := regs 1 d, wp := regs 1 p, guarded := true }
  | .imul d a b _ => { rv := regs w a ++ regs w b, wv := regs w d, guarded := true }
  | .imulh d a b _ => { rv := regs w a ++ regs w b, wv := regs w d, guarded := true }
  | .imad d a b _ => { rv := regs w a ++ regs w b ++ regs w d, wv := regs w d, guarded := true }
  | .ineg d a _ => { rv := regs w a, wv := regs w d, guarded := true }
  | .iabs d a _ => { rv := regs w a, wv := regs w d, guarded := true }
  | .imin d a b _ => { rv := regs w a ++ regs w b, wv := regs w d, guarded := true }
  | .imax d a b _ => { rv := regs w a ++ regs w b, wv := regs w d, guarded := true }
  | .and d a b _ => { rv := regs 1 a ++ regs 1 b, wv := regs 1 d, guarded := true }
  | .or d a b _ => { rv := regs 1 a ++ regs 1 b, wv := regs 1 d, guarded := true }
  | .xor d a b _ => { rv := regs 1 a ++ regs 1 b, wv := regs 1 d, guarded := true }
  | .andn d a b _ => { rv := regs 1 a ++ regs 1 b, wv := regs 1 d, guarded := true }
  | .not d a _ => { rv := regs 1 a, wv := regs 1 d, guarded := true }
  | .shlR d a b _ => { rv := regs 1 a ++ regs 1 b, wv := regs 1 d, guarded := true }
  | .shrR d a b _ => { rv := regs 1 a ++ regs 1 b, wv := regs 1 d, guarded := true }
  | .shaR d a b _ => { rv := regs 1 a ++ regs 1 b, wv := regs 1 d, guarded := true }
  | .rolR d a b _ => { rv := regs 1 a ++ regs 1 b, wv := regs 1 d, guarded := true }
  | .shlI d a _ _ => { rv := regs 1 a, wv := regs 1 d, guarded := true }
  | .shrI d a _ _ => { rv := regs 1 a, wv := regs 1 d, guarded := true }
  | .shaI d a _ _ => { rv := regs 1 a, wv := regs 1 d, guarded := true }
  | .rolI d a _ _ => { rv := regs 1 a, wv := regs 1 d, guarded := true }
  | .fsh d a _ _ => { rv := regs 2 a, wv := regs 1 d, guarded := true }
  | .popc d a _ => { rv := regs 1 a, wv := regs 1 d, guarded := true }
  | .clz d a _ => { rv := regs 1 a, wv := regs 1 d, guarded := true }
  | .brev d a _ => { rv := regs 1 a, wv := regs 1 d, guarded := true }
  | .bfx d a _ _ _ => { rv := regs 1 a, wv := regs 1 d, guarded := true }
  | .bfi d a b _ _ _ => { rv := regs 1 a ++ regs 1 b, wv := regs 1 d, guarded := true }
  | .bperm d a b _ => { rv := regs 1 a ++ regs 1 b, wv := regs 1 d, guarded := true }
  | .sel d a b p _ _ => { rv := regs 1 a ++ regs 1 b, rp := regs 1 p, wv := regs 1 d, guarded := true }
  | .icmp d a b _ _ => { rv := regs w a ++ regs w b, wp := regs 1 d, guarded := true }
  | .iaddi d a _ _ => { rv := regs w a, wv := regs w d, guarded := true }
  | .mov d a _ => { rv := regs 1 a, wv := regs 1 d, guarded := true }
  | .movi d _ _ => { wv := regs 1 d, guarded := true }
  | .lit d _ _ => { wv := regs 1 d, guarded := true }
  | .movs d a _ => { rs := regs 1 a, wv := regs 1 d, guarded := true }
  | .movv d a i _ => { rv := regs 1 a, ws := regs 1 d, lane := some i.toNat }
  | .lea d a b _ => { rv := regs 2 a ++ regs 1 b, wv := regs 2 d, guarded := true }
  | .sadd d a b _ => { rs := regs 1 a ++ regs 1 b, ws := regs 1 d }
  | .ssub d a b _ => { rs := regs 1 a ++ regs 1 b, ws := regs 1 d }
  | .smul d a b _ => { rs := regs 1 a ++ regs 1 b, ws := regs 1 d }
  | .sand d a b _ => { rs := regs 1 a ++ regs 1 b, ws := regs 1 d }
  | .sor d a b _ => { rs := regs 1 a ++ regs 1 b, ws := regs 1 d }
  | .sxor d a b _ => { rs := regs 1 a ++ regs 1 b, ws := regs 1 d }
  | .sshl d a b _ => { rs := regs 1 a ++ regs 1 b, ws := regs 1 d }
  | .sshr d a b _ => { rs := regs 1 a ++ regs 1 b, ws := regs 1 d }
  | .scmp d a b _ _ => { rs := regs 1 a ++ regs 1 b, wp := regs 1 d }
  | .smovSS d a _ => { rs := regs 1 a, ws := regs 1 d }
  | .smovFS d a _ => { rs := regs 1 a, wf := regs 1 d }
  | .smovSF d a _ => { rf := regs 1 a, ws := regs 1 d }
  | .slitS d _ _ => { ws := regs 1 d }
  | .slitF d _ _ => { wf := regs 1 d }
  | .pand d a b _ => { rp := regs 1 a ++ regs 1 b, wp := regs 1 d, guarded := true }
  | .por d a b _ => { rp := regs 1 a ++ regs 1 b, wp := regs 1 d, guarded := true }
  | .pxor d a b _ => { rp := regs 1 a ++ regs 1 b, wp := regs 1 d, guarded := true }
  | .pnot d a _ => { rp := regs 1 a, wp := regs 1 d, guarded := true }
  | .pmov d a _ => { rp := regs 1 a, wp := regs 1 d, guarded := true }
  | .shfl d a b _ => { rv := regs 1 a ++ regs 1 b, wv := regs 1 d, guarded := true, post := true }
  | .vote d a _ => { rp := regs 1 a, ws := regs 2 d, guarded := true, post := true }
  | .lred d a _ _ => { rv := regs w a, ws := regs w d, guarded := true, post := true }
  | .lscan d a _ _ => { rv := regs w a, wv := regs w d, guarded := true, post := true }
  | .matchV d a _ => { rv := regs 1 a, wv := regs 1 d, guarded := true, post := true }
  | .compact d a _ => { rv := regs 1 a, wv := regs 1 d, guarded := true, post := true }
  | .regroup d a b _ => { rs := regs 1 a ++ regs 2 b, rv := bitsSet 64 (s.g.s2 b.toNat), rp := [1, 2, 3, 4, 5, 6, 7], wp := regs 1 d, post := true }
  | .fadd d a b _ => { rv := regs w a ++ regs w b, wv := regs w d, guarded := true }
  | .fsub d a b _ => { rv := regs w a ++ regs w b, wv := regs w d, guarded := true }
  | .fmul d a b _ => { rv := regs w a ++ regs w b, wv := regs w d, guarded := true }
  | .ffma d a b _ => { rv := regs w a ++ regs w b ++ regs w d, wv := regs w d, guarded := true }
  | .fmin d a b _ => { rv := regs w a ++ regs w b, wv := regs w d, guarded := true }
  | .fmax d a b _ => { rv := regs w a ++ regs w b, wv := regs w d, guarded := true }
  | .fminn d a b _ => { rv := regs w a ++ regs w b, wv := regs w d, guarded := true }
  | .fmaxn d a b _ => { rv := regs w a ++ regs w b, wv := regs w d, guarded := true }
  | .fabs d a _ => { rv := regs w a, wv := regs w d, guarded := true }
  | .fneg d a _ => { rv := regs w a, wv := regs w d, guarded := true }
  | .fcmp d a b _ _ => { rv := regs w a ++ regs w b, wp := regs 1 d, guarded := true }
  | .frcp d a _ => { rv := regs w a, wv := regs w d, guarded := true, post := true }
  | .frsq d a _ => { rv := regs w a, wv := regs w d, guarded := true, post := true }
  | .fsqrt d a _ => { rv := regs w a, wv := regs w d, guarded := true, post := true }
  | .fex2 d a _ => { rv := regs w a, wv := regs w d, guarded := true, post := true }
  | .flg2 d a _ => { rv := regs w a, wv := regs w d, guarded := true, post := true }
  | .fsin d a _ => { rv := regs w a, wv := regs w d, guarded := true, post := true }
  | .fcos d a _ => { rv := regs w a, wv := regs w d, guarded := true, post := true }
  | .ftanh d a _ => { rv := regs w a, wv := regs w d, guarded := true, post := true }
  | .fscl d a b _ => { rv := regs w a ++ regs 1 b, wv := regs w d, guarded := true }
  | .frnd d a _ => { rv := regs w a, wv := regs w d, guarded := true }
  | .fcls d a _ => { rv := regs w a, wv := regs 1 d, guarded := true }
  | .fcvt d a i _ => { rv := regs (perEt i.toNat) a, wv := regs w d, rf := (if i.toNat = 16 || s.g.et == 16 then [fr] else []), guarded := true }
  | .icvt d a i _ => { rv := regs (perEt i.toNat) a, wv := regs w d, guarded := true }
  | .tsum d a b _ => { rv := regs 1 a ++ regs 1 b, wv := regs 2 d, guarded := true }
  | .tprd d a b _ => { rv := regs 1 a ++ regs 1 b, wv := regs 2 d, guarded := true }
  | .cmul d a b _ => { rv := regs 2 a ++ regs 2 b, wv := regs 2 d, guarded := true }
  | .cfma d a b _ => { rv := regs 2 a ++ regs 2 b ++ regs 4 d, wv := regs 4 d, guarded := true }
  | .dot2 d a b _ => { rv := regs 1 a ++ regs 1 b, wv := regs 1 d, guarded := true }
  | .h2add d a b _ => { rv := regs 1 a ++ regs 1 b, wv := regs 1 d, guarded := true }
  | .h2mul d a b _ => { rv := regs 1 a ++ regs 1 b, wv := regs 1 d, guarded := true }
  | .h2fma d a b _ => { rv := regs 1 a ++ regs 1 b ++ regs 1 d, wv := regs 1 d, guarded := true }
  | .qblk d a b _ => { rv := regs 1 a, rs := regs 1 b, rf := [fr] ++ [(fr + 1) % 8], wv := regs 1 d, guarded := true }
  | .qcvt d a b _ => { rv := regs 1 a ++ regs 1 b, rf := [fr], wv := regs 1 d, guarded := true }
  | .plsplit d a _ _ => { rv := regs 1 a, rf := [fr], wv := regs 1 d, guarded := true }
  | .pljoin d a b _ => { rv := regs 1 a ++ regs 1 b, rf := [fr], wv := regs 1 d, guarded := true }
  | .ldI d a _ _ => { rv := regs 2 a, wv := regs w d, guarded := true, post := true }
  | .ldL d a _ _ => { rv := regs 2 a, wv := regs w d, guarded := true, post := true }
  | .stI d a _ _ => { rv := regs 2 a ++ regs w d, guarded := true }
  | .stL d a _ _ => { rv := regs 2 a ++ regs w d, guarded := true }
  | .ldl d a b _ => { rs := regs 1 a, rv := s.coords a b, wv := regs (s.layoutPer a) d, guarded := true, post := true }
  | .stl d a b _ => { rs := regs 1 a, rv := s.coords a b ++ regs (s.layoutPer a) d, guarded := true }
  | .atom d a b _ _ => { rv := regs 2 a ++ regs w b, wv := regs w d, guarded := true, post := true }
  | .atomc d a b _ => { rv := regs 2 a ++ regs w b ++ regs w d, wv := regs w d, guarded := true, post := true }
  | .red a b _ _ => { rv := regs 2 a ++ regs w b, guarded := true }
  | .fence _ => {}
  | .cctl a _ _ => { rv := regs 2 a, guarded := true }
  | .lalloc d a _ _ => { rs := regs 1 a, ws := regs 1 d, post := true }
  | .lfree d a _ _ => { rs := regs 1 a, ws := regs 1 d, post := true }
  | .tlmake d a _ => { rs := regs 2 a, ws := regs 1 d, post := true }
  | .tldrop d a _ => { rs := regs 1 a, ws := regs 1 d, post := true }
  | .tlqry d a _ _ => { rs := regs 1 a, ws := regs 1 d, post := true }
  | .binit d a i _ => { rs := regs 1 d ++ regs (s.objRegs i.toNat) a }
  | .blink d a b _ => { rs := regs 1 d ++ regs (s.objRegs ((s.g.sreg d.toNat).toNat % 8)) a ++ (if b = 0 then [] else regs (s.objRegs ((s.g.sreg d.toNat).toNat / 8 % 8)) b) }
  | .bara a i _ => { rs := regs (s.objRegs i.toNat) a }
  | .barw d a i _ => { rs := regs (s.objRegs i.toNat) a, ws := regs 2 d, post := true }
  | .baraw d a i _ => { rs := regs (s.objRegs i.toNat) a, ws := regs 2 d, post := true }
  | .bart d a i _ => { rs := regs (s.objRegs i.toNat) a, ws := regs 2 d, post := true }
  | .barx d a i _ => { rs := regs 1 d ++ regs (s.objRegs i.toNat) a }
  | .push a _ _ => { rv := regs 1 a, guarded := true }
  | .pushr a _ _ => { rv := regs 1 a, guarded := true }
  | .pop d _ _ => { wv := regs 1 d, guarded := true, post := true }
  | .peek d _ _ => { wv := regs 1 d, guarded := true, post := true }
  | .pqry d _ _ => { wv := regs 1 d, guarded := true, post := true }
  | .plink d a _ _ => { rs := regs 1 a, ws := regs 1 d, post := true }
  | .plinkUnlink d _ _ => { ws := regs 1 d, post := true }
  | .tret _ => {}
  | .csrr d _ _ => { ws := regs 1 d, post := true }
  | .csrw a _ _ => { rs := regs 1 a }
  | .ctxrd d a _ _ => { rs := regs 1 a, ws := regs 1 d, post := true }
  | .ctxwr d a _ _ => { rs := regs 1 a ++ regs 1 d }
  | .save d a b _ => { rs := regs 1 a ++ regs 2 b, ws := regs 1 d, post := true }
  | .rstr d a b _ => { rs := regs 1 a ++ regs 2 b, ws := regs 1 d, post := true }
  | .haltcr d a _ => { rs := regs 1 a, ws := regs 1 d, post := true }
  | .resume d a _ => { rs := regs 1 a, ws := regs 1 d, post := true }
  | .killcr d a _ => { rs := regs 1 a, ws := regs 1 d, post := true }
  | .tlbinv d a b _ => { rs := regs 2 a ++ regs 1 b, ws := regs 1 d, post := true }
  | .cinv a _ _ => { rs := regs 2 a }
  | .tkt d a b _ => { rs := regs 2 a ++ regs 1 b, ws := regs 1 d, post := true }
  | .hmsg d a b _ => { rs := regs 2 a ++ regs 1 b, ws := regs 1 d, post := true }
  | .idle _ => {}
  | .mcopy y d a => { rs := regs 2 a, ws := yreg y d, post := y == 1 }
  | .ucopy y d a => { rs := regs 2 a, ws := yreg y d, post := y == 1 }
  | .gcopy y d a => { rs := regs 2 a, ws := yreg y d, post := y == 1 }
  | .reduce y d a => { rs := regs 2 a, ws := yreg y d, post := y == 1 }
  | .cqry d a b => { rs := regs 1 a ++ regs 1 b, ws := regs 1 d, post := true }
  | .vinit y d a b => { rs := regs 1 a ++ regs 2 b, ws := yreg y d, post := y == 1 }
  | .vtake d a => { rs := regs 1 a, ws := regs 1 d, post := true }
  | .vput y d a b => { rs := regs 1 a ++ regs 1 b, ws := yreg y d, post := y == 1 }
  | .vqry d a b => { rs := regs 1 a ++ regs 1 b, ws := regs 1 d, post := true }
  | .sfill y d a b => { rs := regs 1 a ++ regs 1 b, ws := yreg y d, post := y == 1 }
  | .sdrain y d a b => { rs := regs 1 a ++ regs 1 b, ws := yreg y d, post := y == 1 }
  | .sstop y d a => { rs := regs 1 a, ws := yreg y d, post := y == 1 }
  | .mma y d a b => { rs := regs 1 a ++ regs 1 b, ws := yreg y d, post := y == 1 }
  | .mmac y d a b => { rs := regs 1 a ++ regs 1 b, ws := yreg y d, post := y == 1 }
  | .mfence => {}
  | .mwait a => { rs := regs 1 a }
  | .mqry d a => { rs := regs 1 a, ws := regs 1 d, post := true }
  | .celget d a => { rs := regs 1 a, ws := regs 1 d, post := true }
  | .celpin y d a b => { rs := regs 1 a ++ regs 1 b, ws := yreg y d, post := y == 1 }
  | .celfree y d a => { rs := regs 1 a, ws := yreg y d, post := y == 1 }
  | .celfreeEvict y d a => { rs := regs 1 a, ws := yreg y d, post := y == 1 }
  | .celld y d a => { rs := regs 1 a, ws := yreg y d, post := y == 1 }
  | .celst y d a => { rs := regs 1 a, ws := yreg y d, post := y == 1 }
  | .celz y d a => { rs := regs 1 a, ws := yreg y d, post := y == 1 }
  | .delta y d a => { rs := regs 1 a, ws := yreg y d, post := y == 1 }
  | .dqry y d a => { rs := regs 1 a, ws := yreg y d, post := y == 1 }
  | .agset d a => { rs := regs 2 a, ws := regs 1 d, post := true }
  | .agfree y d a => { rs := regs 1 a, ws := yreg y d, post := y == 1 }
  | .mst y d a => { rs := regs 2 a, ws := yreg y d, post := y == 1 }
  | .mldr y d a => { rs := regs 2 a, ws := yreg y d, post := y == 1 }
  | .coll y d a => { rs := regs 2 a, ws := yreg y d, post := y == 1 }
  | .collw d a => { rs := regs 2 a, ws := regs 1 d, post := true }
  | .flush => {}
  | .launch y d a b => { rs := regs 1 a ++ (if flag (s.g.sreg a.toNat).toNat 16 then regs 2 b else []), ws := yreg y d, post := y == 1 }
  | .launchd y d a b => { rs := regs 1 a ++ regs 2 b ++ (if flag (s.g.sreg a.toNat).toNat 16 then [b.toNat + 2, b.toNat + 3] else []), ws := yreg y d, post := y == 1 }
  | .join d => { ws := regs 1 d, post := true }
  | .joinall d => { ws := regs 1 d, post := true }
  | .tileq d a => { rs := regs 1 a, ws := regs 1 d, post := true }
  | .cancel y d => { ws := yreg y d, post := y == 1 }
  | .qpush y d a b => { rs := regs 1 a ++ regs 2 b, ws := yreg y d, post := y == 1 }
  | .timeq d a => { rs := regs 1 a, ws := regs 1 d, post := true }
  | .tsig y d a b => { rs := regs 2 a ++ regs 1 b, ws := yreg y d, post := y == 1 }
  | .scoreboardLand _ _ => {}
  | .storeQueueDrain _ => {}
  | .storeAck _ => {}
  | .remoteAccess _ => {}
  | .fabricResponse _ => {}
  | .impreciseFault => {}
  | .spill _ _ => {}
  | .fill _ _ => {}
  | .haltComplete _ => {}
  | .eventDelivery _ _ => {}
  | .preqWrite a _ _ => { rs := regs 1 a }
  | .graceExpiry _ => {}
  | .watchdog _ _ => {}
  | .dsplitWrite a _ => { rs := regs 1 a }
  | .dsplitDone _ _ => {}
  | .timelRead d _ => { ws := regs 1 d, post := true }
  | .ctxerrRead d _ => { ws := regs 1 d, post := true }
  | .childStart _ _ => {}
  | .dependenceEntry _ _ => {}
  | .childRelaunch _ _ => {}
  | .tileComplete _ => {}
  | .sleepWake _ _ => {}
  | .tsigFire _ _ => {}
  | .copyArrival _ => {}
  | .streamSlotDone _ => {}
  | .streamFault _ => {}
  | .matrixArrival _ => {}
  | .portValueLand _ _ _ => {}
  | .portPark _ _ => {}
  | .portDeadlock _ => {}
  | .fabricArrival _ => {}
  | .switchContribution _ => {}
  | .tupleTimeout _ _ => {}
  | .collStepTimeout _ => {}
  | .fabricPacketExpiry _ => {}
  | .linkFailure _ _ _ => {}
  | .kick _ _ _ _ => {}
  | .nopPacket _ _ => {}
  | .launchPacket _ _ _ => {}
  | .gangPacket _ _ => {}
  | .waitPacket _ _ => {}
  | .waitPacketPoll _ _ _ => {}
  | .signalPacket _ _ => {}
  | .signalAck _ _ _ => {}
  | .timestampPacket _ _ => {}
  | .reserve _ _ _ => {}
  | .held _ _ => {}
  | .gangNo _ _ => {}
  | .commit _ _ => {}
  | .release _ _ => {}
  | .reserveTimerExpiry _ => {}
  | .holdTimerExpiry _ _ => {}
  | .backoffExpiry _ => {}
  | .gangPartStart _ _ => {}
  | .rdmaWrite _ _ _ _ _ => {}
  | .rdmaRead _ _ _ _ _ => {}
  | .rdmaNak _ _ => {}
  | .hmsgTimeout _ => {}
  | .query _ _ => {}
  | .setp _ _ => {}
  | .setfloor _ _ => {}
  | .cleartrip _ _ => {}
  | .attest _ _ => {}
  | .idkey _ _ => {}
  | .joinmem _ _ => {}
  | .thermalTrip _ => {}
  | .powerOn _ => {}
  | .firmwareLoaded _ _ _ => {}
  | .firmwareVerified _ _ => {}
  | .stackTrainingDone _ _ _ => {}
  | .dieLinksUp _ _ => {}
  | .thermalCalibrationDone _ => {}
  | .coreReset _ _ => {}
  | .dieReset _ _ => {}
  | .packageReset _ => {}
  | .powerCycle _ => {}
  | .softError _ _ _ _ => {}
  | .podTimeSyncChange _ _ _ => {}
  | .packageReachable _ _ => {}

/-- Bytes of an instruction, literal words included (R213). -/
def instrBytes (i : Instr) : Nat := 4 * (encode i).length

/-- Stall count of an instruction; M- and X-form words issue as if S were 0 (R214). -/
def instrStall (i : Instr) : Nat :=
  match encode i with
  | [] => 0
  | w :: _ =>
    let op := w.toNat / 2 ^ 24
    if 0xE0 ≤ op ∨ op = 1 ∨ op = 2 then 0 else w.toNat % 16

/-- The lanes whose registers an instruction reads. -/
def Group.reach (g : Group) (u : Uses) : List Nat := (u.lane.map fun i => [i]).getD g.lanesIn

/-- An early read of a fixed-latency result (R71), the guard predicate included. -/
def Group.early (g : Group) (u : Uses) : Bool :=
  let ps := if u.guarded then g.gp :: u.rp else u.rp
  (g.reach u).any (fun i =>
    let l := g.lane i
    l.earlyV.any (fun e => u.rv.any fun x => e.reg == l.wb + x) || l.earlyP.any (fun e => ps.contains e.reg && e.reg != 0)) ||
  g.earlyS.any (fun e => u.rs.contains e.reg) || g.earlyF.any (fun e => u.rf.contains e.reg)

/-- A source register of lane i that holds poisoned data: the guard predicate, and, unless the guard leaves the lane out, any
other (R73, R411). -/
def Group.poisonedIn (g : Group) (u : Uses) (i : Nat) : Bool :=
  let l := g.lane i
  l.poison.any fun q =>
    (u.guarded && g.gp != 0 && q == 2 ^ 20 + g.gp) ||
    ((!u.guarded || g.active i) &&
      ((u.rv.any fun x => q == l.wb + x) || u.rp.any fun x => x != 0 && q == 2 ^ 20 + x))

/-- A source register that holds poisoned data (R411). -/
def Group.poisoned (g : Group) (u : Uses) : Bool :=
  ((g.reach u).any fun i => g.poisonedIn u i) ||
  g.bad.any fun q => (u.rs.any fun x => q == x) || u.rf.any fun x => q == 64 + x

/-- The lane that a trap of poisoned sources names: the lowest one with any, or the lowest lane of the split (log entry 11). -/
def Group.poisonLane (g : Group) (u : Uses) : Nat := ((g.reach u).find? fun i => g.poisonedIn u i).getD g.lowLane

/-- The s registers of the scoreboarded result that a descheduled split awaits: a pair for BARW and BARAW, one for VTAKE and
PLINK (R70, R72). -/
def Wait.awaits : Wait → List Nat
  | .barrier _ d _ => [d, d + 1]
  | .vtake _ d => [d]
  | .plink _ _ d => [d]
  | _ => []

/-- Those of every split but the ones at a barrier, which WAIT does not wait for (R243). -/
def Wait.awaitsNoBarrier : Wait → List Nat
  | .barrier _ _ _ => []
  | w => w.awaits

/-- Those of the group's splits other than the issuing one, which writes its own when its instruction completes. -/
def Group.awaited (g : Group) : List Nat := (g.splits.filter fun p => p.idx != g.cur).flatMap fun p => p.wait.awaits
def Group.awaitedReplies (g : Group) : List Nat := g.splits.flatMap fun p => p.wait.awaitsNoBarrier

/-- A register read or written has a pending scoreboarded write, or the 33rd entry is needed (R72). -/
def Group.blocked (g : Group) (u : Uses) : Bool :=
  let ps := if u.guarded then g.gp :: u.rp else u.rp
  let vs := u.rv ++ u.wv
  (u.post && decide (32 ≤ g.sb.length + (g.splits.filter fun p => p.idx != g.cur && !p.wait.awaits.isEmpty).length)) ||
  (g.awaited.any fun n => n != 0 && (u.rs ++ u.ws).contains n) ||
  g.sb.any fun e => e.writes.any fun tw =>
    match tw.1 with
    | .v i pos => (g.reach u).contains i && vs.any fun x => pos == (g.lane i).wb + x
    | .s n => n != 0 && (u.rs ++ u.ws).contains n
    | .p i n => (g.reach u).contains i && n != 0 && (ps ++ u.wp).contains n

/-- The source type that FCVT names beside MODE's; 0 of every other instruction. -/
def srcEt (i : Instr) : Nat :=
  match i with
  | .fcvt _ _ src _ => src.toNat
  | _ => 0

/-- The latency of an instruction's fixed-latency results (R70, R267). -/
def fixedLat (i : Instr) (et : Nat) : Nat :=
  let op := ((encode i).headD 0).toNat / 2 ^ 24
  if (0x60 ≤ op ∧ op < 0x80) ∨ (0x90 ≤ op ∧ op < 0x94) then (if et = 15 ∨ srcEt i = 15 then 10 else 6) else 4

/-- A lane whose guard is false keeps its destinations, but a read of them before the latency is over is early all the same:
UNDERSTALL is the instruction's, whatever the guards (R71, R73). -/
def Group.shadow (g : Group) (off : List Nat) (u : Uses) (lat : Nat) : Group :=
  if u.post then g else
  g.eachLane off fun i h => h.modLane i fun l =>
    { l with earlyV := l.earlyV ++ u.wv.map (fun x => ⟨l.wb + x, l.at (l.wb + x), lat⟩),
             earlyP := l.earlyP ++ (u.wp.filter fun x => x != 0).map fun x => ⟨x, if flag l.p.toNat x then 1 else 0, lat⟩ }

/-- A body's result with the lanes its guard left out marked. -/
def Res.shadowed (r : Res) (off : List Nat) (u : Uses) (lat : Nat) : Res :=
  match r with
  | .done t => .done (t.setG (t.g.shadow off u lat))
  | r => r

/-- The lanes of the issuing split that a guard leaves out (R73). -/
def Group.guardedOff (g : Group) (u : Uses) : List Nat :=
  if u.guarded then g.lanesIn.filter fun i => !g.active i else []

/-- What an instruction comes to at issue: the checks of R226 in their order, the holds of R72, then its body. `legal` is check
4, the MODE fields it uses. -/
def issueRes (i : Instr) (legal : Bool) (s : State) (body : State → Res) : Res :=
  let u := uses s i
  if privSlot i && !s.g.priv then .trap 0x02 0 s.g.lowLane
  else if !i.wf || !legal then .trap 0x01 0 s.g.lowLane
  else if s.g.chk && s.g.early u then .trap 0x03 0 s.g.lowLane
  else if s.g.blocked u then .hold
  else if s.g.poisoned u then .trap 0x0A 0 (s.g.poisonLane u)
  else (body s).shadowed (s.g.guardedOff u) u (fixedLat i s.g.et)

/-- The frame of every instruction: merge at issue (R41), then what it comes to. A state whose focus has no such split is a
fault. -/
def issue (i : Instr) (legal : Bool) (s : State) (body : State → Res) : Outcome State Fault Refusal :=
  match s.g.split? s.g.cur with
  | none => .fault .noIssuer
  | some _ => .next (finish (instrBytes i) (instrStall i) s.merged (issueRes i legal s.merged body))

/-- The frame of an instruction that touches its group alone. -/
def issueG (i : Instr) (legal : Bool) (s : State) (body : Group → Group) : Outcome State Fault Refusal :=
  issue i legal s fun t => .done (t.setG (body t.g))

end Sys2Proof.Machine
end

