-- ==== Sys2Proof/Machine/Translate.lean ====
section
/-! DEFINITION. Addresses and translation: the address map R107, R108, windows R110 to R114, page tables R391 to R395, pinned regions R397, errors found on the way R411. -/

namespace Sys2Proof.Machine

/-- A field of a process-context entry (R391). -/
def State.ctxField (s : State) (pkg ctx off len : Nat) : Nat :=
  s.num (keyPkg pkg ((s.pkg pkg).pctx + 0x40000 + 128 * ctx + off)) len

/-- A process context is LIVE in a package (R391). -/
def State.ctxLive (s : State) (pkg ctx : Nat) : Bool := s.ctxField pkg ctx 0 1 == 1

/-- Bytes of package memory in service: 48 GB per stack (R431). -/
def Package.capacity (p : Package) : Nat := 48 * 10 ^ 9 * p.inService.length

/-- The rights of a table entry: R 1, W 2, X 4 (R393). -/
def entryRights (e : Nat) : Nat := field e 4 2

/-- A malformed entry at a level (R393): reserved bits, LEAF where it cannot be, an unaligned leaf, a table outside memory. -/
def malformed (cap level e : Nat) : Bool :=
  let leaf := flag e 1
  let addr := field e 47 12 * 2 ^ 12
  field e 63 48 != 0 || field e 11 5 != 0 || (leaf && level == 3) || (!leaf && level == 0) ||
  (leaf && addr % 2 ^ (match level with | 2 => 30 | 1 => 21 | _ => 16) != 0) ||
  (!leaf && decide (cap < addr + 4096))

/-- A leaf found by a walk: page base offset, length, physical base, rights. -/
structure Leaf where
  base : Nat
  len : Nat
  pa : Nat
  rights : Nat
  deriving DecidableEq, Repr

/-- The four-level walk of R392 from `level` + 1 levels up; the second part is a poisoned table word met (R411). -/
def State.walk (s : State) (pkg off : Nat) : Nat → Nat → Option Leaf × Option Nat
  | 0, _ => (none, none)
  | n + 1, table =>
    let (hi, lo) := match n with
      | 3 => (39, 34)
      | 2 => (33, 30)
      | 1 => (29, 21)
      | _ => (20, 16)
    let k := keyPkg pkg (table + 8 * field off hi lo)
    let e := s.num k 8
    let cap := (s.pkg pkg).capacity
    if s.poisonedAt k 8 then (none, some k)
    else if !flag e 0 || malformed cap n e then (none, none)
    else
      let addr := field e 47 12 * 2 ^ 12
      if flag e 1 then
        let base := off / 2 ^ lo * 2 ^ lo
        (if addr + 2 ^ lo ≤ cap then (some ⟨base, 2 ^ lo, addr, entryRights e⟩, none) else (none, none))
      else s.walk pkg off n addr

/-- An error of KIND 7 for a poisoned control structure (R411). -/
def State.eccCtl (s : State) (pkg ctx : Nat) (g : Option Group) (addr : Nat) : State :=
  let r : Imprecise := match g with
    | some g => { kind := 7, code := 0x0A, pkg := pkg, core := g.core,
                  crewId := 0, crew := ((s.crew? g.crew).map Crew.num).getD 0, gid := 0, group := g.num, ctx := ctx,
                  lgen := ((s.crew? g.crew).map Crew.lgen).getD 0, pc := g.pc, addr := addr, target := 0, queue := 0, tag := 0 }
    | none => ⟨7, 0x0A, pkg, 0, 0, 0, 0, 0, ctx, 0, 0, addr, 0, 0, 0⟩
  { s with imprecise := s.imprecise ++ [r] }

/-- A byte of the handle table of a context, records of 64 bytes from HTAB on; HTAB 0 names no table (R120, R391, log entry 97). -/
def State.inHandleTable (s : State) (pkg pa ctx : Nat) : Bool :=
  let h := s.ctxField pkg ctx 0x18 8
  h != 0 && decide (h ≤ pa) && decide (pa < h + 2 ^ 22)

/-- An ordinary access of a context may not reach a physical byte: its own handle table's, or that of any context which has made a
handle in the package (R120). -/
def State.tableByte (s : State) (pkg ctx pa : Nat) : Bool :=
  s.inHandleTable pkg pa ctx || s.handles.any fun h => h.pkg == pkg && s.inHandleTable pkg pa h.ctx

/-- A translated offset, when the page has the rights and the byte is none of a handle table. -/
def State.allow (s : State) (pkg ctx pa rights need : Nat) : Option Nat :=
  if rights &&& need = need ∧ s.tableByte pkg ctx pa = false then some pa else none

/-- Translation at home (R394, R395): a TLB entry may serve, or the walk; `need` is a mask of R 1, W 2, X 4. -/
def State.translate (s : State) (pkg ctx off need : Nat) : Option Nat × State :=
  if !s.ctxLive pkg ctx then (none, s) else
  let hit := s.tlb.find? fun t => t.pkg == pkg && t.ctx == ctx && decide (t.base ≤ off) && decide (off < t.base + t.len)
  let (coin, s) := if hit.isSome then s.pick 2 else (1, s)
  match hit, coin with
  | some t, 0 => (s.allow pkg ctx (t.pa + (off - t.base)) t.rights need, s)
  | _, _ =>
    match s.walk pkg off 4 (s.ctxField pkg ctx 0x08 8) with
    | (some l, _) =>
      let e : Tlb := ⟨pkg, ctx, l.base, l.len, l.pa, l.rights⟩
      let s := if s.tlb.contains e then s else { s with tlb := e :: s.tlb }
      (s.allow pkg ctx (l.pa + (off - l.base)) l.rights need, s)
    | (none, some k) => (none, s.eccCtl pkg ctx none (k % 2 ^ 48))
    | (none, none) => (none, s)

/-- Where an address leads (R107 to R110): a key of level memory with its level and window offset, or a home package and
its virtual offset; none when the form itself is TRANSLATION. -/
inductive Place where
  | level (key lvl off memb : Nat)
  | home (pkg off : Nat)
  deriving DecidableEq, Repr

/-- The nearest tile of domain `dom` from tile `tid` up (R110). -/
def State.ancestor (s : State) (dom : Nat) : Nat → Option Nat → Option Tile
  | 0, _ => none
  | k + 1, tid =>
    match tid.bind s.tile? with
    | none => none
    | some t => if t.dom = dom then some t else s.ancestor dom k t.parent

/-- The nearest ancestor tile of a group with a domain, its own tile counted (R110). -/
def State.windowTile (s : State) (g : Group) (lvl : Nat) : Option Tile := s.ancestor lvl 9 g.tile

/-- The checks of R108 on an address form. -/
def State.place (s : State) (g : Group) (va : Nat) : Option Place :=
  if va / 2 ^ 60 = 0 then
    let lcl := flag va 52
    let pkg := field va 51 40
    if field va 59 53 ≠ 0 ∨ (lcl ∧ pkg ≠ 0) ∨ (!lcl ∧ !s.extended ∧ 1023 < pkg) then none
    else some (.home (if lcl then g.pkg else pkg) (field va 39 0))
  else if va / 2 ^ 60 = 15 then
    let lvl := field va 59 57
    if field va 56 32 ≠ 0 ∨ lvl = 0 ∨ 3 < lvl then none
    else match s.windowTile g lvl with
      | some t => some (.level (t.home + va % 2 ^ 32) lvl (va % 2 ^ 32) t.memb)
      | none => none
  else none

/-- The guard granules of a span count once its reply has landed (R300). -/
def State.guarded (s : State) (sp : Span) : Bool :=
  match sp.since with
  | none => true
  | some (gid, sb) => !((s.group? gid).map fun g => g.sb.any fun e => e.id == sb).getD false

/-- A key inside a guard granule of a tile's allocation or of one of its LALLOC blocks that count (R111, R113). -/
def Tile.guardKey (t : Tile) (counts : Span → Bool) (k : Nat) : Bool :=
  decide (1 ≤ t.dom) && decide (t.dom ≤ 3) && decide (t.home ≤ k) && decide (k < t.home + t.memb) &&
  (let o := k - t.home
   decide (o < 64) || decide (t.memb ≤ o + 64) ||
   t.spans.any fun sp => sp.block && counts sp && ((decide (sp.off ≤ o) && decide (o < sp.off + 64)) ||
     (decide (sp.off + sp.len ≤ o + 64) && decide (o < sp.off + sp.len))))

def State.guardKey (s : State) (k : Nat) : Bool := s.tiles.any fun t => t.guardKey s.guarded k

/-- A guard hit of an access of n bytes (R114): beyond MEMB, or a byte in a guard granule. -/
def State.guardHit (s : State) (key off memb n : Nat) : Bool :=
  decide (memb < off + n) || (List.range n).any fun j => s.guardKey (key + j)

/-- The bank or slice index a guard record carries (R114). -/
def bankOf (lvl key off : Nat) : Nat :=
  if lvl = 1 then off / 8 % 128 else Config.sliceIndex lvl (key / 2 ^ 20) off % 65536

/-- A crew records a guard hit (R114): the first in full, later ones in the count. -/
def State.recordGuard (s : State) (crew group pc lvl off key : Nat) : State :=
  s.modCrew crew fun c =>
    { c with guard := some (match c.guard with
        | none => ⟨0, group, pc, lvl, off, bankOf lvl key off, 1⟩
        | some r => { r with count := r.count + 1 }) }

/-- The pinned-region entry of a context with a handle (R397); none unless LIVE and readable. -/
def State.region? (s : State) (pkg ctx h : Nat) : Option Region :=
  if h = 0 ∨ !s.ctxLive pkg ctx then none else
  let k := keyPkg pkg (s.ctxField pkg ctx 0x10 8 + 32 * h)
  if s.num (k + 0x0D) 1 = 1 ∧ !s.poisonedAt k 32 then some ⟨s.num k 8, s.num (k + 8) 4, s.num (k + 0x0C) 1, s.num (k + 0x10) 8⟩ else none

/-- Bytes of a pinned region. -/
def Region.size (r : Region) : Nat := r.nchunk * 2 ^ 21

/-- The global key of byte o of a pinned region (R397). -/
def State.regionKey (s : State) (pkg : Nat) (r : Region) (o : Nat) : Nat :=
  keyPkg pkg (s.num (keyPkg pkg (r.clist + 4 * (o / 2 ^ 21))) 4 * 2 ^ 21 + o % 2 ^ 21)

/-- A span of a pinned region with the rights needed. -/
def State.regionSpan (s : State) (pkg ctx h need off len : Nat) : Option Region :=
  match s.region? pkg ctx h with
  | some r => if r.rights &&& need = need ∧ off + len ≤ r.size then some r else none
  | none => none

/-- The key of byte n of a span, after those of the bytes before it: within a page it follows them, for one translation serves a page
(R396). -/
def State.spanKey (s : State) (pkg ctx off need n : Nat) (ks : List Nat) : Option Nat × State :=
  match ks.getLast?, decide ((off + n) % 65536 = 0) with
  | some k, false => (if s.tableByte pkg ctx ((k + 1) % 2 ^ 48) then none else some (k + 1), s)
  | _, _ =>
    match s.translate pkg ctx (off + n) need with
    | (some pa, s) => (some (keyPkg pkg pa), s)
    | (none, s) => (none, s)

/-- The physical keys of n bytes at a virtual offset of a package, page by page; none without the rights. -/
def State.translateSpan (s : State) (pkg ctx off need : Nat) : Nat → Option (List Nat) × State
  | 0 => (some [], s)
  | n + 1 =>
    match s.translateSpan pkg ctx off need n with
    | (none, s) => (none, s)
    | (some ks, s) =>
      match s.spanKey pkg ctx off need n ks with
      | (some k, s) => (some (ks ++ [k]), s)
      | (none, s) => (none, s)

/-- The bytes of a structure that an instruction reads at issue (R291 steps 1 and 3): a level window, where a guard hit gives
zeros (R114), or package memory, where a poisoned word counts as malformed and is reported (R411); none where it would trap. -/
def State.fetchStruct (s : State) (g : Group) (va n : Nat) : Option (List Byte) × State :=
  match s.place g va with
  | none => (none, s)
  | some (.level key lvl off memb) =>
    if s.guardHit key off memb n then (some (List.replicate n 0), s.recordGuard g.crew g.num g.pc lvl off key)
    else if s.poisonedAt key n then (some (List.replicate n 0), s.eccCtl g.pkg g.ctx (some g) va)
    else (some (s.bytes key n), s)
  | some (.home pkg off) =>
    match s.translate pkg g.ctx off 1, s.translate pkg g.ctx (off + n - 1) 1 with
    | (none, s), _ => (none, s)
    | _, (none, s) => (none, s)
    | (some pa, s), (some pb, _) =>
      -- a structure may reach over one page boundary
      let m := if off / 65536 = (off + (n - 1)) / 65536 ∨ pb = pa + (n - 1) then n else 65536 - off % 65536
      let bs := s.bytes (keyPkg pkg pa) m ++ s.bytes (keyPkg pkg (pb - (n - 1 - m))) (n - m)
      if s.poisonedAt (keyPkg pkg pa) m || s.poisonedAt (keyPkg pkg (pb - (n - 1 - m))) (n - m) then
        (some (List.replicate n 0), s.eccCtl g.pkg g.ctx (some g) va)
      else (some bs, s)

end Sys2Proof.Machine
end

