-- ==== Sys2Proof/Machine/MemPath.lean ====
section
/-! DEFINITION. The memory path: caches and points of coherence (R112, R151, R152), store queues (R145), acquire and release (R147, R148), the forwarding path (R150), ranges of accepted commands (R125, R166), stores and RMWs at home. -/

namespace Sys2Proof.Machine

/-- Cache units: the L1 of a core and the die cache of a die. -/
def unitL1 (pkg core : Nat) : Nat := pkg * 2 ^ 13 + core
def unitDie (pkg core : Nat) : Nat := 2 ^ 40 + pkg * 16 + dieOf core

/-- The key under which a cache holds a byte homed in another package: context, package and virtual offset. -/
def keyRemote (ctx pkg off : Nat) : Nat := 2 ^ 70 + ctx * 2 ^ 52 + pkg * 2 ^ 40 + off

/-- A unit of a core's die: its die cache, or the L1 of one of its cores. -/
def unitOfDie (pkg core unit : Nat) : Bool :=
  unit == unitDie pkg core || (decide (unit < 2 ^ 40) && unit / 2 ^ 13 == pkg && unit % 2 ^ 13 / 128 == dieOf core)

def State.line? (s : State) (unit key : Nat) : Option Line :=
  s.lines.find? fun l => l.unit == unit && l.key == key / 64 * 64

/-- A held line takes new contents; with `alloc` an absent one is allocated. -/
def State.putLine (s : State) (alloc : Bool) (unit key : Nat) (data : List Byte) : State :=
  let k := key / 64 * 64
  if s.lines.any fun l => l.unit == unit && l.key == k then
    { s with lines := s.lines.map fun l => if l.unit = unit ∧ l.key = k then { l with data := data } else l }
  else if alloc then { s with lines := ⟨unit, k, data⟩ :: s.lines } else s

/-- The die cache of a die takes new lines: DSPLIT leaves it a share and no division is under way (R11, R112). -/
def State.dieCache (s : State) (pkg die : Nat) : Bool :=
  let d := (s.pkg pkg).die die
  !d.busy && decide (d.dmem < 16)

/-- A line as it was read follows into the nearer caches: held copies take it, and with `alloc` absent ones are made (R60, R112). -/
def State.fillLine (s : State) (pkg core : Nat) (alloc : Bool) (key : Nat) (data : List Byte) : State :=
  (s.putLine (alloc && s.dieCache pkg (dieOf core)) (unitDie pkg core) key data).putLine alloc (unitL1 pkg core) key data

/-- A byte stored into a held line (R151: caches on the path are updated as the store passes). -/
def State.lineByte (s : State) (unit key : Nat) (b : Byte) : State :=
  { s with lines := s.lines.map fun l =>
      if l.unit = unit ∧ l.key = key / 64 * 64 then { l with data := setNth l.data (key % 64) b } else l }

/-- Discard cached lines of the units that satisfy p. -/
def State.dropLines (s : State) (p : Line → Bool) : State := { s with lines := s.lines.filter fun l => !p l }

/-- Group h lies in the unit of domain sc of group g (R142); GRP covers g alone. -/
def Group.covers (g : Group) (sc : Nat) (h : Group) : Bool :=
  match sc with
  | 0 => false
  | 1 => h.pkg == g.pkg && h.core == g.core
  | 2 => h.pkg == g.pkg && cluOf h.core == cluOf g.core
  | 3 => h.pkg == g.pkg && dieOf h.core == dieOf g.core
  | 4 => h.pkg == g.pkg
  | _ => true

/-- The cached lines of a core nearer than a scope's point of coherence are discarded (R147, R152). -/
def State.discard (s : State) (pkg core sc : Nat) : State :=
  if sc ≤ 1 then s
  else if sc ≤ 3 then s.dropLines fun l => l.unit == unitL1 pkg core
  else s.dropLines fun l => l.unit == unitL1 pkg core || l.unit == unitDie pkg core

/-- What the releases of other groups in a scope have handed on joins the stores that a group's releases at POD wait for (R147, R148). -/
def State.learn (s : State) (g : Group) (sc : Nat) : State :=
  let ids := (s.allGroups.filter fun h => h.id != g.id && g.covers sc h).flatMap Group.handed
  if ids.isEmpty then s else s.modGroup g.id fun h => { h with readPend := (h.readPend ++ ids).eraseDups }

/-- An acquire of a group at a resolved scope, for its own accesses: it discards its core's lines nearer than the scope's point of
coherence and learns of the stores handed on (R147, R343). -/
def State.refresh (s : State) (g : Group) (sc : Nat) : State := (s.learn g sc).discard g.pkg g.core sc

/-- An acquire of a group (R147); arrivals of other groups' matrix commands so far count as acquired (R166, log entry 22). -/
def State.acquire (s : State) (g : Group) (sc : Nat) : State :=
  (s.modGroup g.id fun h => h.retire Unretired.other).refresh g sc

/-- A release of a group short of POD hands on the stores it has not waited for (R147, R148). -/
def Group.handOn (g : Group) : Group := { g with handed := (g.handed ++ g.unacked ++ g.readPend).eraseDups }

/-- MODE.SC with HERE and PARENT resolved; a group without a tile takes POD (R13, log entry 10). -/
def State.scope (s : State) : Nat := let r := s.resolve s.g s.g.sc; if 5 < r then 5 else r

/-- The nearest point that may serve a load: 0 the L1, 1 the die cache, 2 home (R151, R152). -/
def loadLimit (ord sc : Nat) : Nat := if ord = 0 ∨ sc ≤ 1 then 0 else if sc ≤ 3 then 1 else 2

/-- The 64-byte line of a load out of a cache it may use, or `home`; nearer copies follow what was read, so that the
group never reads older values later (R144, R152). `key` is the line's cache key. -/
def State.loadLine (s : State) (pkg core : Nat) (alloc : Bool) (limit key : Nat) (home : List Byte) : List Byte × State :=
  let l1 := unitL1 pkg core
  let dc := unitDie pkg core
  let (c, s) := if limit < 2 && (s.line? l1 key).isSome || (s.line? dc key).isSome then s.pick 3 else (2, s)
  match c, s.line? l1 key, s.line? dc key with
  | 0, some l, _ => if limit = 0 then (l.data, s) else (home, s.fillLine pkg core alloc key home)
  | 1, _, some l => if limit ≤ 1 then (l.data, s.putLine alloc l1 key l.data) else (home, s.fillLine pkg core alloc key home)
  | _, _, _ => (home, s.fillLine pkg core alloc key home)

/-- n bytes read at a key of the package: level memory at its own bank, package memory through a cache (R151). -/
def State.readAt (s : State) (pkg core : Nat) (alloc : Bool) (limit key n : Nat) : List Byte × State :=
  if keyKind key ≠ 0 then (s.bytes key n, s) else
  let (line, s) := s.loadLine pkg core alloc limit key (s.bytes (key / 64 * 64) 64)
  ((line.drop (key % 64)).take n, s)

/-! ### Ranges of accepted commands (R125, R165, R166) -/

def inSpans (ss : List (Nat × Nat)) (k : Nat) : Bool := ss.any fun p => decide (p.1 ≤ k) && decide (k < p.1 + p.2)

/-- The command was accepted from the group after the access with a place in its program order: the access is an earlier one. -/
def Cmd.follows (c : Cmd) (gid seq : Nat) : Bool := c.gid == gid && decide (seq < c.id)

/-- A byte read by a group: free when it is a destination of an accepted command, or of an unretired one, that the access does
not precede. -/
def State.groupByte (s : State) (g : Group) (seq k : Nat) (b : Byte) : Byte :=
  if (s.cmds.any fun c => inSpans c.dst k && !c.follows g.id seq) ||
      (g.unretired.any fun u => inSpans u.dst k && (u.other || decide (u.id ≤ seq))) then
    BitVec.ofNat 8 (Config.freeAt g.id g.tick k 7) else b

/-- The bytes of an access, each as its group reads it. -/
def State.groupBytes (s : State) (g : Group) (seq key : Nat) (bs : List Byte) : List Byte :=
  ((List.range bs.length).zip bs).map fun jb => s.groupByte g seq (key + jb.1) jb.2

/-- The live vat header that holds a key. -/
def State.vatHolding (s : State) (k : Nat) : Option Nat :=
  (s.vats.find? fun v => decide (v.vat ≤ k) && decide (k < v.vat + 64)).map VatDev.vat

/-- An ordinary byte stored into a live barrier object leaves its later contents and wake-ups undefined (R306), one in a live vat
header the whole header (R135). -/
def State.wild (s : State) (k : Nat) : State :=
  let s := match s.liveBars.find? fun o => decide (o ≤ k) && decide (k < o + 32) with
    | some o => { s.spoil o 32 with wildBars := if s.wildBars.contains o then s.wildBars else o :: s.wildBars }
    | none => s
  match s.vatHolding k with
  | some v => s.spoil v 64
  | none => s

/-- A byte written by a group, with the place of the access in its program order. An accepted command that reads or writes it
sees an undefined byte, and it is itself undefined, as it is in a range of an unretired command of the group (R125, R166); but a
command that follows the access in its own group sees an operand as it was or as it becomes (R165). -/
def State.groupStore (s : State) (gid seq k : Nat) (b : Byte) : State :=
  let hit := s.cmds.filter fun c => inSpans c.src k || inSpans c.dst k
  let wild := hit.filter fun c => !c.follows gid seq
  let free := !wild.isEmpty ||
    ((s.group? gid).map fun g => g.unretired.any fun u => (inSpans u.dst k || inSpans u.src k) && (u.other || decide (u.id ≤ seq))).getD false
  let old := s.byte k
  let s := { s with taint := s.taint ++ wild.map fun (c : Cmd) => (c.id, k)
                    mixed := s.mixed ++ (hit.filter fun (c : Cmd) => c.follows gid seq && inSpans c.src k).map fun (c : Cmd) => (c.id, k, old) }
  let (f, s) := if free then s.draw else (b.toNat, s)
  (s.setByte k (BitVec.ofNat 8 f)).wild k

/-- A byte as an engine's command reads it: free when a group touched it meanwhile (R125), any of the values it had when a store
that the command follows may have come late (R165). -/
def State.engineByte (s : State) (cmd k : Nat) : Byte :=
  if s.taint.contains (cmd, k) then BitVec.ofNat 8 (Config.freeAt cmd s.free k 8) else
  match s.mixed.filter fun m => m.1 == cmd && m.2.1 == k with
  | [] => s.byte k
  | olds => (s.byte k :: olds.map fun m => m.2.2).getD (Config.freeAt cmd s.free k 12 % (olds.length + 1)) (s.byte k)

/-- The package and core that an engine's command or stream works for. -/
def State.engineSite (s : State) (cmd : Nat) : Option (Nat × Nat) :=
  match s.cmds.find? fun c => c.id == cmd with
  | some c => some (c.pkg, c.core)
  | none => match s.streams.find? fun x => x.id == cmd with
    | some x => (s.tiles.find? fun t => t.id == x.tile).map fun t => (x.pkg, t.core)
    | none => none

/-- What an engine writes into package memory also reaches the lines of the core and die it works for, so that a wait which
acquires its arrival, at whatever domain, leaves nothing older to read (R155, R206): lines homed in its package take the byte,
lines homed in another package go. -/
def State.engineCaches (s : State) (pkg core k : Nat) (b : Byte) : State :=
  if keyKind k ≠ 0 ∨ s.lines.isEmpty then s
  else if keyPkgOf k = pkg then (s.lineByte (unitL1 pkg core) k b).lineByte (unitDie pkg core) k b
  else s.dropLines fun l => (l.unit == unitL1 pkg core || l.unit == unitDie pkg core) && decide (2 ^ 70 ≤ l.key) &&
    l.key / 2 ^ 40 % 2 ^ 12 == keyPkgOf k

/-- A byte as an engine's command writes it. -/
def State.engineStore (s : State) (cmd k : Nat) (b : Byte) : State :=
  let b := if s.taint.contains (cmd, k) then BitVec.ofNat 8 (Config.freeAt cmd s.free k 9) else b
  let s := (s.setByte k b).wild k
  match s.engineSite cmd with
  | some (pkg, core) => s.engineCaches pkg core k b
  | none => s

/-! ### Stores at home -/

/-- Write bytes from a key at the point of coherence: whole ECC words lose their poison; a partial store into a poisoned
word leaves it poisoned and is reported (R411): the second part is true then. -/
def State.storeHome (s : State) (gid seq key : Nat) (bs : List Byte) : State × Bool :=
  let words := ((List.range bs.length).map fun j => eccWord (key + j)).eraseDups
  let whole := fun w => decide (key ≤ w) && decide (w + eccSize key ≤ key + bs.length)
  let bad := words.any fun w => s.poison.contains w && !whole w
  let s := { s with poison := s.poison.filter fun w => !(words.contains w && whole w) }
  (((List.range bs.length).zip bs).foldl (fun (t : State) jb => t.groupStore gid seq (key + jb.1) jb.2) s, bad)

/-- A store passes its bytes into the lines its core and die hold (R151). -/
def State.passCaches (s : State) (pkg core key : Nat) (bs : List Byte) : State :=
  ((List.range bs.length).zip bs).foldl
    (fun (t : State) jb => (t.lineByte (unitL1 pkg core) (key + jb.1) jb.2).lineByte (unitDie pkg core) (key + jb.1) jb.2) s

/-- The same at a key of the package or of level memory, which no cache holds (R112, R152). -/
def State.passHere (s : State) (pkg core key : Nat) (bs : List Byte) : State :=
  if keyKind key = 0 then s.passCaches pkg core key bs else s

/-! ### Atomics (R296) -/

/-- Bits of an element type (R57, R255); packed pairs and C32 by their whole size, NF and reserved 0. -/
def etBits (et : Nat) : Nat :=
  match et with
  | 0 => 8 | 1 => 16 | 2 => 32 | 3 => 64 | 4 => 8 | 5 => 8 | 6 => 16 | 7 => 16 | 8 => 32 | 9 => 32 | 10 => 64
  | 11 => 64 | 12 => 16 | 13 => 16 | 14 => 32 | 15 => 64 | 17 => 64 | 18 => 32 | 19 => 32 | _ => 0

/-- Byte size z of an element type (R255, R290). -/
def etBytes (et : Nat) : Nat := etBits et / 8

/-- S types (R57). -/
def etSigned (et : Nat) : Bool := et == 4 || et == 6 || et == 8 || et == 10
/-- Integer and bit types, codes 0 to 11. -/
def etInt (et : Nat) : Bool := decide (et < 12)

/-- The value of an n-bit element by its type's signedness (R232). -/
def etVal (et x : Nat) : Int := if etSigned et then signExt x (etBits et) else ((x % 2 ^ etBits et : Nat) : Int)

/-- Integer types that atomics accept: 32- and 64-bit (R296, R297). -/
def atomInt (et : Nat) : Bool := et == 2 || et == 3 || et == 8 || et == 9 || et == 10 || et == 11

/-- An operation FN accepts a type (R296). -/
def atomLegal (fn et : Nat) : Bool :=
  if et = 14 then fn == 0 || fn == 1 || fn == 2 || fn == 6 else atomInt et && decide (fn < 7)

/-- The new value of an atomic (R296, R132). -/
def atomOp (fn et old b : Nat) : Nat :=
  let n := etBits et
  if et = 14 then
    let x := f32.decode old
    let y := f32.decode b
    match fn with
    | 0 => roundNE32 (x.add y)
    | 1 => roundNE32 (xMinMax false x y)
    | 2 => roundNE32 (xMinMax true x y)
    | _ => b
  else match fn with
    | 0 => (old + b) % 2 ^ n
    | 1 => if etVal et old ≤ etVal et b then old else b
    | 2 => if etVal et b ≤ etVal et old then old else b
    | 3 => old &&& b
    | 4 => old ||| b
    | 5 => old ^^^ b
    | _ => b

/-- An RMW at one place: what it reads decides what it stores, none when it stores nothing. -/
def rmw (kind : AccKind) (old b : List Byte) : Option (List Byte) :=
  match kind with
  | .red fn et => some (bytesOf old.length (atomOp fn et (natOf old) (natOf b)))
  | .atom fn et => some (bytesOf old.length (atomOp fn et (natOf old) (natOf b)))
  | .cas _ cmp => if old = cmp then some b else none
  | .store => some b
  | .load _ => none

def AccKind.isLoad : AccKind → Bool
  | .load _ => true
  | _ => false

/-! ### A group's own queue (R145) -/

/-- The location a virtual address names for comparison within a group: package and offset, or a level key (R109). -/
def State.loc (s : State) (g : Group) (va : Nat) : Nat :=
  match s.place g va with
  | some (.home pkg off) => pkg * 2 ^ 40 + off
  | some (.level key _ _ _) => 2 ^ 80 + key
  | none => 2 ^ 90 + va

/-- The newest byte that the group's queue holds for a location; `some none` when a RED or a store of single bits on it is queued. -/
def State.queued (s : State) (g : Group) (lc : Nat) : Option (Option Byte) :=
  g.sq.foldl (fun acc e => e.lanes.foldl (fun acc ls =>
    let a := s.loc g ls.va
    if a ≤ lc ∧ lc < a + ls.data.length then
      some (if e.red.isSome || !ls.mask.isEmpty then none else ls.data[lc - a]?)
    else acc) acc) none

/-- Overlay the group's queued stores on bytes read from a location; none when a queued RED must drain first. -/
def State.overlay (s : State) (g : Group) (lc : Nat) (bs : List Byte) : Option (List Byte) :=
  ((List.range bs.length).zip bs).foldr (fun jb acc =>
    match acc, s.queued g (lc + jb.1) with
    | some l, none => some (jb.2 :: l)
    | some l, some (some b) => some (b :: l)
    | _, _ => none) (some [])

/-- A queued store or RED of the group touches the location. -/
def State.queuedAt (s : State) (g : Group) (lc n : Nat) : Bool :=
  (List.range n).any fun j => (s.queued g (lc + j)).isSome

/-- A fault of a posted store or access of a group, for the error queue (R405, R407). -/
def State.imprecise1 (s : State) (kind code crewId gid pc addr target : Nat) (num pkg core ctx : Nat) : State :=
  let c := s.crew? crewId
  let tr := ((c.bind Crew.tile).bind s.tile?).bind s.treeOf
  { s with imprecise := s.imprecise ++
      [{ kind := kind, code := code, pkg := pkg, core := core, crewId := crewId, crew := (c.map Crew.num).getD 0,
         gid := gid, group := num, ctx := ctx, lgen := (c.map Crew.lgen).getD 0, pc := pc, addr := addr,
         target := target, queue := (tr.map Tree.queue).getD 0, tag := (tr.map Tree.tag).getD 0 }] }

/-- A package that answers accesses: reachable, powered, its memory served (R193, R426, R436). -/
def Package.serves (p : Package) : Bool := p.member && p.reachable && decide (p.pstate < 4)

/-- Two packages reach each other: some plane has lost the port of neither (R193). -/
def State.reaches (s : State) (a b : Nat) : Bool :=
  a == b || ((s.pkg a).reachable && (s.pkg b).serves &&
    (List.range Config.planes).any fun p => !(s.pkg a).failedPlanes.contains p && !(s.pkg b).failedPlanes.contains p)

/-- A switch of the extended mode drops a packet sent at a time as too old (R195). -/
def State.tooOld (s : State) (sent : Nat) : Bool := s.extended && decide (sent + 10 ^ 7 < s.time)

/-- What a queued store or RED leaves of the old bytes (R295, R296). -/
def StoreEntry.apply (e : StoreEntry) (ls : LaneStore) (old : List Byte) : List Byte :=
  match e.red with
  | some fn => bytesOf ls.data.length (atomOp fn e.et (natOf old) (natOf ls.data))
  | none =>
    if ls.mask.isEmpty then ls.data
    else ((old.zip ls.data).zip ls.mask).map fun odm => (odm.1.1 &&& ~~~odm.2) ||| (odm.1.2 &&& odm.2)

/-! ### Accesses under way -/

/-- Bytes a packet's access covers. -/
def Packet.size (p : Packet) : Nat :=
  match p.kind with
  | .load z => z
  | _ => p.data.length

/-- The virtual offset a packet's address names at its target. -/
def Packet.off (p : Packet) : Nat := field p.va 39 0

/-- A location of another package, by package and offset, apart from every key. -/
def farSpot (pkg off : Nat) : Nat := 2 ^ 90 + pkg * 2 ^ 40 + off

/-- Where a packet's access lies. -/
def Packet.spot (p : Packet) : Nat := p.key.getD (farSpot p.dst p.off)

/-- It shares a byte with n bytes at a place. -/
def Packet.meets (p : Packet) (spot n : Nat) : Bool := decide (p.spot < spot + n) && decide (spot < p.spot + p.size)

/-- A store or RED that stays inside the package on its way to the point where a scope short of PKG orders it (R151). -/
def Packet.inside (p : Packet) : Bool := p.sb.isNone && (p.key.isSome || (p.kind != .store && decide (p.sc ≤ 3)))

/-- A packet of n bytes' load, store or RMW that has not taken effect at its place in the package, or whose result is still to
come: an access of its group to the same bytes goes behind it (R144). -/
def State.behind (s : State) (gid spot n : Nat) : Bool :=
  s.net.any fun p => p.gid == gid && (p.key.isSome || p.kind != .store) && p.meets spot n

/-- Accesses that R145 keeps in total store order: to core memory, and to package memory at CORE scope. -/
def tsoClass (key : Option Nat) (sc : Nat) : Bool :=
  match key.map keyKind with
  | some 1 => true
  | some 0 => sc == 1
  | none => sc == 1
  | _ => false

/-- A load or RMW of R145's classes is under way: what follows it in its group takes no effect before it. -/
def State.tsoPending (s : State) (gid seq : Nat) : Bool :=
  s.net.any fun p => p.gid == gid && p.sb.isSome && tsoClass p.key p.sc && decide (p.seq < seq)

/-- An access that may take effect after later ones of its group: no acquire, no release, and outside R145's classes (R146). -/
def movable (ord sc key : Nat) : Bool := decide (ord < 2) && !tsoClass (some key) sc

/-- Stores under way inside the package that a later RELAXED store of the group, at PKG scope or narrower, goes behind (R146). -/
def State.storesAhead (s : State) (gid : Nat) : List Nat :=
  (s.net.filter fun p => p.gid == gid && p.key.isSome && !p.kind.isLoad && p.ord != 0 && decide (p.sc < 5)).map Packet.id

/-- One lane's access as it is issued (R141); `now` when it takes its value at issue. -/
structure Access where
  lane : Nat
  va : Nat
  n : Nat
  et : Nat
  ord : Nat
  sc : Nat
  now : Bool := false
  deriving DecidableEq, Repr

/-- An access of the group in focus set under way, to a package or, with its key, to a place in the group's own. -/
def State.packet (s : State) (a : Access) (dst : Nat) (key : Option Nat) (kind : AccKind) (data : List Byte)
    (after : List Nat) : Packet where
  id := s.next
  src := s.g.pkg
  dst := dst
  core := s.g.core
  gid := s.g.id
  crew := s.g.crew
  ctx := s.g.ctx
  lane := a.lane
  sb := some s.g.nextSb
  pc := s.g.pc
  va := a.va
  kind := kind
  data := data
  et := a.et
  sent := s.time
  seq := s.next
  ord := a.ord
  sc := a.sc
  alloc := s.g.ch != 3
  acq := false
  key := key
  after := after
  res0 := 0

def State.send (s : State) (p : Packet) : State := { s with net := s.net ++ [p], next := s.next + 1 }

/-! ### Pending values of stores to other packages (R150) -/

/-- Stores of a die to bytes homed in another package that have not been acknowledged, oldest first. -/
def State.pendIds (s : State) (unit key n : Nat) : List Nat :=
  ((s.pend.filter fun p => p.1 == unit && decide (key ≤ p.2.1) && decide (p.2.1 < key + n)).map fun p => p.2.2.2).eraseDups

/-- The newest pending value of a byte. -/
def State.pendByte (s : State) (unit key : Nat) : Option Byte :=
  ((s.pend.filter fun p => p.1 == unit && p.2.1 == key).getLast?).map fun p => p.2.2.1

/-- A byte as the die's slice has it: of its line, or else a pending value. -/
def State.dieByte (s : State) (unit key : Nat) : Option Byte :=
  match s.line? unit key with
  | some l => l.data[key % 64]?
  | none => s.pendByte unit key

/-- Every member's value, when all have one. -/
def allSome {α : Type} : List (Option α) → Option (List α)
  | [] => some []
  | none :: _ => none
  | some x :: t => (allSome t).map fun l => x :: l

/-- n bytes homed in another package as the nearest cache within a limit has them (R151, R152). -/
def State.nearBytes (s : State) (pkg core limit key n : Nat) : Option (List Byte) :=
  match limit, s.line? (unitL1 pkg core) key with
  | 0, some l => some ((l.data.drop (key % 64)).take n)
  | _, _ => allSome ((List.range n).map fun j => s.dieByte (unitDie pkg core) (key + j))

/-- What the group in focus has read out of a cache stands in its core's L1 line, and it has read the pending stores among it
(R144, R148). -/
def State.seen (s : State) (key : Nat) (bs : List Byte) : State :=
  let g := s.g
  let ids := (s.pendIds (unitDie g.pkg g.core) key bs.length).filter fun i => !g.unacked.contains i && !g.readPend.contains i
  let s := ((List.range bs.length).zip bs).foldl (fun (t : State) jb => t.lineByte (unitL1 g.pkg g.core) (key + jb.1) jb.2) s
  { s with g := { s.g with readPend := s.g.readPend ++ ids } }

/-- The pending stores to n bytes that the group has made or read: its accesses at their home go behind them (R144). -/
def State.known (s : State) (g : Group) (key n : Nat) : List Nat :=
  (s.pendIds (unitDie g.pkg g.core) key n).filter fun i => g.unacked.contains i || g.readPend.contains i

/-! ### Loads -/

/-- A load's answer for one lane: known at issue, to come, a trap, or the instruction waits at issue. -/
inductive LoadRes where
  | val (bs : List Byte)
  | far
  | trap (code : Nat)
  | hold
  deriving DecidableEq, Repr

/-- A load at a key of the package or of level memory: at issue, or, where R146 leaves it free to, later (R125, R144, R145, R151,
R152, R411). -/
def State.loadHere (s : State) (a : Access) (key : Nat) : LoadRes × State :=
  let g := s.g
  let lc := s.loc g a.va
  let behind := s.behind g.id key a.n
  if s.poisonedAt key a.n then (.trap 0x0A, s)
  else if tsoClass (some key) a.sc && s.tsoPending g.id s.next then (.hold, s)
  else
    let (coin, s) := if movable a.ord a.sc key && !a.now then s.pick 2 else (0, s)
    if (behind || coin == 1) && !s.queuedAt g lc a.n then (.far, s.send (s.packet a g.pkg (some key) (.load a.n) [] []))
    else if behind then (.hold, s)
    else
      let (bs, s) := s.readAt g.pkg g.core (g.ch != 3) (loadLimit a.ord a.sc) key a.n
      match s.overlay g lc (s.groupBytes g s.next key bs) with
      | some bs => (.val bs, s)
      | none => (.hold, s)

/-- A load at a window offset of level memory (R110, R114). -/
def State.loadLevel (s : State) (a : Access) (key lvl off memb : Nat) : LoadRes × State :=
  if s.guardHit key off memb a.n then (.val (List.replicate a.n 0), s.recordGuard s.g.crew s.g.num s.g.pc lvl off key)
  else s.loadHere a key

/-- The access is served within the issuing die: WEAK, or at a scope of DIE or narrower (R151, R152). -/
def narrow (ord sc : Nat) : Bool := ord == 0 || decide (sc ≤ 3)

/-- A load of a location homed in another package: out of a cache that may serve it, a pending value by the forwarding path, or
under way to its home (R109, R144, R145, R150 to R152). -/
def State.loadFar (s : State) (a : Access) (pkg off : Nat) : LoadRes × State :=
  let g := s.g
  let lc := pkg * 2 ^ 40 + off
  let rk := keyRemote g.ctx pkg off
  if !(s.pkg pkg).member then (.trap 0x06, s)
  else if tsoClass none a.sc && s.tsoPending g.id s.next then (.hold, s)
  else if s.queuedAt g lc a.n then
    match s.overlay g lc (List.replicate a.n 0), (List.range a.n).all fun j => (s.queued g (lc + j)).isSome with
    | some bs, true => (.val bs, s)
    | _, _ => (.hold, s)
  else
    let near := if narrow a.ord a.sc then s.nearBytes g.pkg g.core (loadLimit a.ord a.sc) rk a.n
      else if a.ord = 3 then none
      else allSome ((List.range a.n).map fun j => s.pendByte (unitDie g.pkg g.core) (rk + j))
    let (coin, s) := s.pick 2
    match near, coin, s.behind g.id (farSpot pkg off) a.n with
    | some bs, 0, false => (.val bs, s.seen rk bs)
    | _, _, _ => (.far, s.send (s.packet a pkg none (.load a.n) [] (s.known g rk a.n)))

/-- One lane's load (R108 to R114, R141). -/
def State.load1 (s : State) (a : Access) : LoadRes × State :=
  match s.place s.g a.va with
  | none => (.trap 0x06, s)
  | some (.level key lvl off memb) => s.loadLevel a key lvl off memb
  | some (.home pkg off) =>
    if pkg = s.g.pkg then
      match s.translate pkg s.g.ctx off 1 with
      | (none, s) => (.trap 0x06, s)
      | (some pa, s) => s.loadHere a (keyPkg pkg pa)
    else s.loadFar a pkg off

/-! ### Stores that leave the queue -/

/-- The bytes an RMW at a scope reads: a CORE or DIE copy may be older than home (R151). -/
def State.rmwOld (s : State) (pkg core sc key n : Nat) : List Byte :=
  let lim := loadLimit 1 sc
  let lk := if keyKind key ≠ 0 then none
            else if lim = 0 then s.line? (unitL1 pkg core) key
            else if lim = 1 then s.line? (unitDie pkg core) key else none
  match lk with
  | some l => (l.data.drop (key % 64)).take n
  | none => s.bytes key n

/-- A lane's store or RED at its place in the package: memory, the lines it passes, and the report of a partial store into a
poisoned word (R411). -/
def State.storeHere (s : State) (e : StoreEntry) (ls : LaneStore) (key : Nat) : State :=
  let g := s.g
  let data := e.apply ls (s.rmwOld g.pkg g.core (if e.red.isSome then e.sc else 5) key ls.data.length)
  let (t, bad) := s.storeHome g.id e.id key data
  let t := t.passHere g.pkg g.core key data
  if bad then t.imprecise1 2 0x0A g.crew g.id e.pc ls.va 0 g.num g.pkg g.core g.ctx else t

/-- The access of a lane of a queue entry. -/
def StoreEntry.access (e : StoreEntry) (ls : LaneStore) : Access := { lane := ls.lane, va := ls.va, n := ls.data.length, et := e.et, ord := e.ord, sc := e.sc }

/-- The access of an entry under way. -/
def State.storePacket (s : State) (e : StoreEntry) (a : Access) (dst : Nat) (key : Option Nat) (data : List Byte)
    (after : List Nat) : Packet :=
  { s.packet a dst key (match e.red with | some fn => .red fn e.et | none => .store) data after with
    sb := none, pc := e.pc, seq := e.id, acq := e.acq, alloc := true }

/-- A WEAK store may go byte by byte (R143): the parts of a lane's store, offset and bytes, by a coin. -/
def storeParts (e : StoreEntry) (ls : LaneStore) (split : Bool) : List (Nat × List Byte) :=
  if split && e.ord == 0 && e.red.isNone then (List.range ls.data.length).map fun j => (j, (ls.data.drop j).take 1) else [(0, ls.data)]

/-- A lane's store to its own package or to level memory leaves the queue: it takes effect, or, where R146 leaves it free to, goes
under way behind the stores that R146 puts before it; none while an earlier access to its bytes is (R144). -/
def State.storeNear (s : State) (e : StoreEntry) (ls : LaneStore) (key : Nat) : Option State :=
  let g := s.g
  let ahead := if e.ord = 0 ∨ 4 < e.sc then [] else s.storesAhead g.id
  let free := movable e.ord e.sc key && e.red.isNone && ls.mask.isEmpty
  let (coin, s) := if free then s.pick 3 else (0, s)
  if s.behind g.id key ls.data.length || (!free && !ahead.isEmpty) then none
  else if coin = 0 ∧ ahead = [] then some (s.storeHere e ls key)
  else some ((storeParts e ls (coin == 2)).foldl (fun (t : State) p =>
    t.send (t.storePacket e { e.access ls with va := ls.va + p.1 } g.pkg (some (key + p.1)) p.2 ahead)) s)

/-- A store under way to its home in another package: pending in its die's cache, passed into the lines on its path, behind the
die's earlier stores to its bytes (R144, R150, R151). -/
def State.storeFar (s : State) (p : Packet) : State :=
  let unit := unitDie p.src p.core
  let rk := keyRemote p.ctx p.dst p.off
  let id := s.next
  let s := s.send { p with id := id, after := s.pendIds unit rk p.size }
  let s := { s with pend := s.pend ++ ((List.range p.size).zip p.data).map fun (jb : Nat × Byte) => (unit, rk + jb.1, jb.2, id) }
  (s.passCaches p.src p.core rk p.data).modGroup p.gid fun h =>
    { h with unacked := id :: h.unacked, acqOut := if p.acq then id :: h.acqOut else h.acqOut }

/-- A RED under way to another package. -/
def State.redFar (s : State) (p : Packet) : State :=
  let id := s.next
  ((s.send p).modGroup p.gid fun h =>
    { h with unacked := id :: h.unacked, acqOut := if p.acq then id :: h.acqOut else h.acqOut })

/-- A RED of the group that is served within the die is under way: its store is still to come. -/
def State.redPending (s : State) (gid : Nat) : Bool :=
  s.net.any fun p => p.gid == gid && p.inside && p.key.isNone

/-- A lane's store or RED to another package leaves the queue. -/
def State.storeAway (s : State) (e : StoreEntry) (ls : LaneStore) (pkg off : Nat) : Option State :=
  let g := s.g
  if s.behind g.id (farSpot pkg off) ls.data.length || s.redPending g.id then none
  else
    let known := s.known g (keyRemote g.ctx pkg off) ls.data.length
    let p := fun (t : State) (j : Nat) (bs : List Byte) => t.storePacket e { e.access ls with va := ls.va + j } pkg none bs known
    if e.red.isSome then some (s.redFar (p s 0 ls.data)) else
    let (coin, s) := s.pick 2
    some ((storeParts e ls (coin == 1)).foldl (fun (t : State) q => t.storeFar (p t q.1 q.2)) s)

/-- One lane's store, or RED, of the queue's head entry of the group in focus leaves the queue (R145, R109, R148); none while it
must wait. An address that no page or no member package answers to is an imprecise TRANSLATION (R109, R291, R436). -/
def State.performStore (s : State) (e : StoreEntry) (ls : LaneStore) : Option State :=
  let g := s.g
  let fault := fun (t : State) => some (t.imprecise1 1 0x06 g.crew g.id e.pc ls.va 0 g.num g.pkg g.core g.ctx)
  match ls.key, s.place g ls.va with
  | some key, _ => s.storeNear e ls key
  | none, none => fault s
  | none, some (.level key _ _ _) => s.storeNear e ls key
  | none, some (.home pkg off) =>
    if pkg = g.pkg then
      match s.translate pkg g.ctx off (if e.red.isSome then 3 else 2) with
      | (none, s) => fault s
      | (some pa, s) => s.storeNear e ls (keyPkg pkg pa)
    else if !(s.pkg pkg).member then fault s
    else s.storeAway e ls pkg off

/-! ### What releases wait for (R147, R148) -/

/-- A load, an RMW, or a store inside the package of the group is still under way. -/
def State.underWay (s : State) (gid : Nat) : Bool :=
  s.net.any fun p => p.gid == gid && (p.sb.isSome || p.inside)

/-- Stores to other packages, made or read, whose home has not acknowledged them; a release at POD waits for them (R148). -/
def Group.unreleased (g : Group) (sc : Nat) : Bool := decide (5 ≤ sc) && (!g.unacked.isEmpty || !g.readPend.isEmpty)

/-- An earlier acquire of the group has not taken effect (R147, R335): a load or RMW to come, a port value not landed, or a store still queued or under way. -/
def Group.acqPending (g : Group) : Bool :=
  (g.sb.any fun e => e.acq) || (g.sq.any fun e => e.acq) || !g.acqOut.isEmpty

/-- A release of the group in focus at a scope would have to wait (R147, R148). -/
def State.relWaits (s : State) (sc : Nat) : Bool := s.g.acqPending || !s.g.sq.isEmpty || s.underWay s.g.id || s.g.unreleased sc

/-- FLUSH waits for stores and RMWs alone (R148, R356). -/
def State.flushWaits (s : State) : Bool :=
  !s.g.sq.isEmpty || s.g.unreleased 5 || s.net.any fun p => p.gid == s.g.id && !p.kind.isLoad

end Sys2Proof.Machine
end

