-- ==== Sys2Proof/Machine/Flags.lean ====
section
/-! DEFINITION. Conditions, carries and status words: the FN conditions R218, R253, R271, results of typed integer instructions R232, R233, folds of barrier status R304, R305. -/

namespace Sys2Proof.Machine

/-- A compare by FN 0 to 5 (R218). -/
def condInt (fn : Nat) (x y : Int) : Bool :=
  match fn with
  | 0 => x == y
  | 1 => x != y
  | 2 => decide (x < y)
  | 3 => decide (x ≤ y)
  | 4 => decide (y < x)
  | _ => decide (y ≤ x)

/-- FCMP's condition by FN 0 to 7 (R271). -/
def condFloat (fn : Nat) (x y : XR) : Bool :=
  let un := x.isNan || y.isNan
  let o := XR.cmp x y
  match fn with
  | 0 => !un && o == .eq
  | 1 => un || o != .eq
  | 2 => !un && o == .lt
  | 3 => !un && o != .gt
  | 4 => !un && o == .gt
  | 5 => !un && o != .lt
  | 6 => un
  | _ => !un

/-- The ends of an integer type's range (R75). -/
def etLow (et : Nat) : Int := if etSigned et then -(2 ^ (etBits et - 1) : Int) else 0
def etHigh (et : Nat) : Int := if etSigned et then (2 ^ (etBits et - 1) : Int) - 1 else (2 ^ etBits et : Int) - 1

/-- B types never saturate (R233). -/
def etIsB (et : Nat) : Bool := decide (et < 4)

/-- A typed result brought into its type (R233), as an n-bit value. -/
def bring (et : Nat) (satM : Bool) (r : Int) : Nat :=
  let r := if satM && !etIsB et then min (max r (etLow et)) (etHigh et) else r
  wrap (etBits et) r

/-- The register word of an element below 32 bits: sign extension for S types, zeros for the others (R232). -/
def extend (et r : Nat) : Word :=
  if etSigned et && decide (etBits et < 32) then BitVec.ofNat 32 (wrap 32 (signExt r (etBits et)))
  else BitVec.ofNat 32 r

/-- An element as its register or pair holds it (R232, R290). -/
def Group.elem (g : Group) (et i x : Nat) : Nat :=
  if wideEt et then g.v2 i x else (g.v i x).toNat % 2 ^ etBits et

/-- An element written into its register or pair (R232, R290). -/
def Group.setElem (g : Group) (lat et i x r : Nat) : Group :=
  if wideEt et then g.setV2 lat i x r else g.setV lat i x (extend et r)

/-- No fold (R309). -/
def Fold.none : Fold := ⟨0, 0, 0⟩

/-- One fold into a status word (R305). -/
def foldStatus (st : Nat) (f : Fold) : Nat :=
  let flags := field st 13 0 ||| (f.f % 2 ^ 14)
  let count := min 65535 (field st 47 32 + f.c)
  let code := if field st 63 48 = 0 then f.x % 65536 else field st 63 48
  flags + count * 2 ^ 32 + code * 2 ^ 48

/-- The fold that a status word carries upward (R309). -/
def statusFold (st : Nat) : Fold := ⟨field st 13 0, field st 47 32, field st 63 48⟩

/-- Two folds taken together, the first code kept (R304). -/
def Fold.and (a b : Fold) : Fold := ⟨a.f ||| b.f, a.c + b.c, if a.x = 0 then b.x else a.x⟩

/-- A flag bit as a fold. -/
def Fold.bit (n : Nat) (on : Bool) : Fold := ⟨if on then 2 ^ n else 0, 0, 0⟩

/-- What an arrival folds in with the flag of a corrected error that its command met (R411). -/
def State.metError (s : State) (cmd : Nat) (f : Fold) : Fold := f.and (Fold.bit 5 (s.corrected.contains cmd))

/-- The status word of an uninitialised or reinitialised object (R307, R309). -/
def statusUninit : Nat := 2 ^ 7 + 0x0401 * 2 ^ 48
def statusReinit : Nat := 2 ^ 7 + 0x0402 * 2 ^ 48

end Sys2Proof.Machine
end

