-- ==== Sys2Proof/Machine/IntOps.lean ====
section
/-! DEFINITION. Vector integer and logic instructions (R232 to R234, R247 to R255). -/

namespace Sys2Proof.Machine

open Host (Outcome)

/-- Latency of integer results (R70, R234). -/
def latInt : Nat := 4

/-- Integer element types (R232). -/
def intLegal (s : State) : Bool := etInt s.g.et
/-- Odd fields of 64-bit types are ILLEGAL (R232). -/
def pairsEven (s : State) (xs : List (BitVec 6)) : Bool := !wideEt s.g.et || xs.all fun x => x.toNat % 2 == 0

/-- One typed result per active lane (R247): `f` gives the exact value from the operands. -/
def typed (i : Instr) (s : State) (d : BitVec 6) (xs : List (BitVec 6)) (exact : Bool) (f : Group → Nat → Int) :
    Outcome State Fault Refusal :=
  issueG i (intLegal s && pairsEven s (d :: xs)) s fun g =>
    g.eachLane g.actives fun l h =>
      h.setElem latInt g.et l d.toNat (bring g.et (g.satM && !exact) (f g l))

/-- A typed operand as an exact integer. -/
def Group.int (g : Group) (l : Nat) (x : BitVec 6) : Int := etVal g.et (g.elem g.et l x.toNat)

def execIadd (d a b : BitVec 6) (n : Ann) (s : State) : Outcome State Fault Refusal :=
  typed (.iadd d a b n) s d [a, b] false fun g l => g.int l a + g.int l b

def execIsub (d a b : BitVec 6) (n : Ann) (s : State) : Outcome State Fault Refusal :=
  typed (.isub d a b n) s d [a, b] false fun g l => g.int l a - g.int l b

def execImul (d a b : BitVec 6) (n : Ann) (s : State) : Outcome State Fault Refusal :=
  typed (.imul d a b n) s d [a, b] false fun g l => g.int l a * g.int l b

/-- IMULH: floor(a × b ÷ 2^n), always in range (R247). -/
def execImulh (d a b : BitVec 6) (n : Ann) (s : State) : Outcome State Fault Refusal :=
  typed (.imulh d a b n) s d [a, b] true fun g l => (g.int l a * g.int l b) / (2 ^ etBits g.et : Int)

def execImad (d a b : BitVec 6) (n : Ann) (s : State) : Outcome State Fault Refusal :=
  typed (.imad d a b n) s d [a, b] false fun g l => g.int l a * g.int l b + g.int l d

def execIneg (d a : BitVec 6) (n : Ann) (s : State) : Outcome State Fault Refusal :=
  typed (.ineg d a n) s d [a] false fun g l => -(g.int l a)

def execIabs (d a : BitVec 6) (n : Ann) (s : State) : Outcome State Fault Refusal :=
  typed (.iabs d a n) s d [a] false fun g l => ((g.int l a).natAbs : Int)

def execImin (d a b : BitVec 6) (n : Ann) (s : State) : Outcome State Fault Refusal :=
  typed (.imin d a b n) s d [a, b] true fun g l => min (g.int l a) (g.int l b)

def execImax (d a b : BitVec 6) (n : Ann) (s : State) : Outcome State Fault Refusal :=
  typed (.imax d a b n) s d [a, b] true fun g l => max (g.int l a) (g.int l b)

def execIaddi (d a i : BitVec 6) (n : Ann) (s : State) : Outcome State Fault Refusal :=
  typed (.iaddi d a i n) s d [a] false fun g l => g.int l a + signExt i.toNat 6

/-- IADDC: 32-bit add with carry in and out of a predicate; B32, S32 or N32 only (R248). -/
def execIaddc (d a b : BitVec 6) (p : BitVec 3) (pn : BitVec 1) (n : Ann) (s : State) : Outcome State Fault Refusal :=
  issueG (.iaddc d a b p pn n) (s.g.et == 2 || s.g.et == 8 || s.g.et == 9) s fun g =>
    g.eachLane g.actives fun l h =>
      let c := if g.p l p.toNat != (pn == 1) then 1 else 0
      let sum := (g.v l a.toNat).toNat + (g.v l b.toNat).toNat + c
      (h.setV latInt l d.toNat (BitVec.ofNat 32 sum)).setP latInt l p.toNat (flag sum 32)

/-- One untyped 32-bit result per active lane (R249). -/
def untyped (i : Instr) (s : State) (d : BitVec 6) (f : Group → Nat → Word) : Outcome State Fault Refusal :=
  issueG i true s fun g => g.eachLane g.actives fun l h => h.setV latInt l d.toNat (f g l)

def execAnd (d a b : BitVec 6) (n : Ann) (s : State) : Outcome State Fault Refusal :=
  untyped (.and d a b n) s d fun g l => g.v l a.toNat &&& g.v l b.toNat

def execOr (d a b : BitVec 6) (n : Ann) (s : State) : Outcome State Fault Refusal :=
  untyped (.or d a b n) s d fun g l => g.v l a.toNat ||| g.v l b.toNat

def execXor (d a b : BitVec 6) (n : Ann) (s : State) : Outcome State Fault Refusal :=
  untyped (.xor d a b n) s d fun g l => g.v l a.toNat ^^^ g.v l b.toNat

def execAndn (d a b : BitVec 6) (n : Ann) (s : State) : Outcome State Fault Refusal :=
  untyped (.andn d a b n) s d fun g l => g.v l a.toNat &&& ~~~(g.v l b.toNat)

def execNot (d a : BitVec 6) (n : Ann) (s : State) : Outcome State Fault Refusal :=
  untyped (.not d a n) s d fun g l => ~~~(g.v l a.toNat)

/-- The shifts of R249 on a 32-bit value with any count. -/
def shl32 (x : Word) (k : Nat) : Word := if 32 ≤ k then 0 else x <<< k
def shr32 (x : Word) (k : Nat) : Word := if 32 ≤ k then 0 else x >>> k
def sha32 (x : Word) (k : Nat) : Word := x.sshiftRight (min k 31)
def rol32 (x : Word) (k : Nat) : Word := x.rotateLeft (k % 32)

def execShlR (d a b : BitVec 6) (n : Ann) (s : State) : Outcome State Fault Refusal :=
  untyped (.shlR d a b n) s d fun g l => shl32 (g.v l a.toNat) (g.v l b.toNat).toNat

def execShrR (d a b : BitVec 6) (n : Ann) (s : State) : Outcome State Fault Refusal :=
  untyped (.shrR d a b n) s d fun g l => shr32 (g.v l a.toNat) (g.v l b.toNat).toNat

def execShaR (d a b : BitVec 6) (n : Ann) (s : State) : Outcome State Fault Refusal :=
  untyped (.shaR d a b n) s d fun g l => sha32 (g.v l a.toNat) (g.v l b.toNat).toNat

def execRolR (d a b : BitVec 6) (n : Ann) (s : State) : Outcome State Fault Refusal :=
  untyped (.rolR d a b n) s d fun g l => rol32 (g.v l a.toNat) (g.v l b.toNat).toNat

def execShlI (d a : BitVec 6) (i : BitVec 5) (n : Ann) (s : State) : Outcome State Fault Refusal :=
  untyped (.shlI d a i n) s d fun g l => shl32 (g.v l a.toNat) i.toNat

def execShrI (d a : BitVec 6) (i : BitVec 5) (n : Ann) (s : State) : Outcome State Fault Refusal :=
  untyped (.shrI d a i n) s d fun g l => shr32 (g.v l a.toNat) i.toNat

def execShaI (d a : BitVec 6) (i : BitVec 5) (n : Ann) (s : State) : Outcome State Fault Refusal :=
  untyped (.shaI d a i n) s d fun g l => sha32 (g.v l a.toNat) i.toNat

def execRolI (d a : BitVec 6) (i : BitVec 5) (n : Ann) (s : State) : Outcome State Fault Refusal :=
  untyped (.rolI d a i n) s d fun g l => rol32 (g.v l a.toNat) i.toNat

/-- FSH: right funnel shift of a pair (R250). -/
def execFsh (d a : BitVec 6) (i : BitVec 5) (n : Ann) (s : State) : Outcome State Fault Refusal :=
  untyped (.fsh d a i n) s d fun g l => BitVec.ofNat 32 (g.v2 l a.toNat / 2 ^ i.toNat)

/-- Set bits, leading zeros and reversal of a word (R249). -/
def popc32 (x : Word) : Nat := ((List.range 32).filter (flag x.toNat)).length
def clz32 (x : Word) : Nat := if x = 0 then 32 else 31 - x.toNat.log2
def brev32 (x : Word) : Word := BitVec.ofNat 32 (maskOf ((bitsSet 32 x.toNat).map fun j => 31 - j))

def execPopc (d a : BitVec 6) (n : Ann) (s : State) : Outcome State Fault Refusal :=
  untyped (.popc d a n) s d fun g l => BitVec.ofNat 32 (popc32 (g.v l a.toNat))

def execClz (d a : BitVec 6) (n : Ann) (s : State) : Outcome State Fault Refusal :=
  untyped (.clz d a n) s d fun g l => BitVec.ofNat 32 (clz32 (g.v l a.toNat))

def execBrev (d a : BitVec 6) (n : Ann) (s : State) : Outcome State Fault Refusal :=
  untyped (.brev d a n) s d fun g l => brev32 (g.v l a.toNat)

/-- BFX: a[pos+len−1:pos], zero-extended (R251). -/
def execBfx (d a : BitVec 6) (pos : BitVec 5) (len : BitVec 6) (n : Ann) (s : State) : Outcome State Fault Refusal :=
  untyped (.bfx d a pos len n) s d fun g l =>
    BitVec.ofNat 32 ((g.v l a.toNat).toNat / 2 ^ pos.toNat % 2 ^ len.toNat)

/-- BFI: a with bits [pos+len−1:pos] replaced by b[len−1:0] (R251). -/
def execBfi (d a b : BitVec 6) (pos : BitVec 5) (len : BitVec 6) (n : Ann) (s : State) : Outcome State Fault Refusal :=
  untyped (.bfi d a b pos len n) s d fun g l =>
    let m : Word := BitVec.ofNat 32 ((2 ^ len.toNat - 1) * 2 ^ pos.toNat)
    (g.v l a.toNat &&& ~~~m) ||| ((g.v l b.toNat <<< pos.toNat) &&& m)

/-- One result byte of BPERM by its selector nibble (R252). -/
def bpermByte (a : Word) (q : Nat) : Nat :=
  let byte := a.toNat / 2 ^ (8 * (q % 4)) % 256
  match q / 4 with
  | 0 => byte
  | 2 => if 128 ≤ byte then 255 else 0
  | _ => 0

def execBperm (d a b : BitVec 6) (n : Ann) (s : State) : Outcome State Fault Refusal :=
  untyped (.bperm d a b n) s d fun g l =>
    let x := g.v l a.toNat
    let q := (g.v l b.toNat).toNat
    BitVec.ofNat 32 (bpermByte x (q % 16) + 2 ^ 8 * bpermByte x (q / 16 % 16) + 2 ^ 16 * bpermByte x (q / 256 % 16)
      + 2 ^ 24 * bpermByte x (q / 4096 % 16))

def execSel (d a b : BitVec 6) (p : BitVec 3) (pn : BitVec 1) (n : Ann) (s : State) : Outcome State Fault Refusal :=
  untyped (.sel d a b p pn n) s d fun g l =>
    if g.p l p.toNat != (pn == 1) then g.v l a.toNat else g.v l b.toNat

/-- ICMP: a typed compare into a predicate (R253). -/
def execIcmp (d : BitVec 3) (a b : BitVec 6) (fn : BitVec 4) (n : Ann) (s : State) : Outcome State Fault Refusal :=
  issueG (.icmp d a b fn n) (intLegal s && pairsEven s [a, b]) s fun g =>
    g.eachLane g.actives fun l h => h.setP latInt l d.toNat (condInt fn.toNat (g.int l a) (g.int l b))

def execMov (d a : BitVec 6) (n : Ann) (s : State) : Outcome State Fault Refusal :=
  untyped (.mov d a n) s d fun g l => g.v l a.toNat

def execMovi (d i : BitVec 6) (n : Ann) (s : State) : Outcome State Fault Refusal :=
  untyped (.movi d i n) s d fun _ _ => i.signExtend 32

def execLit (d : BitVec 6) (x : Word) (n : Ann) (s : State) : Outcome State Fault Refusal :=
  untyped (.lit d x n) s d fun _ _ => x

def execMovs (d a : BitVec 6) (n : Ann) (s : State) : Outcome State Fault Refusal :=
  untyped (.movs d a n) s d fun g _ => g.sreg a.toNat

/-- MOVV: v[A] of one lane into s[D], whatever its split or guard; undefined when the lane is not live (R254). -/
def execMovv (d a i : BitVec 6) (n : Ann) (s : State) : Outcome State Fault Refusal :=
  issueG (.movv d a i n) (decide (i.toNat < s.g.width)) s fun g =>
    g.setS latInt d.toNat (if g.laneLive i.toNat then g.v i.toNat a.toNat
      else BitVec.ofNat 32 (Config.freeAt g.id g.tick i.toNat 1))

/-- Element types with a byte size for LEA (R255). -/
def leaLegal (et : Nat) : Bool := etBits et != 0

/-- LEA: A + SignExt(B) × z modulo 2^64 (R255). -/
def execLea (d a b : BitVec 6) (n : Ann) (s : State) : Outcome State Fault Refusal :=
  issueG (.lea d a b n) (leaLegal s.g.et) s fun g =>
    g.eachLane g.actives fun l h =>
      h.setV2 latInt l d.toNat
        (wrap 64 ((g.v2 l a.toNat : Int) + signExt (g.v l b.toNat).toNat 32 * (etBytes g.et : Int)))

end Sys2Proof.Machine
end

