-- ==== Sys2Proof/Machine/Control.lean ====
section
/-! DEFINITION. Control and mode (R235 to R246): special registers R53, branches R40, the register window R62, exit R241, waits, PHINT. -/

namespace Sys2Proof.Machine

open Host (Outcome)

def execNop (n : Ann) (s : State) : Outcome State Fault Refusal := issueG (.nop n) true s fun g => g

/-- YIELD: the frame sets the issuing split's ready age to zero (R235). -/
def execYield (n : Ann) (s : State) : Outcome State Fault Refusal := issueG (.yield n) true s fun g => g

/-- SETM: MODE[23:0] (R56). -/
def execSetm (i : BitVec 24) (s : State) : Outcome State Fault Refusal :=
  issueG (.setm i) true s fun g => { g with mode := BitVec.ofNat 32 (g.mode.toNat / 2 ^ 24 * 2 ^ 24 + i.toNat) }

/-- SETMH: MODE[31:24] (R56). -/
def execSetmh (i : BitVec 24) (s : State) : Outcome State Fault Refusal :=
  issueG (.setmh i) true s fun g => { g with mode := BitVec.ofNat 32 (i.toNat % 256 * 2 ^ 24 + g.mode.toNat % 2 ^ 24) }

def execGetm (d : BitVec 6) (n : Ann) (s : State) : Outcome State Fault Refusal :=
  issueG (.getm d n) true s fun g => g.setS latInt d.toNat g.mode

/-- The 32-bit special register numbered a, in lane i (R23, R34, R39, R48, R53, R54). A privileged group is no tile and no
member of a crew: what it reads of those is a free value (log entry 1). -/
def State.special (s : State) (g : Group) (a i : Nat) : Nat :=
  let l := g.lane i
  let tile := s.tileOf g
  let k := (tile.map Tile.idx).getD 0
  let shape := ((tile.bind s.treeOf).map fun tr => tr.level ((tile.map Tile.depth).getD 0 - 1)).getD
    ⟨0, 0, 1, 1, 0, 0, 1, 1, 1, 0, 0, 0, 0, 0, 0, 0, 0⟩
  let root := (tile.map fun t => t.depth == 0).getD true
  if g.tile.isNone && (a == 2 || a == 3 || (7 ≤ a && a ≤ 12)) then g.openSpecial a
  else if g.tile.isNone && a == 15 then g.openSpecial 2 % 16 * 2 ^ 8 + i else
  match a with
  | 0 => i
  | 1 => g.width
  | 2 => g.num
  | 3 => ((s.crew? g.crew).map Crew.num).getD 0
  | 4 => g.core % 128
  | 5 => g.core / 128
  | 6 => g.pkg
  | 7 => (tile.map Tile.dom).getD 0
  | 8 => (tile.map Tile.depth).getD 0
  | 9 => k
  | 10 => if root then 0 else k % shape.shape0
  | 11 => if root then 0 else k / shape.shape0 % shape.shape1
  | 12 => if root then 0 else k / (shape.shape0 * shape.shape1)
  | 14 => l.lfsr.toNat
  | 15 => l.origin.toNat
  | 16 => g.parks.length * 2 ^ 5 + g.splits.length * 2 ^ 2 + g.cur
  | _ => g.alloc * 2 ^ 24 + l.mark * 2 ^ 12 + l.wb / 8

def execGets (d a : BitVec 6) (n : Ann) (s : State) : Outcome State Fault Refusal :=
  issueG (.gets d a n) true s fun g =>
    g.eachLane g.actives fun l h =>
      if a = 13 then h.setV2 latInt l d.toNat s.time
      else h.setV latInt l d.toNat (BitVec.ofNat 32 (s.special g a.toNat l))

/-! ### Branches (R40, R43) -/

/-- Lanes with their next PCs, taken together by PC in order of their lowest lane: (PC, mask). -/
def setsByPc : List (Nat × Nat) → List (Nat × Nat)
  | [] => []
  | (i, pc) :: t =>
    let r := setsByPc t
    let m := ((r.find? fun q => q.1 == pc).map Prod.snd).getD 0
    (pc, m ||| 2 ^ i) :: r.filter fun q => q.1 != pc

/-- The issuing split keeps one lane set; the others become splits or park records, none beyond 12 records. -/
def Group.divide (g : Group) (sets : List (Nat × Nat)) : Option Group :=
  match sets with
  | [] => some g
  | (pc, m) :: new =>
    if 12 < g.parks.length + (new.length - (4 - g.splits.length)) then none
    else some ((g.modSplit g.cur fun p => { p with pc := pc, mask := m, wait := .none }).addSets new)

/-- The lane sets of BRA and CALL: the taken lanes stay, the rest falls through; one set when their next PCs agree. -/
def Group.setsTaken (g : Group) (taken : List Nat) (target len : Nat) : List (Nat × Nat) :=
  let t := maskOf taken
  let rest := maskOf (g.lanesIn.filter fun i => !taken.contains i)
  let fall := (g.pc + len) % 2 ^ 64
  if t = 0 ∨ target = fall then [(fall, t ||| rest)] else if rest = 0 then [(target, t)] else [(target, t), (fall, rest)]

/-- The lane sets of BRX, CALLX and RET: each active lane to its own target. -/
def Group.setsEach (g : Group) (len : Nat) (target : Nat → Nat) : List (Nat × Nat) :=
  setsByPc (g.lanesIn.map fun i => (i, if g.active i then target i else (g.pc + len) % 2 ^ 64))

/-- A branch of the group (R40, R43): SPLIT_OVF when a thirteenth park record would be needed. -/
def branch (s : State) (g : Group) (sets : List (Nat × Nat)) : Res :=
  match g.divide sets with
  | none => .trap 0x04 0 s.g.lowLane
  | some g => .jump { s with g := g }

def execBraJ (o : BitVec 20) (st : BitVec 4) (s : State) : Outcome State Fault Refusal :=
  issue (.braJ o st) true s fun s =>
    branch s s.g (s.g.setsTaken s.g.actives (wrap 64 ((s.g.pc : Int) + 4 * signExt o.toNat 20)) 4)

def execBraL (pn : BitVec 1) (p : BitVec 3) (off : Word) (n : Ann) (s : State) : Outcome State Fault Refusal :=
  issue (.braL pn p off n) true s fun s =>
    branch s s.g (s.g.setsTaken (s.g.actives.filter fun i => s.g.p i p.toNat != (pn == 1))
      (wrap 64 ((s.g.pc : Int) + 4 * signExt off.toNat 32)) 8)

/-- The lowest active lane whose target is no multiple of 4 (R216, R239). -/
def Group.misaligned (g : Group) (target : Nat → Nat) : Option Nat := g.actives.find? fun i => target i % 4 != 0

def execBrx (a : BitVec 6) (n : Ann) (s : State) : Outcome State Fault Refusal :=
  issue (.brx a n) true s fun s =>
    let g := s.g
    let target := fun i => g.v2 i a.toNat
    match g.misaligned target with
    | some i => .trap 0x05 0 i
    | none => branch s g (g.setsEach 4 target)

/-! ### The register window (R61 to R63, R240) -/

def Lane.needSpill (l : Lane) (alloc : Nat) : Bool := decide (8 * l.mark + 64 * alloc < l.wb + 64)
def Lane.needFill (l : Lane) : Bool := decide (l.wb < 8 * l.mark)

/-- The window checks of R63 after a move of some lanes: the move stands and the group waits for the service, or, in a
privileged group, a slot fault (R362). -/
def windowCheck (s : State) (ls : List Nat) (r : Res) : Res :=
  match r with
  | .jump t =>
    let spill := ls.any fun i => (t.g.lane i).needSpill t.g.alloc
    let fill := ls.any fun i => (t.g.lane i).needFill
    if (spill || fill) && t.g.priv then .trap (if spill then 0x10 else 0x11) 0 s.g.lowLane
    else if spill || fill then
      .jump { t with g := t.g.modSplit t.g.cur fun p => { p with wait := if spill then .spill else .fill, since := t.time } }
    else r
  | _ => r

/-- The window of the calling lanes moves up by k; v63:v62 take the return address. -/
def Group.callLanes (g : Group) (ls : List Nat) (k ra : Nat) : Group :=
  g.eachLane ls fun l h => (h.modLane l fun x => { x with wb := x.wb + k }).setV2 latInt l 62 ra

def execCall (k : BitVec 6) (off : Word) (n : Ann) (s : State) : Outcome State Fault Refusal :=
  issue (.call k off n) true s fun s =>
    let g := s.g
    let ls := g.actives
    windowCheck s ls (branch s (g.callLanes ls (8 * k.toNat) ((g.pc + 8) % 2 ^ 64))
      (g.setsTaken ls (wrap 64 ((g.pc : Int) + 4 * signExt off.toNat 32)) 8))

def execCallx (d a : BitVec 6) (n : Ann) (s : State) : Outcome State Fault Refusal :=
  issue (.callx d a n) true s fun s =>
    let g := s.g
    let ls := g.actives
    let target := fun i => g.v2 i a.toNat
    match g.misaligned target with
    | some i => .trap 0x05 0 i
    | none => windowCheck s ls (branch s (g.callLanes ls (8 * d.toNat) ((g.pc + 4) % 2 ^ 64)) (g.setsEach 4 target))

/-- RET: ILLEGAL when a window would fall below 0, checked in every active lane first (R240). -/
def execRet (d : BitVec 6) (n : Ann) (s : State) : Outcome State Fault Refusal :=
  issue (.ret d n) true s fun s =>
    let g := s.g
    let ls := g.actives
    let target := fun i => g.v2 i 62
    match ls.find? fun i => decide ((g.lane i).wb < 8 * d.toNat) with
    | some i => .trap 0x01 0 i
    | none =>
      match g.misaligned target with
      | some i => .trap 0x05 0 i
      | none =>
        let h := g.eachLane ls fun l h => h.modLane l fun x => { x with wb := x.wb - 8 * d.toNat }
        windowCheck s ls (branch s h (g.setsEach 4 target))

/-! ### Waits that end -/

/-- A waiting split completes its instruction: the next PC, ready (R49). A stopped group's recorded PC follows (R371, R401). -/
def Group.wake (g : Group) (idx : Nat) : Group :=
  let g := g.modSplit idx fun p => { p with pc := (p.pc + 4) % 2 ^ 64, wait := .none, age := 0 }
  { g with stop := g.stop.map fun r => { r with pc := g.nextPc } }

/-- A waiting split becomes ready at its instruction, to issue it again. -/
def Group.rewake (g : Group) (idx : Nat) : Group := g.modSplit idx fun p => { p with wait := .none, age := 0 }

/-- A group takes a trap at one of its splits while another group may be in focus (R400, R401). -/
def State.trapAt (s : State) (gid idx code arg : Nat) : State :=
  let home := s.g.id
  let t := s.focus gid
  let old := t.g.cur
  let t := { t with g := { t.g with cur := idx } }
  let t := t.takeTrap code arg t.g.lowLane
  ({ t with g := { t.g with cur := old } }).focus home

/-! ### Extents at the end of a crew (R172) -/

/-- Engine names: kind (1 to 4 copies, 5 matrix, 6 cellar, 7 fabric, 8 streams), package and unit. -/
def engineId (kind pkg unit : Nat) : Nat := kind * 2 ^ 40 + pkg * 2 ^ 20 + unit

/-- The key of a cellar directory entry (R170). -/
def State.celDir (s : State) (pkg ctx key : Nat) : Nat := keyPkg pkg (s.ctxField pkg ctx 0x20 8 + 16 * key)

/-- A CELFREE of the extent at a head region is under way. -/
def State.celFreeing (s : State) (pkg core head : Nat) : Bool :=
  s.cmds.any fun c => c.pkg == pkg && c.core == core && match c.kind with
    | .celfree h _ => h == head
    | _ => false

/-- Freeing or eviction of an extent is accepted: its directory entry, RESIDENT here, goes BUSY (R172, R173). -/
def State.celFreeStart (s : State) (e : Extent) (gid crew : Nat) (reply : Option Nat) (evict : Bool) : State :=
  let c : Cmd :=
    { id := s.next, engine := engineId 6 e.pkg e.core, pkg := e.pkg, core := e.core, gid := gid, num := 0, pc := 0, crew := crew, tile := none,
      ctx := e.ctx, bar := none, reply := reply, time := s.time, sent := true, batch := 0, src := [], dst := [], hnds := [],
      kind := .celfree e.head evict }
  let s := { s with cmds := s.cmds ++ [c], next := s.next + 1 }
  let k := s.celDir e.pkg e.ctx e.key
  if s.num k 1 = 1 ∧ s.num (k + 2) 2 = e.core then s.setNum k 1 3 else s

/-- The unpinned extents tied to a crew that has ended are freed (R172). -/
def State.freeExtents (s : State) (crew : Nat) : State :=
  (s.exts.filter fun e => e.crew == crew && !e.pin).foldl (fun (s : State) e =>
    if s.celFreeing e.pkg e.core e.head then s else s.celFreeStart e 0 0 none false) s

/-! ### Exit (R42, R241, R47, R186) -/

/-- A group waiting at REGROUP fails: true in its predicate destination, and it goes on (R47). -/
def Group.failRegroup (g : Group) (pd : Nat) : Group :=
  let g := g.eachLane (bitsSet g.width g.live) fun l h => h.setP 0 l pd true
  { g with splits := g.splits.map fun p => { p with pc := (p.pc + 4) % 2 ^ 64, wait := .none, age := 0 } }

/-- The partner and predicate of a group that waits at REGROUP. -/
def Group.regroupWait (g : Group) : Option (Nat × Nat × Nat) :=
  g.splits.findSome? fun p => match p.wait with
    | .regroup partner bm pd => some (partner, bm, pd)
    | _ => none

/-- Splits parked on a port re-evaluate it (R187). -/
def Group.unpark (g : Group) : Group :=
  { g with splits := g.splits.map fun p => match p.wait with
      | .port q true => { p with wait := .port q false }
      | _ => p }

/-- The deadlock timer of a set of groups restarts: those that wait on a port do so from now (R188). -/
def State.restartPorts (s : State) (ids : List Nat) : State :=
  s.mapGroups fun g =>
    if !ids.contains g.id then g else
    { g with splits := g.splits.map fun p => match p.wait with
        | .port _ _ => { p with since := s.time }
        | .plink _ _ _ => { p with since := s.time }
        | _ => p }

/-- Every link binding of a group ends at both ends (R180, R186); what waited on one of them looks again. -/
def State.unbind (s : State) (gid : Nat) : State :=
  let set := s.bindSet gid
  (s.mapGroups fun g =>
    if g.id = gid then { g with links := [] }
    else if g.links.any fun l => l.partner == gid then
      ({ g with links := g.links.filter fun l => l.partner != gid }).unpark
    else g).restartPorts set

/-- A value that the group pushed over a link has not landed in its partner's queue. -/
def State.pushing (s : State) (gid : Nat) : Bool :=
  s.allGroups.any fun h => h.links.any fun l => l.partner == gid &&
    h.linkq.any fun q => q.port == l.port && q.vals.any fun v => !v.landed

/-- The bindings of a group that has exited end once every value it pushed has landed (R359). -/
def State.unbindExited (s : State) (gid : Nat) : State :=
  match s.group? gid with
  | some g => if g.live = 0 ∧ !g.links.isEmpty ∧ !s.pushing gid then s.unbind gid else s
  | none => s

/-- No group of the crew has a live lane (R24). -/
def State.crewGone (s : State) (crew : Nat) : Bool := (s.groupsOf crew).all fun g => g.live == 0

/-- Every store queue of the crew is empty. -/
def State.crewDrained (s : State) (crew : Nat) : Bool := (s.groupsOf crew).all fun g => g.sq.isEmpty

/-- A crew whose groups have all exited and whose store queues are empty reports a guard record it still holds, as an
imprecise GUARD fault (R115, R405). -/
def State.guardAtExit (s : State) (crew : Nat) : State :=
  match s.crew? crew with
  | none => s
  | some c =>
    match c.guard, s.crewGone crew && s.crewDrained crew with
    | some r, true =>
      let tr := (c.tile.bind s.tile?).bind s.treeOf
      let gid := (((s.groupsOf crew).find? fun g => g.num == r.group).map Group.id).getD 0
      { (s.modCrew crew fun c => { c with guard := none }) with
        imprecise := s.imprecise ++
          [{ kind := 3, code := 0x07, pkg := c.pkg, core := c.core, crewId := crew, crew := c.num, gid := gid,
             group := r.group, ctx := c.ctx, lgen := c.lgen, pc := r.pc,
             addr := 15 * 2 ^ 60 + r.level * 2 ^ 57 + r.offset, target := 0,
             queue := (tr.map Tree.queue).getD 0, tag := (tr.map Tree.tag).getD 0 }] }
    | _, _ => s

/-- The last live lane of a group has exited (R241): results and replies are discarded, input queues are discarded, bindings end
once what it pushed has landed (R359), a partner waiting at REGROUP fails. Its store queue drains on and its commands run on. -/
def State.groupExit (s : State) (gid : Nat) : State :=
  match s.group? gid with
  | none => s
  | some g =>
    let s := (s.modGroup gid fun g =>
      { g with splits := [], parks := [], sb := [], linkq := [], arr := none,
               lanes := g.lanes.map fun l => { l with inP := [], inM := [] } }).unbindExited gid
    let s := { s with cmds := s.cmds.map fun (c : Cmd) => if c.gid = gid then { c with reply := none } else c }
    let s := s.mapGroups fun h =>
      match h.regroupWait with
      | some (partner, _, pd) => if h.crew = g.crew ∧ !h.priv ∧ partner = g.num then h.failRegroup pd else h
      | none => h
    if g.priv then s
    else
      let s := if s.crewGone g.crew then s.freeExtents g.crew else s
      s.guardAtExit g.crew

/-- EXIT: each active lane leaves its split (R42, R241). -/
def execExit (n : Ann) (s : State) : Outcome State Fault Refusal :=
  issue (.exit n) true s fun s =>
    let g := s.g
    let rest := maskOf (g.lanesIn.filter fun i => !g.active i)
    let h := (g.modSplit g.cur fun p => { p with pc := (p.pc + 4) % 2 ^ 64, mask := rest, wait := .none }).tidy
    if h.live = 0 then .jump ({ s with g := h }.groupExit g.id)
    else .jump (({ s with g := h.unpark }.mapGroups fun q => if q.links.any fun l => l.partner == g.id then q.unpark else q).restartPorts (s.bindSet g.id))

/-! ### Traps, waits, PHINT -/

def execTrap (i : BitVec 6) (n : Ann) (s : State) : Outcome State Fault Refusal :=
  issue (.trap i n) true s fun s =>
    match s.g.actives with
    | [] => .done s
    | l :: _ => .trap 0x0C i.toNat l

def execBrk (i : BitVec 6) (n : Ann) (s : State) : Outcome State Fault Refusal :=
  issue (.brk i n) true s fun s =>
    match s.g.actives with
    | [] => .done s
    | l :: _ => .trap 0x0D i.toNat l

/-- The scoreboarded results that a WAIT names are pending in some lane (R243). -/
def Group.pendingAt (g : Group) (file a : Nat) : Bool :=
  g.sb.any fun e => e.writes.any fun tw =>
    match file, tw.1 with
    | 0, .v i pos => pos == (g.lane i).wb + a
    | 1, .s k => k == a
    | 2, .p _ k => k == a
    | _, _ => false

def execWait (file : BitVec 2) (a : BitVec 6) (n : Ann) (s : State) : Outcome State Fault Refusal :=
  issue (.wait file a n) true s fun s =>
    let awaited := s.g.awaitedReplies
    if (if file.toNat = 3 then !s.g.sb.isEmpty || !awaited.isEmpty
        else s.g.pendingAt file.toNat a.toNat || (file.toNat == 1 && awaited.contains a.toNat)) then .hold else .done s

def execSleep (a : BitVec 6) (n : Ann) (s : State) : Outcome State Fault Refusal :=
  issue (.sleep a n) true s fun s =>
    let t := s.g.s2 a.toNat
    if t ≤ s.time then .done s else .wait s (.sleep t)

/-- PHINT: with a request pending for the crew and the group convergent, the group stops after it (R246, R412). -/
def execPhint (r0 r1 : BitVec 6) (lo hi : Word) (n : Ann) (s : State) : Outcome State Fault Refusal :=
  issue (.phint r0 r1 lo hi n) true s fun s =>
    let g := s.g
    match s.crew? g.crew with
    | none => .done s
    | some c =>
      if flag (s.core g.pkg g.core).preq c.num && !g.priv && g.splits.length == 1 && g.parks.isEmpty then
        let skid := match g.haltLeft with
          | some k => 8 - k
          | none => 0
        .done { s with g := { g with
          stop := some ⟨(g.pc + 12) % 2 ^ 64, skid, 0, pairNat lo hi, (g.sreg r0.toNat).toNat, (g.sreg r1.toNat).toNat⟩
          haltLeft := none } }
      else .done s

end Sys2Proof.Machine
end

