-- ==== Sys2Proof/Machine/Narrow.lean ====
section
/-! DEFINITION. Narrow formats (R91 to R95), planes (R96 to R98), block scales (R99 to R101), chunk sums (R103, R104) and compensated accumulation (R105, R106). -/

namespace Sys2Proof.Machine

/-- The fields of a valid f-code (R91). -/
structure FCode where
  w : Nat
  e : Nat
  s : Bool
  sp : Nat
  sub : Bool
  bias : Int
  m : Nat
  deriving DecidableEq, Repr

/-- An f-code word, when it is valid by R92; in REDUCED service every W below 8 is invalid (R430). -/
def FCode.parse (reduced : Bool) (x : Nat) : Option FCode :=
  let w := field x 3 0
  let e := field x 7 4
  let s := flag x 8
  let sp := field x 10 9
  let sub := flag x 11
  let sn := if s then 1 else 0
  let ok := x / 2 ^ 20 == 0 && decide (1 ≤ w) && decide (w ≤ 8) && decide (e ≤ 7) && decide (sn + e ≤ w)
    && decide (1 ≤ w - sn) && !(sub && e == 0) && !(sp == 3 && (e != 0 || !s))
    && !(sp == 2 && (e == 0 || w - sn - e == 0)) && !(reduced && decide (w < 8))
  if ok then some ⟨w, e, s, sp, sub, signExt (field x 19 12) 8, w - sn - e⟩ else none

namespace FCode

/-- Magnitude bits of a code: W − S. -/
def magBits (f : FCode) : Nat := if f.s then f.w - 1 else f.w

/-- m × 2^e of a magnitude code of a sign-magnitude format (R93). -/
def magVal (f : FCode) (c : Nat) : Nat × Int :=
  let e := c / 2 ^ f.m
  let m := c % 2 ^ f.m
  if f.e == 0 then (m, -f.bias)
  else if 1 ≤ e then (2 ^ f.m + m, (e : Int) - f.bias - f.m)
  else if f.sub then (m, 1 - f.bias - f.m)
  else if m == 0 then (0, 0)
  else (2 ^ f.m + m, -f.bias - f.m)

/-- The top exponent field. -/
def eTop (f : FCode) : Nat := 2 ^ f.e - 1

/-- Magnitude code that is NaN (R94). -/
def isNanMag (f : FCode) (c : Nat) : Bool :=
  if f.sp == 1 then c == 2 ^ f.magBits - 1
  else if f.sp == 2 then c / 2 ^ f.m == f.eTop && c % 2 ^ f.m != 0
  else false

/-- Magnitude code that is infinite (R94). -/
def isInfMag (f : FCode) (c : Nat) : Bool := f.sp == 2 && (c / 2 ^ f.m == f.eTop && c % 2 ^ f.m == 0)

/-- Magnitude code of max, the largest finite one (R94). -/
def maxMag (f : FCode) : Nat :=
  if f.sp == 1 then 2 ^ f.magBits - 2
  else if f.sp == 2 then f.eTop * 2 ^ f.m - 1
  else 2 ^ f.magBits - 1

/-- The exact value of a code of W bits (R93, R94). -/
def decode (f : FCode) (code : Nat) : XR :=
  if f.sp == 3 then
    let v := signExt code f.w
    .fin (decide (v < 0)) v.natAbs (-f.bias)
  else
    let neg := f.s && flag code (f.w - 1)
    let c := code % 2 ^ f.magBits
    if f.isNanMag c then .nan
    else if f.isInfMag c then .inf neg
    else .fin neg (f.magVal c).1 (f.magVal c).2

/-- The canonical NaN, or the code of +0 where the policy has none (R94, R95 step 3). -/
def nanCode (f : FCode) : Nat :=
  if f.sp == 1 then 2 ^ f.magBits - 1
  else if f.sp == 2 then f.eTop * 2 ^ f.m + 2 ^ (f.m - 1)
  else 0

def infCode (f : FCode) : Nat := f.eTop * 2 ^ f.m

/-- The sign bit of a negative code. -/
def sgn (f : FCode) (neg : Bool) : Nat := if neg && f.s then 2 ^ (f.w - 1) else 0

/-- Exponent of the spacing of max's binade, at which the grid extends beyond max (R95 step 1). -/
def topSpacing (f : FCode) : Int :=
  let e := f.maxMag / 2 ^ f.m
  if f.e == 0 then -f.bias
  else if e == 0 then (if f.sub then 1 - f.bias - f.m else -f.bias - f.m)
  else (e : Int) - f.bias - f.m

/-- a × 2^ea ≤ num/den. -/
def leRat (a : Nat) (ea : Int) (num den : Nat) : Bool :=
  let (x, y) := scaleRat a 1 ea
  decide (x * den ≤ num * y)

/-- The greatest finite magnitude code, below `n`, whose value is at most num/den; code 0 is always taken. -/
def floorCode (f : FCode) (num den : Nat) : Nat → Nat
  | 0 => 0
  | c + 1 => if leRat (f.magVal (c + 1)).1 (f.magVal (c + 1)).2 num den then c + 1 else floorCode f num den c

/-- (num/den − a × 2^ea) / (b × 2^eb) as 32 fraction bits and whether that is exact. -/
def fracBits (num den : Nat) (a : Nat) (ea : Int) (b : Nat) (eb : Int) : Nat × Bool :=
  let (an, ad) := scaleRat a 1 ea
  let (bn, bd) := scaleRat b 1 eb
  let n := (num * ad - an * den) * bd * 2 ^ 32
  let d := den * ad * bn
  (n / d, n % d == 0)

/-- Rounding of a magnitude num/den on the finite values, the grid extended beyond max (R95 step 1): the extended code. -/
def roundMagCode (f : FCode) (rm : RM) (r : Nat) (neg : Bool) (num den : Nat) : Nat :=
  let mx := f.maxMag
  let lo := floorCode f num den mx
  if lo < mx then
    let (a, ea) := f.magVal lo
    let (b, eb) := f.magVal (lo + 1)
    let e := min ea eb
    let u := b * 2 ^ (eb - e).toNat - a * 2 ^ (ea - e).toNat
    let (t, exact) := fracBits num den a ea u e
    if roundUp rm neg (lo % 2 == 1) t exact r then lo + 1 else lo
  else
    let (a, ea) := f.magVal mx
    let (t, exact) := fracBits num den a ea 1 f.topSpacing
    let c := mx + t / 2 ^ 32
    if roundUp rm neg (c % 2 == 1) (t % 2 ^ 32) exact r then c + 1 else c

/-- Round(x, NF, rm) for a ratio (R95 steps 1, 2 and 4). -/
def roundRat (f : FCode) (rm : RM) (satM : Bool) (r : Nat) (neg : Bool) (num den : Nat) : Rounded :=
  if f.sp == 3 then
    let (a, b) := scaleRat num den f.bias
    let q := (Mag.rat a b).roundTo 0 rm neg r
    let v : Int := if neg then -(q : Int) else q
    let c := clampInt true f.w v
    ⟨wrap f.w c, c != v, c != v⟩
  else
    let c := if num == 0 then 0 else f.roundMagCode rm r neg num den
    if c ≤ f.maxMag then
      (if neg && !f.s then ⟨0, false, false⟩ else ⟨f.sgn neg + c, false, false⟩)
    else if neg && !f.s then ⟨0, true, false⟩
    else if satM || f.sp == 0 then ⟨f.sgn neg + f.maxMag, true, true⟩
    else
      let toMax := match rm with
        | .rz => true
        | .rd => !neg
        | .ru => neg
        | _ => false
      if toMax then ⟨f.sgn neg + f.maxMag, true, false⟩
      else if f.sp == 2 then ⟨f.sgn neg + f.infCode, true, false⟩
      else ⟨f.nanCode, true, false⟩

/-- Round(x, NF, rm) of an extended real (R95). -/
def round (f : FCode) (rm : RM) (satM : Bool) (r : Nat) : XR → Rounded
  | .nan => ⟨f.nanCode, false, false⟩
  | .inf neg =>
    if neg && !f.s then ⟨0, false, false⟩
    else if f.sp == 2 then ⟨f.sgn neg + f.infCode, false, false⟩
    else if f.sp == 1 then
      (if satM then ⟨f.sgn neg + f.maxMag, false, true⟩ else ⟨f.nanCode, false, false⟩)
    else if f.sp == 3 then ⟨if neg then 2 ^ (f.w - 1) else 2 ^ (f.w - 1) - 1, false, true⟩
    else ⟨f.sgn neg + f.maxMag, false, true⟩
  | .fin neg m e => let (n, d) := scaleRat m 1 e; f.roundRat rm satM r neg n d

/-- Widths of the planes of an element of W bits, high to low (R96). -/
def planes (w : Nat) : List Nat :=
  match w with
  | 8 => [8] | 7 => [4, 2, 1] | 6 => [4, 2] | 5 => [4, 1] | 4 => [4] | 3 => [2, 1] | 2 => [2] | _ => [1]

/-- The lowest code bit of plane p of an element of W bits (R96). -/
def planeLow (w p : Nat) : Nat := ((planes w).drop (p + 1)).foldl (· + ·) 0

/-- The bits of plane p of a code. -/
def planeBits (w p code : Nat) : Nat := code / 2 ^ planeLow w p % 2 ^ ((planes w).getD p 0)

/-- A code joined from its planes' bits, high plane first (R98). -/
def joinPlanes (w : Nat) (bs : List Nat) : Nat :=
  ((planes w).zip bs).foldl (fun c pb => c * 2 ^ pb.1 + pb.2 % 2 ^ pb.1) 0

end FCode

/-- A scale descriptor (R99): block length and format; none when invalid against K. -/
structure Scale where
  sf : Nat
  len : Nat
  deriving DecidableEq, Repr

def Scale.parse (x k : Nat) : Option Scale :=
  let sf := field x 1 0
  let bl := field x 4 2
  if x / 32 != 0 then none
  else if sf == 0 then some ⟨0, 1⟩
  else if 4 < bl || k < 8 * 2 ^ bl then none
  else some ⟨sf, 8 * 2 ^ bl⟩

/-- Bytes of one scale (R100). -/
def Scale.bytes (s : Scale) : Nat := if s.sf == 3 then 2 else 1

/-- The exact value of a scale code (R100). -/
def Scale.value (sf c : Nat) : XR :=
  match sf with
  | 1 => if c == 255 then .nan else .fin false 1 ((c : Int) - 127)
  | 2 =>
    if 127 ≤ c then .nan
    else if c / 8 == 0 then .fin false (c % 8) (-9)
    else .fin false (8 + c % 8) ((c / 8 : Nat) - 10)
  | 3 => bf16.decode c
  | _ => .fin false 1 0

/-- Flags a summation gathers: NaN, infinity or overflow, saturation (R104, R167). -/
structure SumFlags where
  nan : Bool := false
  inf : Bool := false
  sat : Bool := false
  deriving DecidableEq, Repr

def SumFlags.or (a b : SumFlags) : SumFlags := ⟨a.nan || b.nan, a.inf || b.inf, a.sat || b.sat⟩

/-- The exact sum of a chunk of products: NaN on a NaN or on infinities of both signs; −0 only when every product is −0 (R104). -/
def chunkTotal (ps : List XR) : XR :=
  match ps with
  | [] => XR.zero false
  | p :: t => t.foldl XR.add p

/-- One chunk of R103 added to acc, with R104's special values. -/
def chunkStep (satM : Bool) (acc : Word) (ps : List XR) : Word × SumFlags :=
  let a := x32 acc
  let t := chunkTotal ps
  match XR.add a t with
  | .nan => (BitVec.ofNat 32 f32.nanCode, { nan := true })
  | .inf s =>
    if satM && !a.isInf then (BitVec.ofNat 32 (f32.sgn s + f32.infCode - 1), { sat := true })
    else (BitVec.ofNat 32 (f32.sgn s + f32.infCode), { inf := true })
  | x =>
    let r := f32.round .rne satM 0 x
    (BitVec.ofNat 32 r.code, { inf := r.ovf && !satM, sat := r.sat })

/-- A list cut into chunks of n, by fuel. -/
def chunks {α : Type} (n : Nat) : Nat → List α → List (List α)
  | 0, _ => []
  | _, [] => []
  | k + 1, l => l.take n :: chunks n k (l.drop n)

/-- The R103 sum of a list of exact products in ascending chunks of c, from acc. -/
def chunkSum (satM : Bool) (c : Nat) (acc : Word) (ps : List XR) : Word × SumFlags :=
  (chunks c ps.length ps).foldl
    (fun (a : Word × SumFlags) ch => let (w, f) := chunkStep satM a.1 ch; (w, a.2.or f)) (acc, {})

/-- One term added into a compensated pair (R105, R106). -/
def compAdd (hi lo : Word) (p : XR) : Word × Word :=
  let h := x32 hi
  let l := x32 lo
  let cn : Word := BitVec.ofNat 32 f32.nanCode
  if p.isNan || h.isNan || l.isNan then (cn, cn) else
  if p.isZero && p.neg? && !h.isInf then (hi, lo) else
  let phi := ne32 p
  let xphi := x32 phi
  let plo := if xphi.isInf then XR.zero false else x32 (ne32 (p.sub xphi))
  let s := ne32 (h.add xphi)
  let xs := x32 s
  if xs.isNan then (cn, cn)
  else if xs.isInf then (s, 0)
  else
    let e := (h.add xphi).sub xs
    (s, ne32 ((x32 (ne32 (l.add e))).add plo))

/-- The flags of adding a term into a compensated pair: NaN, an infinite hi, or a finite rounding that overflows (R104, R106, R167). -/
def compFlags (hi lo : Word) (p : XR) : SumFlags :=
  let h := x32 hi
  let finite := fun (x : XR) => !x.isNan && !x.isInf
  let ovf := fun (x : XR) => finite x && (x32 (ne32 x)).isInf
  let r := compAdd hi lo p
  let s := h.add (x32 (ne32 p))
  let e := if finite s then s.sub (x32 (ne32 s)) else XR.zero false
  { nan := (x32 r.1).isNan
    inf := ovf p || (x32 r.1).isInf ||
      (finite h && finite (x32 lo) && (ovf s || (!(x32 (ne32 s)).isInf && (ovf ((x32 lo).add e) || (x32 r.2).isInf)))) }

/-- The value of a part: RoundNE32(Exact(hi) + Exact(lo)) (R105). -/
def compRead (hi lo : Word) : Word := ne32 ((x32 hi).add (x32 lo))

/-- One k of a complex accumulation (R105): (hiR, loR, hiI, loI) with a × b added. -/
def compMac (acc : Word × Word × Word × Word) (ar ai br bi : XR) : Word × Word × Word × Word :=
  let (hr, lr, hi, li) := acc
  let (hr, lr) := compAdd hr lr (ar.mul br)
  let (hr, lr) := compAdd hr lr (ai.mul bi).neg
  let (hi, li) := compAdd hi li (ar.mul bi)
  let (hi, li) := compAdd hi li (ai.mul br)
  (hr, lr, hi, li)

end Sys2Proof.Machine
end

