-- ==== Sys2Proof/Machine/Layout.lean ====
section
/-! DEFINITION. Layout records: fields R116, places of elements R117, R118, versions R119, validation R121, elements read and written through a handle R123, guard bytes R114. -/

namespace Sys2Proof.Machine

/-- The package's service is REDUCED (R430). -/
def State.reduced (s : State) (pkg : Nat) : Bool := (s.pkg pkg).service == 1

/-- A layout record by its fields (R116). -/
structure Layout where
  region : Nat
  et : Nat
  xd : Nat
  xw : Nat
  nver : Nat
  ndim : Nat
  loc : Nat
  fmt : Nat
  pad : Nat
  base : Nat
  vstride : Nat
  ploff : List Nat
  size : List Nat
  stride : List Nat
  deriving DecidableEq, Repr

def Layout.ofBytes (b : List Byte) : Layout where
  region := leField b 0 2
  et := field (leField b 2 2) 15 11
  xd := field (leField b 2 2) 10 8
  xw := field (leField b 2 2) 7 5
  nver := field (leField b 2 2) 4 3 + 1
  ndim := field (leField b 2 2) 2 0
  loc := field (leField b 4 4) 22 20
  fmt := field (leField b 4 4) 19 0
  pad := leField b 8 4
  base := leField b 0x0C 4
  vstride := leField b 0x10 4
  ploff := [0, leField b 0x14 4, leField b 0x18 4]
  size := (List.range 5).map fun j => leField b (0x1C + 4 * j) 4
  stride := 1 :: (List.range 4).map fun j => leField b (0x30 + 4 * j) 4

/-- The f-code of an NF layout, valid in any service it was made in (R92, R121). -/
def Layout.fcode (l : Layout) : FCode := (FCode.parse false l.fmt).getD ⟨8, 0, false, 0, false, 0, 8⟩

/-- Bits of an element: of its code when NF. -/
def Layout.bits (l : Layout) : Nat := if l.et = 16 then l.fcode.w else etBits l.et

/-- Widths of the element's parts in memory: the planes of NF, else one part of its bytes (R96, R117). -/
def Layout.parts (l : Layout) : List Nat := if l.et = 16 then FCode.planes l.fcode.w else [etBits l.et]

/-- The pad element's code (R116). -/
def Layout.padCode (l : Layout) : Nat :=
  if l.et = 15 then (f64.round .rne false 0 (f32.decode l.pad)).code
  else if l.et = 16 then l.pad % 2 ^ l.fcode.w
  else l.pad % 2 ^ etBits l.et

/-- The linear position of coordinates (R117). -/
def Layout.lin (l : Layout) (cs : List Nat) : Nat :=
  ((cs.zip l.stride).take l.ndim).foldl (fun a ct => a + ct.1 * ct.2) 0

/-- Coordinates inside the extents (R123). -/
def Layout.inside (l : Layout) (cs : List Int) : Bool :=
  ((cs.zip l.size).take l.ndim).all fun cz => decide (0 ≤ cz.1) && decide (cz.1 < (cz.2 : Int))

/-- The interleave of R118 on a byte offset within a version and plane. -/
def Layout.weave (l : Layout) (cs : List Nat) (o : Nat) : Nat :=
  if l.xw = 0 then o else o ^^^ ((cs.getD l.xd 0 % 2 ^ l.xw) * 16)

/-- The start of plane p of version v (R117). -/
def Layout.start (l : Layout) (v p : Nat) : Nat := 256 * (l.base + v * l.vstride + l.ploff.getD p 0)

/-- One part of an element: byte offset, low bit in that byte, bits taken there, low bit in the element's code. -/
structure Part where
  off : Nat
  shift : Nat
  bits : Nat
  low : Nat
  deriving DecidableEq, Repr

/-- The parts of the element at coordinates, in version v, by bytes (R97, R117, R118). -/
def Layout.element (l : Layout) (v : Nat) (cs : List Nat) : List Part :=
  let n := l.lin cs
  if l.et = 16 then
    let ws := FCode.planes l.fcode.w
    (List.range ws.length).map fun p =>
      let w := ws.getD p 8
      ⟨l.start v p + l.weave cs (n * w / 8), n * w % 8, w, FCode.planeLow l.fcode.w p⟩
  else
    let b := etBytes l.et
    (List.range b).map fun j => ⟨l.start v 0 + l.weave cs (n * b) + j, 0, 8, 8 * j⟩

/-! ### Validation (R121) -/

/-- The greatest linear position of a record (R121). -/
def Layout.maxLin (l : Layout) : Nat := l.lin (l.size.map fun z => z - 1)

/-- The spans of a record: start and length of every version and plane (R121). -/
def Layout.spans (l : Layout) : List (Nat × Nat) :=
  (List.range l.nver).flatMap fun v => (List.range l.parts.length).map fun p =>
    let w := l.parts.getD p 8
    let len := if l.et = 16 then l.maxLin * w / 8 + 1 else (l.maxLin + 1) * (w / 8)
    let len := if l.xw = 0 then len else ceilDiv len (2 ^ (l.xw + 4)) * 2 ^ (l.xw + 4)
    (l.start v p, len)

/-- Some two spans of a list overlap. -/
def overlaps : List (Nat × Nat) → Bool
  | [] => false
  | a :: t => (t.any fun b => decide (a.1 < b.1 + b.2) && decide (b.1 < a.1 + a.2)) || overlaps t

/-- The checks of R121 in order: 0 when all hold. -/
def Layout.check (l : Layout) (b : List Byte) (reduced : Bool) (rgn : Option Region) : Nat :=
  let fmtw := leField b 4 4
  if fmtw / 2 ^ 23 != 0 || l.ndim == 0 || decide (5 < l.ndim) || decide (20 ≤ l.et) || decide (3 < l.loc) ||
      (l.xw != 0 && decide (l.ndim ≤ l.xd)) then 1
  else if (if l.et = 16 then (FCode.parse reduced l.fmt).isNone else l.fmt != 0) then 2
  else if (List.range 5).any fun j =>
      if j < l.ndim then l.size.getD j 0 == 0 else l.size.getD j 0 != 0 || l.stride.getD j 0 != 0 then 3
  else if (if l.loc = 0 then rgn.isNone || (rgn.map fun r => r.rights % 4 != 3).getD true else l.region != 0) then 4
  else if ((List.range 3).any fun p => decide (l.parts.length ≤ p) && l.ploff.getD p 0 != 0) || overlaps l.spans then 5
  else if l.spans.any fun sp => decide ((match rgn with | some r => if l.loc = 0 then r.nchunk * 2 ^ 21 else 2 ^ 32
                                                        | none => 2 ^ 32) < sp.1 + sp.2) then 6
  else 0

/-! ### Elements in memory -/

/-- Where a layout's bytes lie: a pinned region, or a window of a tile with its MEMB. -/
inductive Seat where
  | region (pkg : Nat) (r : Region)
  | window (home memb lvl : Nat)
  deriving DecidableEq, Repr

/-- The seat of a handle for a tile: none when no ancestor tile has its level. -/
def State.seat (s : State) (h : Handle) (tile : Option Nat) : Option Seat :=
  let l := Layout.ofBytes h.bytes
  if l.loc = 0 then h.rgn.map fun r => .region h.pkg r
  else (s.ancestor l.loc 9 tile).map fun t => .window t.home t.memb l.loc

/-- The key of a byte of a seat; none for a guard byte or one beyond MEMB (R114). -/
def State.seatKey (s : State) (seat : Seat) (off : Nat) : Option Nat :=
  match seat with
  | .region pkg r => some (s.regionKey pkg r off)
  | .window home memb _ => if memb ≤ off ∨ s.guardKey (home + off) then none else some (home + off)

/-- An element's code out of its parts, a guard byte read as the pad element's bits (R114); with whether one was met. -/
def readParts (ps : List Part) (pad : Nat) (byte : Nat → Option Nat) : Nat × Bool :=
  ps.foldl (fun (a : Nat × Bool) p =>
    match byte p.off with
    | some b => (a.1 + b / 2 ^ p.shift % 2 ^ p.bits * 2 ^ p.low, a.2)
    | none => (a.1 + pad / 2 ^ p.low % 2 ^ p.bits * 2 ^ p.low, true)) (0, false)

/-- The byte that a part of an element's code makes of the old byte. -/
def writePart (p : Part) (code old : Nat) : Nat :=
  let m := (2 ^ p.bits - 1) * 2 ^ p.shift
  (old - (old &&& m)) + code / 2 ^ p.low % 2 ^ p.bits * 2 ^ p.shift

/-- The committed version of a handle as it stands, whoever holds a copy of its record (R119, R122). -/
def State.committedOf (s : State) (h : Handle) : Nat :=
  ((s.handles.find? fun x => x.pkg == h.pkg && x.ctx == h.ctx && x.h == h.h).map Handle.committed).getD h.committed

/-- The version a tile uses of a handle to read or to write: the one bound to it under R32, its own kind first, or the
one committed at the moment of the access (R119). -/
def State.version (s : State) (tile : Option Nat) (h : Handle) (write : Bool) : Nat :=
  let bound := (((tile.bind s.tile?).map Tile.vers).getD []).filter fun v => v.1 == h.h
  match bound.find? fun v => v.2.2 == write with
  | some v => v.2.1
  | none => (bound.head?.map fun v => v.2.1).getD (s.committedOf h)

end Sys2Proof.Machine
end

