-- ==== Sys2Proof/Machine/Transc.lean ====
section
/-! DEFINITION. The error-bounded functions FEX2, FLG2, FSIN, FCOS, FTANH: a fixed-point value of the function, and a free result within the bound of R89; special inputs R90. -/

namespace Sys2Proof.Machine

/-- Fixed point with 256 fraction bits. -/
def fxOne : Nat := 2 ^ 256

/-- The product of two fixed-point values. -/
def fxMul (a b : Int) : Int := a * b / (fxOne : Int)

/-- The alternating series of atan(1/n): terms with power p, index k, by fuel. -/
def fxAtanInv (n : Nat) : Nat → Nat → Nat → Int
  | 0, _, _ => 0
  | fuel + 1, p, k => ((p / (2 * k + 1) : Nat) : Int) - fxAtanInv n fuel (p / (n * n)) (k + 1)

/-- π by Machin's formula. -/
def fxPi : Int := 16 * fxAtanInv 5 60 (fxOne / 5) 0 - 4 * fxAtanInv 239 20 (fxOne / 239) 0

/-- The sum Σ t × x^j / (k + 1) … (k + j), with the sign of every second step by `alt`: the tails of exp, sin and cos. -/
def fxTaylor (x : Int) (step : Nat) : Nat → Int → Nat → Int
  | 0, _, _ => 0
  | fuel + 1, t, k =>
    let t' := if step = 1 then fxMul t x / ((k + 1 : Nat) : Int)
              else -(fxMul (fxMul t x) x / (((k + 1) * (k + 2) : Nat) : Int))
    t + fxTaylor x step fuel t' (k + step)

/-- e^x − 1 for a small x. -/
def fxExpm1 (x : Int) : Int := fxTaylor x 1 90 x 1

/-- ln 2 = Σ 1 / (k 2^k). -/
def fxLn2Go : Nat → Nat → Nat
  | 0, _ => 0
  | fuel + 1, k => fxOne / 2 ^ k / k + fxLn2Go fuel (k + 1)
def fxLn2 : Int := fxLn2Go 260 1

/-- 2 × atanh z = ln ((1 + z) / (1 − z)). -/
def fxAtanh2 (z : Int) : Nat → Int → Nat → Int
  | 0, _, _ => 0
  | fuel + 1, p, k => 2 * p / ((2 * k + 1 : Nat) : Int) + fxAtanh2 z fuel (fxMul (fxMul p z) z) (k + 1)

/-- sin and cos of a fixed-point value already reduced. -/
def fxSin (x : Int) : Int := fxTaylor x 2 60 x 1
def fxCos (x : Int) : Int := fxTaylor x 2 60 (fxOne : Int) 0

/-- A fixed-point value reduced modulo 2π into [−π, π). -/
def fxReduce (x : Int) : Int := let tp := 2 * fxPi; (x + fxPi) % tp - fxPi

/-- Which function: 0 FEX2, 1 FLG2, 2 FSIN, 3 FCOS, 4 FTANH. The value of a finite non-zero operand ±m × 2^e, as an integer
times 2^−256 times 2^k (R89). -/
def fxValue (fn : Nat) (neg : Bool) (m : Nat) (e : Int) : Int × Int :=
  let mag : Int := if 0 ≤ e then (m * 2 ^ e.toNat * fxOne : Nat) else (m * fxOne / 2 ^ (-e).toNat : Nat)
  let x := if neg then -mag else mag
  match fn with
  | 0 =>
    let n := x / (fxOne : Int)
    if 2000 < n then (fxOne, 2000) else if n < -2000 then (fxOne, -2000)
    else (fxExpm1 (fxMul (x % (fxOne : Int)) fxLn2) + fxOne, n)
  | 1 =>
    let k := ratLog2 m 1
    let y : Int := ((m * fxOne / 2 ^ k.toNat : Nat) : Int)
    let z := (y - fxOne) * fxOne / (y + fxOne)
    (fxAtanh2 z 90 z 0 * fxOne / fxLn2 + (k + e) * fxOne, 0)
  | 2 => (fxSin (fxReduce x), 0)
  | 3 => (fxCos (fxReduce x), 0)
  | _ =>
    if (40 * fxOne : Int) < mag then ((if neg then -fxOne else fxOne), 0)
    else
      -- tanh |x| = (E − 1) / (E + 1) with E = e^(2|x|) = 2^n × e^r
      let y := 2 * mag
      let n := y / fxLn2
      let em := fxExpm1 (y % fxLn2)
      let a := (em + fxOne) * 2 ^ n.toNat
      let num := if n = 0 then em else a - fxOne
      let t := num * fxOne / (a + fxOne)
      ((if neg then -t else t), 0)

/-- The fixed-point value as an exact number; a sine, cosine or hyperbolic tangent of a non-zero operand is never ±1. -/
def fxXR (fn : Nat) (v k : Int) : XR :=
  .fin (decide (v < 0)) (if 2 ≤ fn ∧ v.natAbs = fxOne then fxOne - 1 else v.natAbs) (k - 256)

/-- The spacing of a format at a value: exponent of one ulp (R89). -/
def FFmt.ulpExp (f : FFmt) (x : XR) : Int :=
  if x.isZero then f.emin else max (x.mag.log2 - f.mbits) f.emin

/-- |x − y| ≤ b. -/
def within (x y b : XR) : Bool := XR.cmp (x.sub y).abs b != .gt

/-- A result within the bound b of the exact value: one moved by a free part of the bound and rounded, or the value
rounded to nearest (R89, log entry 8). A value that rounds beyond max overflows (R272, R82). -/
def boundedResult (f : FFmt) (free : Nat) (x b : XR) : Rounded :=
  let t : Int := ((free % (2 ^ 64 + 1) : Nat) : Int) * 2 - 2 ^ 64
  let d : XR := (XR.fin (decide (t < 0)) t.natAbs (-64)).mul b
  let y := f.round .rne false 0 (x.add d)
  let z := f.round .rne false 0 x
  if !z.ovf && within (f.decode y.code) x b then y else z

/-- The bound of R89: ulps, and the absolute one. -/
def transcBound (fn : Nat) (f : FFmt) (a x : XR) : XR :=
  let ulp := fun n => XR.fin false n (f.ulpExp x)
  let abs22 := XR.fin false 1 (-22)
  if f.mbits != 23 then ulp 1
  else match fn with
    | 1 =>
      -- 2 ulp, and 2^−22 absolute for operands in [0.5, 2]
      if XR.cmp a (.fin false 1 (-1)) != .lt && XR.cmp a (.fin false 1 1) != .gt && XR.cmp abs22 (ulp 2) == .lt then abs22 else ulp 2
    | 2 => if XR.cmp a.abs (.fin false 1 20) == .gt then abs22 else ulp 2
    | 3 => if XR.cmp a.abs (.fin false 1 20) == .gt then abs22 else ulp 2
    | _ => ulp 2

/-- An integral exponent of two of the operand, when it is one: its value. -/
def powerOfTwo (m : Nat) (e : Int) : Option Int := if m = 2 ^ m.log2 then some ((m.log2 : Int) + e) else none

/-- The function of R89 on a code's value, before the output flush; the code of the operand selects the free part. -/
def transcend (fn : Nat) (f : FFmt) (code : Nat) : Nat :=
  let fmt := if f.mbits = 10 then 0 else if f.mbits = 7 then 1 else 2
  let one := f.round .rne false 0 (.fin false 1 0)
  match f.decode code, fn with
  | .nan, _ => f.nanCode
  | .inf neg, 0 => if neg then 0 else f.infCode
  | .inf neg, 1 => if neg then f.nanCode else f.infCode
  | .inf neg, 4 => f.sgn neg + one.code
  | .inf _, _ => f.nanCode
  | .fin neg m e, _ =>
    if m = 0 then
      match fn with
      | 0 => one.code
      | 1 => f.sgn true + f.infCode
      | 3 => one.code
      | _ => f.sgn neg
    else
      let a := XR.fin neg m e
      let near := fun (_ : Unit) =>
        let (v, k) := fxValue fn neg m e
        let x := fxXR fn v k
        (boundedResult f (Config.transcendental fn fmt code) x (transcBound fn f a x)).code
      match fn with
      | 0 =>
        -- an integral operand with a representable power is exact
        let n := roundInt .rz 0 a
        let p := f.round .rne false 0 (.fin false 1 (max (-3000) (min n 3000)))
        if XR.cmp (XR.ofInt n) a == .eq && XR.cmp (f.decode p.code) (.fin false 1 (max (-3000) (min n 3000))) == .eq
        then p.code else near ()
      | 1 =>
        if neg then f.nanCode
        else match powerOfTwo m e with
          | some n => (f.round .rne false 0 (XR.ofInt n)).code
          | none => near ()
      | _ => near ()

end Sys2Proof.Machine
end

