-- ==== Sys2Proof/Machine/FloatOps.lean ====
section
/-! DEFINITION. Floating point and conversion (R266 to R283): element types, rounding with draws (R85), flushing (R79), results by R78 to R90. -/

namespace Sys2Proof.Machine

open Host (Outcome)

/-- The format of a floating element type (R57, R76). -/
def fmtOf (et : Nat) : Option FFmt :=
  match et with
  | 12 => some f16
  | 13 => some bf16
  | 14 => some f32
  | 15 => some f64
  | _ => none

/-- The format of the elements of a packed pair type (R77). -/
def fmtOfPair (et : Nat) : Option FFmt :=
  match et with
  | 18 => some f16
  | 19 => some bf16
  | _ => none

/-- Latency of floating-point results (R70, R267). -/
def latFloat (et : Nat) : Nat := if et = 15 then 10 else 6

/-- MODE.RM is no reserved code (R58). -/
def rmLegal (s : State) : Bool := (RM.ofCode s.g.rm).isSome

/-- A draw of a lane under SR: the state before, and the group with the state advanced (R84, R85). -/
def Group.drawLfsr (g : Group) (rm : RM) (l : Nat) : Nat × Group :=
  if rm = .sr then
    ((g.lane l).lfsr.toNat, g.modLane l fun x => { x with lfsr := BitVec.ofNat 32 (lfsrNext x.lfsr.toNat) })
  else (0, g)

/-- One rounding under MODE: draw, round, flush the result (R79, R81, R82, R85). -/
def Group.roundF (g : Group) (f : FFmt) (rm : RM) (l : Nat) (x : XR) : Nat × Group :=
  let (r, g) := g.drawLfsr rm l
  (f.flush g.ftz (f.round rm g.satM r x).code, g)

/-- An operand code after the input flush, as an exact value (R79). -/
def Group.readF (g : Group) (f : FFmt) (l x : Nat) : XR := f.decode (f.flush g.ftz (g.elem g.et l x))

/-- A floating instruction with one element per lane and one rounding under MODE (R266 to R268). -/
def floatRound (i : Instr) (s : State) (d : BitVec 6) (xs : List (BitVec 6)) (val : Group → FFmt → RM → Nat → XR) :
    Outcome State Fault Refusal :=
  issueG i ((fmtOf s.g.et).isSome && rmLegal s && pairsEven s (d :: xs)) s fun g =>
    match fmtOf g.et, RM.ofCode g.rm with
    | some f, some rm =>
      g.eachLane g.actives fun l h =>
        let (c, h) := h.roundF f rm l (val g f rm l)
        h.setElem (latFloat g.et) g.et l d.toNat c
    | _, _ => g

/-- An exact zero sum is −0 under RD only (R78). -/
def zeroSign (rm : RM) : Bool := rm == .rd

def execFadd (d a b : BitVec 6) (n : Ann) (s : State) : Outcome State Fault Refusal :=
  floatRound (.fadd d a b n) s d [a, b] fun g f rm l =>
    XR.addZ (zeroSign rm) (g.readF f l a.toNat) (g.readF f l b.toNat)

def execFsub (d a b : BitVec 6) (n : Ann) (s : State) : Outcome State Fault Refusal :=
  floatRound (.fsub d a b n) s d [a, b] fun g f rm l =>
    XR.addZ (zeroSign rm) (g.readF f l a.toNat) (g.readF f l b.toNat).neg

def execFmul (d a b : BitVec 6) (n : Ann) (s : State) : Outcome State Fault Refusal :=
  floatRound (.fmul d a b n) s d [a, b] fun g f _ l => (g.readF f l a.toNat).mul (g.readF f l b.toNat)

def execFfma (d a b : BitVec 6) (n : Ann) (s : State) : Outcome State Fault Refusal :=
  floatRound (.ffma d a b n) s d [a, b] fun g f rm l =>
    XR.addZ (zeroSign rm) ((g.readF f l a.toNat).mul (g.readF f l b.toNat)) (g.readF f l d.toNat)

/-- FSCL: a × 2^n with n the signed word of v[B] (R273); past 2^±8192 every format gives one result. -/
def execFscl (d a b : BitVec 6) (n : Ann) (s : State) : Outcome State Fault Refusal :=
  floatRound (.fscl d a b n) s d [a] fun g f _ l =>
    let k := max (-8192) (min 8192 (g.v l b.toNat).toInt)
    match g.readF f l a.toNat with
    | .fin neg m e => .fin neg m (e + k)
    | x => x

/-- FRND: an integral value of the same format (R274). -/
def execFrnd (d a : BitVec 6) (n : Ann) (s : State) : Outcome State Fault Refusal :=
  issueG (.frnd d a n) ((fmtOf s.g.et).isSome && rmLegal s && pairsEven s [d, a]) s fun g =>
    match fmtOf g.et, RM.ofCode g.rm with
    | some f, some rm =>
      g.eachLane g.actives fun l h =>
        let (r, h) := h.drawLfsr rm l
        let x := match g.readF f l a.toNat with
          | .fin neg m e => .fin neg ((Mag.dyadic m e).roundTo 0 rm neg r) 0
          | x => x
        h.setElem (latFloat g.et) g.et l d.toNat (f.flush g.ftz (f.round .rne false 0 x).code)
    | _, _ => g

/-- FMIN, FMAX, FMINN, FMAXN: one of the inputs, with no rounding and no draw (R269). -/
def floatPick (i : Instr) (s : State) (d a b : BitVec 6) (val : XR → XR → XR) : Outcome State Fault Refusal :=
  issueG i ((fmtOf s.g.et).isSome && pairsEven s [d, a, b]) s fun g =>
    match fmtOf g.et with
    | some f => g.eachLane g.actives fun l h =>
        h.setElem (latFloat g.et) g.et l d.toNat
          (f.flush g.ftz (f.round .rne false 0 (val (g.readF f l a.toNat) (g.readF f l b.toNat))).code)
    | none => g

def execFmin (d a b : BitVec 6) (n : Ann) (s : State) : Outcome State Fault Refusal :=
  floatPick (.fmin d a b n) s d a b (xMinMax false)

def execFmax (d a b : BitVec 6) (n : Ann) (s : State) : Outcome State Fault Refusal :=
  floatPick (.fmax d a b n) s d a b (xMinMax true)

def execFminn (d a b : BitVec 6) (n : Ann) (s : State) : Outcome State Fault Refusal :=
  floatPick (.fminn d a b n) s d a b (xMinMaxNum false)

def execFmaxn (d a b : BitVec 6) (n : Ann) (s : State) : Outcome State Fault Refusal :=
  floatPick (.fmaxn d a b n) s d a b (xMinMaxNum true)

/-- The sign bits of an element (R270). -/
def signMask (et : Nat) : Nat :=
  match et with
  | 12 => 2 ^ 15
  | 13 => 2 ^ 15
  | 14 => 2 ^ 31
  | 15 => 2 ^ 63
  | 17 => 2 ^ 31 + 2 ^ 63
  | 18 => 2 ^ 15 + 2 ^ 31
  | 19 => 2 ^ 15 + 2 ^ 31
  | _ => 0

/-- FABS and FNEG act on bits (R80, R270). -/
def floatSign (i : Instr) (s : State) (d a : BitVec 6) (f : Nat → Nat → Nat) : Outcome State Fault Refusal :=
  issueG i (signMask s.g.et != 0 && pairsEven s [d, a]) s fun g =>
    g.eachLane g.actives fun l h =>
      h.setElem (latFloat g.et) g.et l d.toNat (f (g.elem g.et l a.toNat) (signMask g.et))

def execFabs (d a : BitVec 6) (n : Ann) (s : State) : Outcome State Fault Refusal :=
  floatSign (.fabs d a n) s d a fun x m => x - (x &&& m)

def execFneg (d a : BitVec 6) (n : Ann) (s : State) : Outcome State Fault Refusal :=
  floatSign (.fneg d a n) s d a fun x m => x ^^^ m

/-- FCMP: a compare after the input flush (R271). -/
def execFcmp (d : BitVec 3) (a b : BitVec 6) (fn : BitVec 4) (n : Ann) (s : State) : Outcome State Fault Refusal :=
  issueG (.fcmp d a b fn n) ((fmtOf s.g.et).isSome && pairsEven s [a, b]) s fun g =>
    match fmtOf g.et with
    | some f => g.eachLane g.actives fun l h =>
        h.setP (latFloat g.et) l d.toNat (condFloat fn.toNat (g.readF f l a.toNat) (g.readF f l b.toNat))
    | none => g

/-- The class of a code as encoded: the bit of R275. -/
def fclass (f : FFmt) (c : Nat) : Nat :=
  let neg := flag c (f.ebits + f.mbits)
  let e := c / 2 ^ f.mbits % 2 ^ f.ebits
  let m := c % 2 ^ f.mbits
  if e = 2 ^ f.ebits - 1 then
    (if m = 0 then (if neg then 0 else 7) else if flag m (f.mbits - 1) then 9 else 8)
  else if e = 0 then
    (if m = 0 then (if neg then 3 else 4) else (if neg then 2 else 5))
  else (if neg then 1 else 6)

def execFcls (d a : BitVec 6) (n : Ann) (s : State) : Outcome State Fault Refusal :=
  issueG (.fcls d a n) ((fmtOf s.g.et).isSome && pairsEven s [a]) s fun g =>
    match fmtOf g.et with
    | some f => g.eachLane g.actives fun l h =>
        h.setV (latFloat g.et) l d.toNat (BitVec.ofNat 32 (2 ^ fclass f (g.elem g.et l a.toNat)))
    | none => g

/-! ### Transcendentals (R89, R90, R272) -/

/-- Scoreboard targets of elements of a type, with their codes. -/
def Group.elemTargets (g : Group) (ls : List Nat) (et x : Nat) (val : Nat → Nat) : List (Target × Option Word) :=
  if wideEt et then
    g.targets ls x (fun l => some (loWord (val l))) ++ g.targets ls (x + 1) (fun l => some (hiWord (val l)))
  else g.targets ls x (fun l => some (extend et (val l)))

/-- A correctly rounded function of a finite non-zero operand: its magnitude, and whether a negative operand is NaN. -/
def recipMag (m : Nat) (e : Int) : Mag := let (a, b) := scaleRat 1 m (-e); .rat a b
def rsqMag (m : Nat) (e : Int) : Mag := let (a, b) := scaleRat 1 m (-e); .sqrt a b
def sqrtMag (m : Nat) (e : Int) : Mag := let (a, b) := scaleRat m 1 e; .sqrt a b

/-- FRCP 0, FRSQ 1, FSQRT 2 of a value, rounded (R89, R90). -/
def rooted (fn : Nat) (f : FFmt) (rm : RM) (satM : Bool) (r : Nat) (x : XR) : Nat :=
  match x, fn with
  | .nan, _ => f.nanCode
  | .inf neg, 0 => f.sgn neg
  | .inf neg, 1 => if neg then f.nanCode else 0
  | .inf neg, _ => if neg then f.nanCode else f.infCode
  | .fin neg m e, 0 => if m = 0 then f.sgn neg + f.infCode else (f.roundMag rm satM r neg (recipMag m e)).code
  | .fin neg m e, 1 =>
    if m = 0 then f.sgn neg + f.infCode else if neg then f.nanCode else (f.roundMag rm satM r false (rsqMag m e)).code
  | .fin neg m e, _ =>
    if m = 0 then f.sgn neg else if neg then f.nanCode else (f.roundMag rm satM r false (sqrtMag m e)).code

/-- FRCP, FRSQ, FSQRT: correctly rounded under MODE.RM, one draw per lane under SR, scoreboarded (R272). -/
def floatRooted (i : Instr) (s : State) (d a : BitVec 6) (fn : Nat) : Outcome State Fault Refusal :=
  issueG i ((fmtOf s.g.et).isSome && rmLegal s && pairsEven s [d, a]) s fun g =>
    match fmtOf g.et, RM.ofCode g.rm with
    | some f, some rm =>
      let h := g.eachLane g.actives fun l h => (h.drawLfsr rm l).2
      h.post (h.elemTargets g.actives g.et d.toNat fun l =>
        f.flush g.ftz (rooted fn f rm g.satM (g.lane l).lfsr.toNat (g.readF f l a.toNat)))
    | _, _ => g

def execFrcp (d a : BitVec 6) (n : Ann) (s : State) : Outcome State Fault Refusal := floatRooted (.frcp d a n) s d a 0
def execFrsq (d a : BitVec 6) (n : Ann) (s : State) : Outcome State Fault Refusal := floatRooted (.frsq d a n) s d a 1
def execFsqrt (d a : BitVec 6) (n : Ann) (s : State) : Outcome State Fault Refusal := floatRooted (.fsqrt d a n) s d a 2

/-- The error-bounded functions (R89): F16, BF16 and F32; MODE.SAT clamps an overflow from finite operands (R82). -/
def floatBounded (i : Instr) (s : State) (d a : BitVec 6) (fn : Nat) : Outcome State Fault Refusal :=
  issueG i (s.g.et == 12 || s.g.et == 13 || s.g.et == 14) s fun g =>
    match fmtOf g.et with
    | some f =>
      g.post (g.elemTargets g.actives g.et d.toNat fun l =>
        let c := f.flush g.ftz (g.elem g.et l a.toNat)
        let r := transcend fn f c
        let ovf := r % f.signBit == f.infCode && match f.decode c with
          | .fin _ m _ => m != 0
          | _ => false
        f.flush g.ftz (if g.satM && ovf then r - 1 else r))
    | none => g

def execFex2 (d a : BitVec 6) (n : Ann) (s : State) : Outcome State Fault Refusal := floatBounded (.fex2 d a n) s d a 0
def execFlg2 (d a : BitVec 6) (n : Ann) (s : State) : Outcome State Fault Refusal := floatBounded (.flg2 d a n) s d a 1
def execFsin (d a : BitVec 6) (n : Ann) (s : State) : Outcome State Fault Refusal := floatBounded (.fsin d a n) s d a 2
def execFcos (d a : BitVec 6) (n : Ann) (s : State) : Outcome State Fault Refusal := floatBounded (.fcos d a n) s d a 3
def execFtanh (d a : BitVec 6) (n : Ann) (s : State) : Outcome State Fault Refusal := floatBounded (.ftanh d a n) s d a 4

/-! ### Conversions (R86 to R88, R95, R276, R277) -/


/-- The f-code that MODE.FR selects, when valid (R52, R92). -/
def State.fcode (s : State) (g : Group) : Option FCode := FCode.parse (s.reduced g.pkg) (g.freg g.fr).toNat

def etFloat (et : Nat) : Bool := decide (12 ≤ et) && decide (et ≤ 15)
/-- S and N types, codes 4 to 11. -/
def etNum (et : Nat) : Bool := decide (4 ≤ et) && decide (et ≤ 11)

/-- The pairs of types of FCVT, with the pairs they name even (R276). -/
def fcvtLegal (s : State) (d a : BitVec 6) (src : Nat) : Bool :=
  let t := s.g.et
  ((etFloat src && (etFloat t || etNum t || t == 16)) || (src == 16 && etFloat t)) &&
  (!(src == 16 || t == 16) || (s.fcode s.g).isSome) && rmLegal s &&
  (!wideEt src || a.toNat % 2 == 0) && (!wideEt t || d.toNat % 2 == 0)

/-- The code of a converted value in MODE.ET, narrow or wide (R86, R87, R95). -/
def Group.convert (g : Group) (fc : Option FCode) (rm : RM) (l : Nat) (x : XR) : Nat × Group :=
  match fmtOf g.et with
  | some f => g.roundF f rm l x
  | none =>
    let (r, g) := g.drawLfsr rm l
    if g.et = 16 then
      match fc with
      | some fc => ((fc.round rm g.satM r x).code, g)
      | none => (0, g)
    else (floatToInt (etSigned g.et) (etBits g.et) rm r x, g)

def execFcvt (d a : BitVec 6) (i : BitVec 5) (n : Ann) (s : State) : Outcome State Fault Refusal :=
  let src := i.toNat
  issue (.fcvt d a i n) (fcvtLegal s d a src) s fun s =>
    let g := s.g
    let fc := s.fcode g
    let lat := if src = 15 ∨ g.et = 15 then 10 else 6
    match RM.ofCode g.rm with
    | some rm => .done { s with g := g.eachLane g.actives fun l h =>
        let x := match fmtOf src with
          | some f => f.decode (f.flush g.ftz (g.elem src l a.toNat))
          | none => match fc with
            | some fc => fc.decode ((g.v l a.toNat).toNat % 2 ^ fc.w)
            | none => .nan
        let (c, h) := h.convert fc rm l x
        if g.et = 16 then h.setV lat l d.toNat (BitVec.ofNat 32 c) else h.setElem lat g.et l d.toNat c }
    | none => .done s

/-- ICVT: from an integer type to a float or integer type (R88, R277). -/
def execIcvt (d a : BitVec 6) (i : BitVec 5) (n : Ann) (s : State) : Outcome State Fault Refusal :=
  let src := i.toNat
  issueG (.icvt d a i n) ((etNum s.g.et || (etFloat s.g.et && rmLegal s)) && (!wideEt src || a.toNat % 2 == 0) &&
      (!wideEt s.g.et || d.toNat % 2 == 0)) s fun g =>
    let lat := if g.et = 15 then 10 else 6
    g.eachLane g.actives fun l h =>
      let v := etVal src (g.elem src l a.toNat)
      match fmtOf g.et, RM.ofCode g.rm with
      | some f, some rm => let (c, h) := h.roundF f rm l (XR.ofInt v); h.setElem lat g.et l d.toNat c
      | _, _ => h.setElem lat g.et l d.toNat (narrowInt (etSigned g.et) (etBits g.et) g.satM v)

/-! ### Two-word forms and complex values (R278 to R281) -/

/-- TSUM (R278): the sum and its exact error. -/
def twoSum (a b : Word) : Word × Word :=
  let x := (x32 a).add (x32 b)
  let sm := ne32 x
  let cn : Word := BitVec.ofNat 32 f32.nanCode
  if (x32 sm).isNan then (cn, cn) else if (x32 sm).isInf then (sm, 0) else (sm, ne32 (x.sub (x32 sm)))

def execTsum (d a b : BitVec 6) (n : Ann) (s : State) : Outcome State Fault Refusal :=
  issueG (.tsum d a b n) (s.g.et == 14) s fun g =>
    g.eachLane g.actives fun l h =>
      let (x, e) := twoSum (g.v l a.toNat) (g.v l b.toNat)
      (h.setV 6 l d.toNat x).setV 6 l (d.toNat + 1) e

/-- TPRD (R279): the product and its rounded rest. -/
def twoProd (a b : Word) : Word × Word :=
  let x := (x32 a).mul (x32 b)
  let hi := ne32 x
  let cn : Word := BitVec.ofNat 32 f32.nanCode
  if x.isNan then (cn, cn) else if (x32 hi).isInf then (hi, 0) else (hi, ne32 (x.sub (x32 hi)))

def execTprd (d a b : BitVec 6) (n : Ann) (s : State) : Outcome State Fault Refusal :=
  issueG (.tprd d a b n) (s.g.et == 14) s fun g =>
    g.eachLane g.actives fun l h =>
      let (x, e) := twoProd (g.v l a.toNat) (g.v l b.toNat)
      (h.setV 6 l d.toNat x).setV 6 l (d.toNat + 1) e

/-- One FP32 word after the input flush. -/
def Group.f32In (g : Group) (l x : Nat) : XR := f32.decode (f32.flush g.ftz (g.v l x).toNat)

def execCmul (d a b : BitVec 6) (n : Ann) (s : State) : Outcome State Fault Refusal :=
  issueG (.cmul d a b n) (s.g.et == 17 && rmLegal s) s fun g =>
    match RM.ofCode g.rm with
    | some rm => g.eachLane g.actives fun l h =>
        let ar := g.f32In l a.toNat
        let ai := g.f32In l (a.toNat + 1)
        let br := g.f32In l b.toNat
        let bi := g.f32In l (b.toNat + 1)
        let (re, h) := h.roundF f32 rm l (XR.addZ (zeroSign rm) (ar.mul br) (ai.mul bi).neg)
        let (im, h) := h.roundF f32 rm l (XR.addZ (zeroSign rm) (ar.mul bi) (ai.mul br))
        (h.setV 6 l d.toNat (BitVec.ofNat 32 re)).setV 6 l (d.toNat + 1) (BitVec.ofNat 32 im)
    | none => g

def execCfma (d a b : BitVec 6) (n : Ann) (s : State) : Outcome State Fault Refusal :=
  issueG (.cfma d a b n) (s.g.et == 17) s fun g =>
    g.eachLane g.actives fun l h =>
      let w := fun k => g.v l (d.toNat + k)
      let (hr, lr, hi, li) := compMac (w 0, w 1, w 2, w 3) (x32 (g.v l a.toNat)) (x32 (g.v l (a.toNat + 1)))
        (x32 (g.v l b.toNat)) (x32 (g.v l (b.toNat + 1)))
      (((h.setV 6 l d.toNat hr).setV 6 l (d.toNat + 1) lr).setV 6 l (d.toNat + 2) hi).setV 6 l (d.toNat + 3) li

/-! ### Packed pairs (R282, R283) -/

/-- Element k of a packed register after the input flush. -/
def Group.pairIn (g : Group) (f : FFmt) (l x k : Nat) : XR :=
  f.decode (f.flush g.ftz ((g.v l x).toNat / 2 ^ (16 * k) % 2 ^ 16))

def execDot2 (d a b : BitVec 6) (n : Ann) (s : State) : Outcome State Fault Refusal :=
  issueG (.dot2 d a b n) ((fmtOfPair s.g.et).isSome && rmLegal s) s fun g =>
    match fmtOfPair g.et, RM.ofCode g.rm with
    | some f, some rm => g.eachLane g.actives fun l h =>
        let p := fun k => (g.pairIn f l a.toNat k).mul (g.pairIn f l b.toNat k)
        let (c, h) := h.roundF f32 rm l (XR.addZ (zeroSign rm) (p 0) (p 1))
        h.setV 6 l d.toNat (BitVec.ofNat 32 c)
    | _, _ => g

/-- A packed instruction: elements 0 and 1 rounded independently, element 0 drawing first (R283). -/
def packed (i : Instr) (s : State) (d : BitVec 6) (val : Group → FFmt → RM → Nat → Nat → XR) : Outcome State Fault Refusal :=
  issueG i ((fmtOfPair s.g.et).isSome && rmLegal s) s fun g =>
    match fmtOfPair g.et, RM.ofCode g.rm with
    | some f, some rm => g.eachLane g.actives fun l h =>
        let (c0, h) := h.roundF f rm l (val g f rm l 0)
        let (c1, h) := h.roundF f rm l (val g f rm l 1)
        h.setV 6 l d.toNat (BitVec.ofNat 32 (c0 + 2 ^ 16 * c1))
    | _, _ => g

def execH2add (d a b : BitVec 6) (n : Ann) (s : State) : Outcome State Fault Refusal :=
  packed (.h2add d a b n) s d fun g f rm l k =>
    XR.addZ (zeroSign rm) (g.pairIn f l a.toNat k) (g.pairIn f l b.toNat k)

def execH2mul (d a b : BitVec 6) (n : Ann) (s : State) : Outcome State Fault Refusal :=
  packed (.h2mul d a b n) s d fun g f _ l k => (g.pairIn f l a.toNat k).mul (g.pairIn f l b.toNat k)

def execH2fma (d a b : BitVec 6) (n : Ann) (s : State) : Outcome State Fault Refusal :=
  packed (.h2fma d a b n) s d fun g f rm l k =>
    XR.addZ (zeroSign rm) ((g.pairIn f l a.toNat k).mul (g.pairIn f l b.toNat k)) (g.pairIn f l d.toNat k)

end Sys2Proof.Machine
end

