-- ==== Sys2Proof/Machine/MemOps.lean ====
section
/-! DEFINITION. Loads, stores, atomics, fences, cache control, level allocation and layout records (R290 to R301). -/

namespace Sys2Proof.Machine

open Host (Outcome)

/-- Element types of LD and ST: every type with a byte size (R294). -/
def memLegal (s : State) : Bool := etBits s.g.et != 0

/-- EA of a lane (R291). -/
def Group.ea (g : Group) (l a : Nat) (off : Int) : Nat := wrap 64 ((g.v2 l a : Int) + off)

/-- Steps 1 and 2 of R291: the lowest active lane that fails one, with its trap code. -/
def State.badAddr (s : State) (g : Group) (z : Nat) (ea : Nat → Nat) : Option (Nat × Nat) :=
  g.actives.findSome? fun l =>
    if (s.place g (ea l)).isNone then some (0x06, l) else if ea l % z != 0 then some (0x05, l) else none

/-- Lanes in ascending order, each with its answer; the first trap or hold stops (R291, R292). -/
def loadLanes (f : State → Nat → LoadRes × State) : List Nat → State → Res ⊕ (State × List (Nat × LoadRes))
  | [], s => .inr (s, [])
  | l :: t, s =>
    match f s l with
    | (.trap c, _) => .inl (.trap c 0 l)
    | (.hold, _) => .inl .hold
    | (r, s) =>
      match loadLanes f t s with
      | .inl e => .inl e
      | .inr (s, rs) => .inr (s, (l, r) :: rs)

/-- A lane's loaded element, when known. -/
def loadedVal (rs : List (Nat × LoadRes)) (l : Nat) : Option Nat :=
  match rs.find? fun r => r.1 == l with
  | some (_, .val bs) => some (natOf bs)
  | _ => none

/-- The scoreboard entry of a load or atomic into v[d]; an acquire is pending while a lane's answer is. -/
def State.postLoads (s : State) (rs : List (Nat × LoadRes)) (et d : Nat) (acq : Bool) : State :=
  let g := s.g
  let ls := rs.map Prod.fst
  let ws := if wideEt et then
      g.targets ls d (fun l => (loadedVal rs l).map loWord) ++ g.targets ls (d + 1) (fun l => (loadedVal rs l).map hiWord)
    else g.targets ls d fun l => (loadedVal rs l).map fun x => extend et (x % 2 ^ etBits et)
  { s with g := { g with sb := g.sb ++ [⟨g.nextSb, ws, acq && rs.any fun r => r.2 == .far⟩], nextSb := g.nextSb + 1 } }

/-- The group in focus releases and acquires at a scope, as its order says: 0 WEAK to 3 SC; `rel` is the least order at which the
access is a release (R59, R147). -/
def State.ordered (s : State) (ord sc rel : Nat) : State :=
  let s := if rel ≤ ord then { s with g := s.g.handOn } else s
  if 2 ≤ ord then s.acquire s.g sc else s

/-- LD: one load per active lane (R291, R294, R74). -/
def loadOp (i : Instr) (s : State) (d a : BitVec 6) (off : Int) : Outcome State Fault Refusal :=
  issue i (memLegal s && (!wideEt s.g.et || d.toNat % 2 == 0)) s fun s =>
    let g := s.g
    let z := etBytes g.et
    let ea := fun l => g.ea l a.toNat off
    let sc := s.scope
    match s.badAddr g z ea with
    | some (c, l) => .trap c 0 l
    | none =>
      if g.acqPending || (g.ord == 3 && s.relWaits sc) then .hold
      else
        match loadLanes (fun s l => s.load1 { lane := l, va := ea l, n := z, et := g.et, ord := g.ord, sc := sc }) g.actives s with
        | .inl r => r
        | .inr (s, rs) => .done ((s.postLoads rs g.et d.toNat (decide (2 ≤ g.ord))).ordered g.ord sc 3)

def execLdI (d a i : BitVec 6) (n : Ann) (s : State) : Outcome State Fault Refusal :=
  loadOp (.ldI d a i n) s d a (4 * signExt i.toNat 6)

def execLdL (d a : BitVec 6) (off : Word) (n : Ann) (s : State) : Outcome State Fault Refusal :=
  loadOp (.ldL d a off n) s d a (signExt off.toNat 32)

/-- A store of an order is an acquire too when it is SC, a RED when it is ACQREL or SC (R147, R149). -/
def storeAcquires (red : Option Nat) (ord : Nat) : Bool := ord == 3 || (red.isSome && ord == 2)

/-- An entry of the store queue (R293): a full queue holds the group; an entry without lanes stays for its order (R74). -/
def enqueue (s : State) (red : Option Nat) (et ord sc : Nat) (ls : List LaneStore) : Res :=
  let g := s.g
  if g.acqPending then .hold
  else if ls.isEmpty && decide (ord < 2) then .done s
  else if 16 ≤ g.sq.length then .fence
  else
    let (id, s) := s.fresh
    .done { s with g := { g with sq := g.sq ++ [⟨id, red, et, ord, sc, g.pc, ls, storeAcquires red ord⟩] } }

/-- The lane's store is a guard hit at its issue (R114, R300): the level, offset and key that a record names. -/
def State.guardOf (s : State) (ls : LaneStore) : Option (Nat × Nat × Nat) :=
  match s.place s.g ls.va with
  | some (.level key lvl off memb) => if s.guardHit key off memb ls.data.length then some (lvl, off, key) else none
  | _ => none

/-- The lanes' stores without those that are guard hits, which are discarded and recorded (R114). -/
def State.guardStores (s : State) : List LaneStore → List LaneStore × State
  | [] => ([], s)
  | ls :: t =>
    match s.guardOf ls with
    | some (lvl, off, key) => (s.recordGuard s.g.crew s.g.num s.g.pc lvl off key).guardStores t
    | none => let (r, s) := s.guardStores t; (ls :: r, s)

/-- The stores or REDs of an instruction enter the queue once it can take them (R292, R293). -/
def enqueueLanes (s : State) (red : Option Nat) (et ord sc : Nat) (ls : List LaneStore) : Res :=
  match enqueue s red et ord sc ls with
  | .done _ => let (ls, s) := s.guardStores ls; enqueue s red et ord sc ls
  | r => r

/-- ST: one store per active lane, in ascending lane order (R291, R292, R294). -/
def storeOp (i : Instr) (s : State) (d a : BitVec 6) (off : Int) : Outcome State Fault Refusal :=
  issue i (memLegal s && (!wideEt s.g.et || d.toNat % 2 == 0)) s fun s =>
    let g := s.g
    let z := etBytes g.et
    let ea := fun l => g.ea l a.toNat off
    match s.badAddr g z ea with
    | some (c, l) => .trap c 0 l
    | none => enqueueLanes s none g.et g.ord s.scope
        (g.actives.map fun l => ⟨l, ea l, bytesOf z (g.elem g.et l d.toNat), [], none⟩)

def execStI (d a i : BitVec 6) (n : Ann) (s : State) : Outcome State Fault Refusal :=
  storeOp (.stI d a i n) s d a (4 * signExt i.toNat 6)

def execStL (d a : BitVec 6) (off : Word) (n : Ann) (s : State) : Outcome State Fault Refusal :=
  storeOp (.stL d a off n) s d a (signExt off.toNat 32)

/-! ### Atomics (R296, R297) -/

/-- The bytes an RMW reads at a key, and their store, for the group in focus (R125, R151). -/
def State.rmwDo (s : State) (g : Group) (seq : Nat) (kind : AccKind) (data : List Byte) (pkg core sc key n : Nat) : List Byte × State :=
  let old := s.groupBytes g seq key (s.rmwOld pkg core sc key n)
  (old, match rmw kind old data with
    | some new => ((s.storeHome g.id seq key new).1).passHere pkg core key new
    | none => s)

/-- An RMW at a key of the package or of level memory: at issue, or, where R146 leaves it free to, later. -/
def State.rmwHere (s : State) (a : Access) (kind : AccKind) (data : List Byte) (key : Nat) : LoadRes × State :=
  let g := s.g
  if s.poisonedAt key a.n then (.trap 0x0A, s)
  else if tsoClass (some key) a.sc && s.tsoPending g.id s.next then (.hold, s)
  else
    let ahead := if 4 < a.sc then [] else s.storesAhead g.id
    let (coin, s) := if movable a.ord a.sc key then s.pick 2 else (0, s)
    if coin = 1 ∨ s.behind g.id key a.n ∨ ahead ≠ [] then (.far, s.send (s.packet a g.pkg (some key) kind data ahead))
    else
      let (old, s) := s.rmwDo g s.next kind data g.pkg g.core a.sc key a.n
      (.val old, s)

/-- One lane's RMW (R109, R114, R151). -/
def State.rmw1 (s : State) (a : Access) (kind : AccKind) (data : List Byte) : LoadRes × State :=
  let g := s.g
  match s.place g a.va with
  | none => (.trap 0x06, s)
  | some (.level key lvl off memb) =>
    if s.guardHit key off memb a.n then (.val (List.replicate a.n 0), s.recordGuard g.crew g.num g.pc lvl off key)
    else s.rmwHere a kind data key
  | some (.home pkg off) =>
    if pkg = g.pkg then
      match s.translate pkg g.ctx off 3 with
      | (none, s) => (.trap 0x06, s)
      | (some pa, s) => s.rmwHere a kind data (keyPkg pkg pa)
    else if !(s.pkg pkg).member then (.trap 0x06, s)
    else if tsoClass none a.sc && s.tsoPending g.id s.next then (.hold, s)
    else (.far, s.send (s.packet a pkg none kind data (s.known g (keyRemote g.ctx pkg off) a.n)))

/-- ATOM and ATOMC: RMWs in ascending lane order, behind the group's queued stores (R292, R293, R145). An ORD of WEAK acts as
RELAXED. -/
def atomicOp (i : Instr) (legal : Bool) (s : State) (d a b : BitVec 6) (kind : Group → Nat → AccKind) :
    Outcome State Fault Refusal :=
  issue i (legal && pairsEven s [d, b]) s fun s =>
    let g := s.g
    let z := etBytes g.et
    let ea := fun l => g.ea l a.toNat 0
    let sc := s.scope
    let data := fun l => bytesOf z (g.elem g.et l b.toNat)
    match s.badAddr g z ea with
    | some (c, l) => .trap c 0 l
    | none =>
      if g.acqPending || !g.sq.isEmpty || (decide (2 ≤ g.ord) && s.relWaits sc) then .hold
      else
        match loadLanes (fun s l => s.rmw1 { lane := l, va := ea l, n := z, et := g.et, ord := max 1 g.ord, sc := sc } (kind g l) (data l)) g.actives s with
        | .inl r => r
        | .inr (s, rs) => .done ((s.postLoads rs g.et d.toNat (decide (2 ≤ g.ord))).ordered g.ord sc 2)

def execAtom (d a b : BitVec 6) (fn : BitVec 4) (n : Ann) (s : State) : Outcome State Fault Refusal :=
  atomicOp (.atom d a b fn n) (atomLegal fn.toNat s.g.et) s d a b fun g _ => .atom fn.toNat g.et

def execAtomc (d a b : BitVec 6) (n : Ann) (s : State) : Outcome State Fault Refusal :=
  atomicOp (.atomc d a b n) (atomInt s.g.et || s.g.et == 14) s d a b fun g l =>
    .cas g.et (bytesOf (etBytes g.et) (g.elem g.et l d.toNat))

/-- RED: RMWs through the store queue; EXCH is no RED (R296). -/
def execRed (a b : BitVec 6) (fn : BitVec 4) (n : Ann) (s : State) : Outcome State Fault Refusal :=
  issue (.red a b fn n) (atomLegal fn.toNat s.g.et && decide (fn.toNat < 6) && pairsEven s [b]) s fun s =>
    let g := s.g
    let z := etBytes g.et
    let ea := fun l => g.ea l a.toNat 0
    match s.badAddr g z ea with
    | some (c, l) => .trap c 0 l
    | none => enqueueLanes s (some fn.toNat) g.et (max 1 g.ord) s.scope
        (g.actives.map fun l => ⟨l, ea l, bytesOf z (g.elem g.et l b.toNat), [], none⟩)

/-! ### Elements through layout handles (R295) -/

/-- The coordinates of a lane (R295). -/
def Group.coordsAt (g : Group) (l b k : Nat) : List Int := (List.range k).map fun j => (g.v l (b + j)).toInt

/-- The address of an offset of a seat, in the window or the package, and the key of a region's byte. -/
def State.seatVa (s : State) (seat : Seat) (off : Nat) : Nat × Option Nat :=
  match seat with
  | .window _ _ lvl => (15 * 2 ^ 60 + lvl * 2 ^ 57 + off, none)
  | .region pkg r => (2 ^ 52 + r.vbase + off, some (s.regionKey pkg r off))

/-- n bytes at an offset of a seat, for a load. -/
def State.loadSeat (s : State) (seat : Seat) (a : Access) (off n : Nat) : LoadRes × State :=
  let (va, key) := s.seatVa seat off
  let a := { a with va := va, n := n }
  match seat, key with
  | .window home memb lvl, _ => s.loadLevel a (home + off) lvl off memb
  | _, some key => s.loadHere a key
  | _, none => (.hold, s)

/-- The window offset of the first guard byte an element meets, with its key. -/
def State.partGuard (s : State) (seat : Seat) (ps : List Part) : Option (Nat × Nat × Nat) :=
  match seat with
  | .region _ _ => none
  | .window home _ lvl => (ps.find? fun p => (s.seatKey seat p.off).isNone).map fun p => (lvl, p.off, home + p.off)

/-- The bytes of an element's parts in planes, each by a load at issue (log entry 98). -/
def State.loadParts (s : State) (seat : Seat) (a : Access) : List Part → LoadRes × State
  | [] => (.val [], s)
  | p :: t =>
    match s.loadSeat seat { a with now := true } p.off 1 with
    | (.val b, s) =>
      match s.loadParts seat a t with
      | (.val bs, s) => (.val (b ++ bs), s)
      | r => r
    | (.far, s) => (.hold, s)
    | r => r

/-- One lane's LDL: the pad element outside the extents, zero for a guard hit, else the element's code as bytes. -/
def State.loadElem (s : State) (seat : Seat) (l : Layout) (v : Nat) (a : Access) (cs : List Int) : LoadRes × State :=
  let code := fun (c : Nat) => LoadRes.val (bytesOf 8 c)
  if !l.inside cs then (code l.padCode, s) else
  let ps := l.element v (cs.map Int.toNat)
  match s.partGuard seat ps with
  | some (lvl, off, key) => (code 0, s.recordGuard s.g.crew s.g.num s.g.pc lvl off key)
  | none =>
    if l.et = 16 then
      match s.loadParts seat a ps with
      | (.val bs, s) => (code (readParts ps 0 fun off => (bs[ps.findIdx fun p => p.off == off]?).map BitVec.toNat).1, s)
      | r => r
    else
      match s.loadSeat seat a ((ps.map Part.off).headD 0) ps.length with
      | (.val bs, s) => (code (natOf bs), s)
      | r => r

/-- Check 4 of R226 for LDL and STL: the coordinates end in v63, and a 64-bit element has an even D (R295). It is made once the
handle's register may be read. -/
def State.handleLegal (s : State) (i : Instr) (d a b : BitVec 6) : Bool :=
  s.g.blocked (uses s i) ||
  match s.handle? s.g.pkg s.g.ctx (s.g.sreg a.toNat).toNat with
  | none => true
  | some h => let l := Layout.ofBytes h.bytes; decide (b.toNat + l.ndim ≤ 64) && (!wideEt l.et || d.toNat % 2 == 0)

/-- What LDL and STL do through their handle (R295); with no active lane only the order of the instruction remains, whether or not
the handle is live (R74). -/
def throughHandle (s : State) (a : BitVec 6) (body : Option (Handle × Layout × Seat) → Res) : Res :=
  let g := s.g
  let seat := (s.handle? g.pkg g.ctx (g.sreg a.toNat).toNat).bind fun h => (s.seat h g.tile).map fun seat => (h, Layout.ofBytes h.bytes, seat)
  match seat with
  | none => if g.actives.isEmpty then body none else .trap 0x06 0 (g.actives.headD 0)
  | some x => body (some x)

def execLdl (d a b : BitVec 6) (n : Ann) (s : State) : Outcome State Fault Refusal :=
  issue (.ldl d a b n) (s.merged.handleLegal (.ldl d a b n) d a b) s fun s =>
    throughHandle s a fun x =>
      let g := s.g
      let sc := s.scope
      if g.acqPending || (g.ord == 3 && s.relWaits sc) then .hold
      else
        match x with
        | none => .done (s.ordered g.ord sc 3)
        | some (h, l, seat) =>
          let v := s.version g.tile h false
          let et := if l.et = 16 then 2 else l.et
          match loadLanes (fun s i => s.loadElem seat l v { lane := i, va := 0, n := 0, et := et, ord := g.ord, sc := sc } (g.coordsAt i b.toNat l.ndim)) g.actives s with
          | .inl r => r
          | .inr (s, rs) => .done ((s.postLoads rs et d.toNat (decide (2 ≤ g.ord))).ordered g.ord sc 3)

/-- The stores of one lane's STL: one access of a byte type, or single bits of one byte per plane (R295). -/
def State.elemStores (s : State) (seat : Seat) (ps : List Part) (nf : Bool) (code lane : Nat) : List LaneStore :=
  if nf then ps.map fun p =>
    let (va, key) := s.seatVa seat p.off
    ⟨lane, va, [BitVec.ofNat 8 (writePart p code 0)], [BitVec.ofNat 8 ((2 ^ p.bits - 1) * 2 ^ p.shift)], key⟩
  else match ps with
    | [] => []
    | p :: _ => let (va, key) := s.seatVa seat p.off; [⟨lane, va, bytesOf ps.length code, [], key⟩]

/-- The stores of an STL's lanes, its guard hits recorded. -/
def State.elemLanes (s : State) (h : Handle) (l : Layout) (seat : Seat) (d b : Nat) : List LaneStore × State :=
  let g := s.g
  let v := s.version g.tile h true
  g.actives.foldl (fun (a : List LaneStore × State) (i : Nat) =>
    let cs := g.coordsAt i b l.ndim
    if !l.inside cs then a else
    let ps := l.element v (cs.map Int.toNat)
    match a.2.partGuard seat ps with
    | some (lvl, off, key) => (a.1, a.2.recordGuard g.crew g.num g.pc lvl off key)
    | none =>
      let code := if wideEt l.et then g.v2 i d else (g.v i d).toNat
      (a.1 ++ a.2.elemStores seat ps (l.et == 16) code i, a.2)) ([], s)

def execStl (d a b : BitVec 6) (n : Ann) (s : State) : Outcome State Fault Refusal :=
  issue (.stl d a b n) (s.merged.handleLegal (.stl d a b n) d a b) s fun s =>
    throughHandle s a fun x =>
      let g := s.g
      match x with
      | none => enqueue s none 0 g.ord s.scope []
      | some (h, l, seat) =>
        let (ls, t) := s.elemLanes h l seat d.toNat b.toNat
        enqueue t none l.et g.ord s.scope ls

/-! ### Fences and cache control (R298, R299) -/

def execFence (n : Ann) (s : State) : Outcome State Fault Refusal :=
  issue (.fence n) true s fun s =>
    let g := s.g
    let sc := s.scope
    if g.ord < 2 ∨ sc = 0 then .done s
    else if g.acqPending || s.relWaits sc then .fence
    else .done (s.ordered g.ord sc 2)

/-- The line of a region-0 address that CCTL acts on: its cache key, and its home bytes in the issuing package. -/
def State.cctlLine (s : State) (va : Nat) : Option (Nat × Option Nat) × State :=
  match s.place s.g va with
  | some (.home pkg off) =>
    if pkg = s.g.pkg then
      match s.translate pkg s.g.ctx off 1 with
      | (some pa, s) => (some (keyPkg pkg pa / 64 * 64, some (keyPkg pkg pa / 64 * 64)), s)
      | (none, s) => (none, s)
    else (some (keyRemote s.g.ctx pkg off / 64 * 64, none), s)
  | _ => (none, s)

/-- The group's loads under way that satisfy p leave no line behind. -/
def State.leaveNone (s : State) (p : Packet → Bool) : State :=
  { s with net := s.net.map fun q => if q.gid == s.g.id && p q then { q with alloc := false } else q }

/-- A line is discarded from the units that satisfy p; the group's earlier loads under way leave none of it behind (R299). -/
def State.discardLine (s : State) (p : Nat → Bool) (k : Nat) : State :=
  (s.dropLines fun l => p l.unit && l.key == k).leaveNone fun q => match q.key with
    | some key => key / 64 * 64 == k
    | none => keyRemote q.ctx q.dst q.off / 64 * 64 == k

/-- CCTL: prefetches and discards; it raises no trap of its own (R299). -/
def execCctl (a i : BitVec 6) (n : Ann) (s : State) : Outcome State Fault Refusal :=
  issue (.cctl a i n) true s fun s =>
    let g := s.g
    let l1 := unitL1 g.pkg g.core
    let dc := unitDie g.pkg g.core
    if i = 4 then .done (if g.actives.isEmpty then s else
      (s.dropLines fun l => l.unit == l1).leaveNone fun _ => true)
    else .done (g.actives.foldl (fun (t : State) l =>
      match t.cctlLine (g.ea l a.toNat 0) with
      | (none, t) => t
      | (some (k, home), t) =>
        match i.toNat, home with
        | 0, some h => if t.poisonedAt h 64 then t else (t.readAt g.pkg g.core true 0 h 64).2
        | 1, some h => if t.poisonedAt h 64 then t else t.putLine (t.dieCache g.pkg (dieOf g.core)) dc k (t.bytes h 64)
        | 2, _ => t.discardLine (fun u => u == l1) k
        | 3, _ => t.discardLine (fun u => u == l1 || u == dc) k
        | _, _ => t) s)

/-! ### Level allocation (R113, R300) -/

/-- The lowest 64-byte-aligned offset in [lo, hi) where `need` bytes fit beside the used spans (R113, R437). -/
def fitSpan (lo hi need : Nat) (used : List (Nat × Nat)) : Option Nat :=
  let cands := (ceilDiv lo 64 * 64) :: used.map fun u => ceilDiv (u.1 + u.2) 64 * 64
  let ok := cands.filter fun c => decide (lo ≤ c) && decide (c + need ≤ hi) &&
    used.all fun u => decide (c + need ≤ u.1) || decide (u.1 + u.2 ≤ c)
  match ok with
  | [] => none
  | c :: t => some (t.foldl min c)

/-- The pool of a tile begins after its barrier objects (R111). -/
def State.poolStart (s : State) (t : Tile) : Nat := 0x40 + 32 * ((s.treeOf t).map fun tr => (tr.level t.depth).barobj).getD 0

/-- A span of a tile's pool, when one fits. -/
def State.poolFit (s : State) (t : Tile) (need : Nat) : Option Nat :=
  fitSpan (s.poolStart t) (t.memb - 64) need (t.spans.map fun sp => (sp.off, sp.len))

/-- The tile whose pool LALLOC and LFREE of a group reach: its own crew's (R113). -/
def State.poolTile (s : State) (lvl : Nat) : Option Tile :=
  match s.windowTile s.g lvl with
  | some t => if t.crew = s.g.crew ∧ !s.g.priv then some t else none
  | none => none

def execLalloc (d a i : BitVec 6) (n : Ann) (s : State) : Outcome State Fault Refusal :=
  issue (.lalloc d a i n) true s fun s =>
    let size := (s.g.sreg a.toNat).toNat
    let reply := fun (t : State) (w : Nat) => Res.done { t with g := t.g.postS d.toNat (BitVec.ofNat 32 w) }
    match s.poolTile i.toNat with
    | none => reply s 0x80000001
    | some t =>
      let need := ceilDiv size 64 * 64 + 128
      if size = 0 then reply s 0x80000003 else
      match s.poolFit t need with
      | none => reply s 0x80000002
      | some o =>
        reply ((s.modTile t.id fun t => { t with spans := t.spans ++ [⟨o, need, true, some (s.g.id, s.g.nextSb)⟩] }).spoil
          (t.home + o + 64) (need - 128)) (o + 64)

def execLfree (d a i : BitVec 6) (n : Ann) (s : State) : Outcome State Fault Refusal :=
  issue (.lfree d a i n) true s fun s =>
    let off := (s.g.sreg a.toNat).toNat
    let reply := fun (t : State) (w : Nat) => Res.done { t with g := t.g.postS d.toNat (BitVec.ofNat 32 w) }
    match s.poolTile i.toNat with
    | none => reply s 0x80000001
    | some t =>
      if t.spans.any fun sp => sp.block && sp.off + 64 == off then
        reply (s.modTile t.id fun t => { t with spans := t.spans.filter fun sp => !(sp.block && sp.off + 64 == off) }) 0
      else reply s 0x80000004

/-! ### Layout records (R121, R122, R301) -/

/-- The lowest number from 1 on that a list of used numbers leaves free. -/
def lowestFree (used : List Nat) : Nat := ((List.range (used.length + 1)).map (· + 1)).find? (fun k => !used.contains k) |>.getD 1

/-- A validated record takes the lowest free handle, or the code of R121 is answered. -/
def State.makeHandle (s : State) (b : List Byte) : Nat × State :=
  let g := s.g
  let l := Layout.ofBytes b
  let rgn := if l.loc = 0 then s.region? g.pkg g.ctx l.region else none
  match l.check b (s.reduced g.pkg) rgn with
  | 0 =>
    let k := lowestFree ((s.handles.filter fun h => h.pkg == g.pkg && h.ctx == g.ctx).map Handle.h)
    if 65535 < k then (0x80000007, s)
    else (k, { s with handles := s.handles ++ [⟨g.pkg, g.ctx, k, b, rgn, 0, none, false⟩] })
  | c => (0x80000000 + c, s)

/-- TLMAKE: a WEAK load of the record, its validation, and the handle (R121, R301). -/
def execTlmake (d a : BitVec 6) (n : Ann) (s : State) : Outcome State Fault Refusal :=
  issue (.tlmake d a n) true s fun s =>
    let g := s.g
    let va := g.s2 a.toNat
    let reply := fun (t : State) (w : Nat) => Res.done { t with g := t.g.postS d.toNat (BitVec.ofNat 32 w) }
    if (s.place g va).isNone then .trap 0x06 0 g.lowLane
    else if va % 64 ≠ 0 then reply s 0x80000001
    else if g.acqPending || s.underWay g.id then .hold
    else match s.fetchStruct g va 64 with
      | (none, _) => .trap 0x06 0 g.lowLane
      | (some b, t) =>
        match t.overlay g (s.loc g va) b with
        | none => .hold
        | some b => let (w, t) := t.makeHandle b; reply t w

/-- A command or stream still names a dropped handle (R122). -/
def State.handleInUse (s : State) (h : Handle) : Bool :=
  (s.cmds.any fun c => c.pkg == h.pkg && c.ctx == h.ctx && c.hnds.contains h.h) ||
  s.streams.any fun t => match t.hnd with
    | some k => k.pkg == h.pkg && k.ctx == h.ctx && k.h == h.h
    | none => false

/-- Dropped handles that no command names any more become free (R122). -/
def State.purgeHandles (s : State) : State :=
  { s with handles := s.handles.filter fun h => !h.dropped || s.handleInUse h }

def execTldrop (d a : BitVec 6) (n : Ann) (s : State) : Outcome State Fault Refusal :=
  issue (.tldrop d a n) true s fun s =>
    let g := s.g
    let reply := fun (t : State) (w : Nat) => Res.done { t with g := t.g.postS d.toNat (BitVec.ofNat 32 w) }
    match s.handle? g.pkg g.ctx (g.sreg a.toNat).toNat with
    | none => reply s 0x80000001
    | some h =>
      let mark := fun (x : Handle) => if x.pkg = h.pkg ∧ x.ctx = h.ctx ∧ x.h = h.h then { x with dropped := true } else x
      reply ({ s with handles := s.handles.map mark }.purgeHandles) 0

def execTlqry (d a i : BitVec 6) (n : Ann) (s : State) : Outcome State Fault Refusal :=
  issue (.tlqry d a i n) true s fun s =>
    let g := s.g
    let w := match s.handle? g.pkg g.ctx (g.sreg a.toNat).toNat with
      | none => 0
      | some h => if i.toNat = 16 then 2 ^ 31 + h.committed else leField h.bytes (4 * i.toNat) 4
    .done { s with g := g.postS d.toNat (BitVec.ofNat 32 w) }

end Sys2Proof.Machine
end

