-- ==== Sys2Proof/Machine/Barrier.lean ====
section
/-! DEFINITION. Barrier objects (R302 to R312): words, arrivals, flips, waits, links, and guard reports R115. -/

namespace Sys2Proof.Machine

open Host (Outcome)

/-! ### The object in memory (R302 to R304) -/

/-- Word k of the object at a key, and its writing. -/
def State.barWord (s : State) (obj k : Nat) : Nat := s.num (obj + 8 * k) 8
def State.setBarWord (s : State) (obj k x : Nat) : State := s.setNum (obj + 8 * k) 8 x

def barExp (w : Nat) : Nat := field w 15 0
def barPend (w : Nat) : Nat := field w 31 16
def barPh (w : Nat) : Bool := flag w 32
def barLnk (w : Nat) : Bool := flag w 33
def barHeld (w : Nat) : Bool := flag w 34

/-- Word 0 with its fields set. -/
def barWord0 (exp pend : Nat) (ph lnk held : Bool) : Nat :=
  exp % 2 ^ 16 + pend % 2 ^ 16 * 2 ^ 16 + (if ph then 2 ^ 32 else 0) + (if lnk then 2 ^ 33 else 0) + (if held then 2 ^ 34 else 0)

def State.barDev (s : State) (obj : Nat) : BarDev := (s.bars.find? fun b => b.obj == obj).getD ⟨obj, [], []⟩
def State.modBarDev (s : State) (obj : Nat) (f : BarDev → BarDev) : State :=
  let b := f (s.barDev obj)
  let rest := s.bars.filter fun b => b.obj != obj
  { s with bars := if b.queue.isEmpty && b.kids.isEmpty then rest else b :: rest }

/-- The domain of an object's memory (R154): its level, or PKG and POD alike for package memory. -/
def barDomain (obj : Nat) : Nat := if keyKind obj = 0 then 5 else keyKind obj

/-- The innermost tile whose allocation holds a key of level memory. -/
def State.ownerTile (s : State) (k : Nat) : Option Tile :=
  s.tiles.foldl (fun a t =>
    if 1 ≤ t.dom ∧ t.dom ≤ 3 ∧ t.home ≤ k ∧ k < t.home + t.memb then
      match a with
      | some b => if b.depth < t.depth then some t else a
      | none => some t
    else a) none

/-- The parent object that word 1 names (R303): a window offset of the ancestor tile of its domain, or a region-0 address. -/
def State.barParent (s : State) (ctx obj : Nat) : Option Nat :=
  let w := s.barWord obj 1
  let plv := field w 2 0
  if 1 ≤ plv ∧ plv ≤ 3 then
    (s.ancestor plv 9 ((s.ownerTile obj).map Tile.id)).map fun t => t.home + field w 39 8
  else
    let va := field w 52 8 * 2 ^ 8
    let pkg := if flag va 52 then keyPkgOf obj else field va 51 40
    (s.translate pkg ctx (field va 39 0) 3).1.map fun pa => keyPkg pkg pa

/-- The domain at which an object's arrivals release and its waits acquire: that of its tree's root, up the links (R154). -/
def State.rootDomain (s : State) (ctx : Nat) : Nat → Nat → Nat → Nat
  | 0, dom, _ => dom
  | n + 1, dom, obj =>
    if barLnk (s.barWord obj 0) then
      let dom := max dom (field (s.barWord obj 1) 2 0)
      match s.barParent ctx obj with
      | some p => s.rootDomain ctx n dom p
      | none => dom
    else dom

/-! ### Answers to groups -/

/-- Values for a pending entry's targets, in the order it lists them. -/
def Group.answerSb (g : Group) (id : Nat) (vals : List Word) : Group :=
  { g with sb := g.sb.map fun e =>
      if e.id = id then { e with writes := ((List.range e.writes.length).zip e.writes).map fun kw =>
        (kw.2.1, kw.2.2.or (some (vals.getD kw.1 0))) } else e }

/-- A pending operation of the privileged slot settles with a reply (R370, R373). -/
def State.sysReply (s : State) (o : SysOp) (w : Nat) : State :=
  { s with sysops := s.sysops.filter fun x => x != o }.modGroup o.gid fun g => g.answerSb o.sb [BitVec.ofNat 32 w]

/-- Rewrite the unretired commands of every group. -/
def State.mapUnretired (s : State) (f : Unretired → Unretired) : State :=
  s.mapGroups fun g => { g with unretired := g.unretired.map f }

/-- A wait at an object ends with a status: the pair is written, the group goes on with its arrival record cleared (of another
object too when a phase completes) and has acquired (R154, R310), and, when a phase completes, has retired its commands that arrived in it (R166); a crew whose group
reported its guard record into that phase traps with GUARD instead, and where no phase took the report (no object, or a BINIT)
it keeps the record (R115). -/
def State.endBarWait (s : State) (phase : Bool) (gid idx obj dst st : Nat) : State :=
  match s.group? gid with
  | none => s
  | some g =>
    let s := s.acquire g (s.rootDomain g.ctx 16 (barDomain obj) obj)
    let s := if phase then s.modGroup gid fun g => g.retire fun u => u.phases.contains (obj, true) else s
    let clear := fun (g : Group) => { g with arr := g.arr.filter fun r => !phase && r.obj != obj }
    let report := !g.priv && match (s.crew? g.crew).bind Crew.guard with
      | some r => r.by_ == gid
      | none => false
    if report && phase then
      ((s.modCrew g.crew fun c => { c with guard := none }).modGroup gid clear).trapAt gid idx 0x07 0
    else
      let s := if report then s.modCrew g.crew fun c => { c with guard := c.guard.map fun r => { r with by_ := 0 } } else s
      s.modGroup gid fun g => clear ((g.setS2 0 dst st).wake idx)

/-- The splits that wait on an object: group, split, destination; with `all`, those too whose own arrival is still queued there. -/
def State.barWaiters (s : State) (all : Bool) (obj : Nat) : List (Nat × Nat × Nat) :=
  s.allGroups.flatMap fun g => g.splits.filterMap fun p => match p.wait with
    | .barrier o dst q => if o = obj ∧ (all ∨ !q) then some (g.id, p.idx, dst) else none
    | _ => none

/-- Of an object that an ordinary store has hit, any waiter may be woken by any work at it, with any status (R306). -/
def State.wildWake (s : State) (obj : Nat) : State :=
  if !s.wildBars.contains obj then s else
  (s.barWaiters true obj).foldl (fun (t : State) w =>
    let (coin, t) := t.pick 2
    if coin = 0 then t else
    let (st, t) := t.pick (2 ^ 64)
    t.endBarWait true w.1 w.2.1 obj w.2.2 st) s

/-- The splits that wait on a phase of the object complete with its status (R309); a BINIT releases those too whose arrival was
queued (R307). -/
def State.wakeBarrier (s : State) (phase : Bool) (obj st : Nat) : State :=
  if phase && s.wildBars.contains obj then s.wildWake obj else
  (s.barWaiters (!phase) obj).foldl (fun t w => t.endBarWait phase w.1 w.2.1 obj w.2.2 st) s

/-- The group that an arrival belongs to. -/
def Arriver.group? : Arriver → Option Nat
  | .group gid => some gid
  | .wait gid _ _ => some gid
  | .test gid _ => some gid
  | _ => none

/-- A group's arrival has folded in a phase of parity ph: its record takes the parity, and its waits that hung on a queued arrival
wait on that phase; `more` when a later arrival of the group is still queued, on which the others hang (R309, R310). -/
def Group.arrivalFolded (g : Group) (who : Arriver) (obj : Nat) (ph more : Bool) : Group :=
  { g with
    arr := match g.arr with
      | some r => if r.obj = obj ∧ !more then some ⟨obj, ph, false⟩ else some r
      | none => none
    splits := g.splits.map fun p => match p.wait with
      | .barrier o dst true => if o = obj ∧ (!more ∨ who = .wait g.id p.idx dst) then { p with wait := .barrier o dst false } else p
      | _ => p }

/-- What the device keeps of saved groups, rewritten. -/
def State.mapSaved (s : State) (f : SavedGroup → SavedGroup) : State :=
  if s.saved.isEmpty then s
  else { s with saved := s.saved.map fun (v : Saved) => { v with groups := v.groups.map f } }

/-- The same for a group whose crew is saved (R309, R312). -/
def SavedGroup.arrivalFolded (v : SavedGroup) (who : Arriver) (obj : Nat) (ph more : Bool) : SavedGroup :=
  let g := Group.arrivalFolded { Group.empty with id := v.gid, arr := v.arr, splits := v.parked } who obj ph more
  { v with arr := g.arr, parked := g.splits }

/-- The arrival of a group, on its core or saved, has folded. -/
def State.groupFolded (s : State) (who : Arriver) (gid obj : Nat) (ph more : Bool) : State :=
  (s.modGroup gid fun g => g.arrivalFolded who obj ph more).mapSaved fun v => if v.gid = gid then v.arrivalFolded who obj ph more else v

/-- An arrival folds in a phase of parity ph; `last` when it completes the local phase. -/
def State.arrivalFolds (s : State) (who : Arriver) (obj : Nat) (ph last more : Bool) : State :=
  match who with
  | .engine cmd => s.mapUnretired fun u => if u.id = cmd then { u with phases := (obj, false) :: u.phases } else u
  | .group gid => s.groupFolded who gid obj ph more
  | .wait gid _ _ => s.groupFolded who gid obj ph more
  | .test gid sb => s.modGroup gid fun g =>
      (g.arrivalFolded who obj ph more).answerSb sb [BitVec.ofNat 32 ((if ph then 1 else 0) + if last then 2 else 0), 0]
  | .child c =>
    (s.modBarDev obj fun b => { b with kids := b.kids ++ [c] }).mapUnretired fun u =>
      if u.phases.contains (c, false) then { u with phases := (obj, false) :: u.phases } else u

/-- A group's arrival queues at a HELD object: its record hangs on it (R309). -/
def State.arrivalQueued (s : State) (who : Arriver) (obj : Nat) : State :=
  match who.group? with
  | some gid => s.modGroup gid fun g => { g with arr := g.arr.map fun r => if r.obj = obj then { r with queued := true } else r }
  | none => s

/-- What an arrival is told of an uninitialised object, or of a BINIT that discards it (R307, R309). -/
def State.arrivalRefused (s : State) (who : Arriver) (obj st : Nat) : State :=
  match who with
  | .wait gid idx dst => s.endBarWait false gid idx obj dst st
  | .test gid sb => s.modGroup gid fun g => g.answerSb sb [loWord st, hiWord st]
  | .engine _ => s
  | .group _ => s
  | .child _ => s

/-! ### Arrivals and flips (R309) -/

/-- A phase of an object completes for the commands that arrived in it, and for its linked children too (R154, R166). -/
def Unretired.flip (u : Unretired) (obj : Nat) (kids : List Nat) : Unretired :=
  let rest := u.phases.filter fun p => p.1 != obj
  if u.phases.contains (obj, false) then { u with phases := (obj, true) :: kids.map (fun c => (c, false)) ++ rest }
  else { u with phases := rest }

/-- Work at barrier objects, done in order. -/
inductive BarTask where
  | arrive (obj : Nat) (f : Fold) (who : Arriver)
  | flip (obj st : Nat)

/-- Arrivals of a group at an object among work to do. -/
def BarTask.of (obj : Nat) (gid : Option Nat) : BarTask → Bool
  | .arrive o _ who => o == obj && gid.isSome && who.group? == gid
  | .flip _ _ => false

/-- Run the work of R309, by fuel. -/
def State.barRun (s : State) (ctx : Nat) : Nat → List BarTask → State
  | 0, _ => s
  | _, [] => s
  | n + 1, .flip obj st :: rest =>
    let w := s.barWord obj 0
    let d := s.barDev obj
    let s := ((s.setBarWord obj 3 st).setBarWord obj 2 0).setBarWord obj 0
      (barWord0 (barExp w) (barPend w) (!barPh w) (barLnk w) false)
    let s := s.modBarDev obj fun b => { b with queue := [], kids := [] }
    let s := (s.mapUnretired fun u => u.flip obj d.kids).wakeBarrier true obj st
    -- a WAIT packet waits for the next flip (R383)
    let s := { s with qpkts := s.qpkts.filter fun q => q.obj != some obj }
    -- a child that is no longer linked and held is passed by (R307)
    let kids := (d.kids.filter fun c => barLnk (s.barWord c 0) && barHeld (s.barWord c 0)).map fun c => BarTask.flip c st
    s.barRun ctx n (kids ++ (d.queue.map fun q => BarTask.arrive obj q.1 q.2) ++ rest)
  | n + 1, .arrive obj f who :: rest =>
    let s := s.wildWake obj
    let w := s.barWord obj 0
    if barExp w = 0 then
      match who with
      | .child c => s.barRun ctx n (.flip c (foldStatus (s.barWord c 2) ⟨2 ^ 7, 0, 0x0401⟩) :: rest)
      | _ => (s.arrivalRefused who obj statusUninit).barRun ctx n rest
    else if barHeld w then
      ((s.arrivalQueued who obj).modBarDev obj fun b => { b with queue := b.queue ++ [(f, who)] }).barRun ctx n rest
    else
      let w2 := foldStatus (s.barWord obj 2) f
      let pend := (barPend w + 2 ^ 16 - 1) % 2 ^ 16
      let s := (s.setBarWord obj 2 w2).arrivalFolds who obj (barPh w) (pend == 0) (rest.any (BarTask.of obj who.group?))
      if pend ≠ 0 then
        (s.setBarWord obj 0 (barWord0 (barExp w) pend (barPh w) (barLnk w) false)).barRun ctx n rest
      else if !barLnk w then
        (s.setBarWord obj 0 (barWord0 (barExp w) (barExp w) (barPh w) false false)).barRun ctx n (.flip obj w2 :: rest)
      else
        let s := s.setBarWord obj 0 (barWord0 (barExp w) (barExp w) (barPh w) true true)
        match s.barParent ctx obj with
        | some p => s.barRun ctx n (.arrive p (statusFold w2) (.child obj) :: rest)
        | none => s.barRun ctx n (.flip obj (foldStatus w2 ⟨2 ^ 7, 0, 0x0401⟩) :: rest)

/-- Work that always suffices: every queued arrival and every object, several times over. -/
def barFuel : Nat := 100000

/-- One arrival on an object (R309). -/
def State.arrive (s : State) (ctx obj : Nat) (f : Fold) (who : Arriver) : State := s.barRun ctx barFuel [.arrive obj f who]

/-! ### Naming an object (R306) -/

/-- Check 3 of R226: at PKG and POD an object's field names a pair (R306). -/
def pairNamed (lv : Nat) (a : BitVec 6) : Bool := !(lv == 4 || lv == 5) || a.toNat % 2 == 0

def State.barLegal (s : State) (lv : BitVec 3) (a : BitVec 6) : Bool := pairNamed (s.resolve s.g lv.toNat) a

/-- The key of the object that a resolved level and register values name, or the trap. -/
def State.barName (s : State) (lv : Nat) (lo pair : Nat) : (Nat ⊕ Nat) × State :=
  if 1 ≤ lv ∧ lv ≤ 3 then
    match s.windowTile s.g lv with
    | none => (.inl 0x06, s)
    | some t =>
      if lo % 32 ≠ 0 then (.inl 0x05, s)
      else if s.guardHit (t.home + lo) lo t.memb 32 then (.inl 0x06, s)
      else (.inr (t.home + lo), s)
  else if lv = 4 ∨ lv = 5 then
    if pair % 32 ≠ 0 then (.inl 0x05, s)
    else match s.place s.g pair with
      | some (.home pkg off) =>
        if (lv = 4 ∧ pkg ≠ s.g.pkg) ∨ !(s.pkg pkg).member then (.inl 0x06, s)
        else match s.translate pkg s.g.ctx off 3 with
          | (some pa, s) => (.inr (keyPkg pkg pa), s)
          | (none, s) => (.inl 0x06, s)
      | _ => (.inl 0x06, s)
  else (.inl 0x06, s)

/-- The object named by a register field at a level code. -/
def State.barNamed (s : State) (lv : Nat) (a : BitVec 6) : (Nat ⊕ Nat) × State :=
  s.barName lv (s.g.sreg a.toNat).toNat (s.g.s2 a.toNat)

/-- The frame of a barrier instruction: the level resolved, GRP answered at once, the object named (R306). -/
def barrierOp (s : State) (lv : BitVec 3) (a : BitVec 6) (grp : State → Res) (body : State → Nat → Res) : Res :=
  let r := s.resolve s.g lv.toNat
  if r = 0 then grp s
  else match s.barNamed r a with
    | (.inl code, _) => .trap code 0 s.g.lowLane
    | (.inr obj, s) => body s obj

/-! ### BINIT and BLINK (R307, R308) -/

def execBinit (d a : BitVec 6) (i : BitVec 3) (n : Ann) (s : State) : Outcome State Fault Refusal :=
  issue (.binit d a i n) (s.barLegal i a) s fun s =>
    barrierOp s i a .done fun s obj =>
      let k := (s.g.sreg d.toNat).toNat
      let ctx := s.g.ctx
      let dev := s.barDev obj
      let s := s.setBarWord obj 0 (if 1 ≤ k ∧ k ≤ 65535 then k + k * 2 ^ 16 else 0)
      let s := ((s.setBarWord obj 1 0).setBarWord obj 2 0).setBarWord obj 3 0
      let s := s.modBarDev obj fun b => { b with queue := [], kids := [] }
      let s := s.wakeBarrier false obj statusReinit
      let s := dev.queue.foldl (fun (t : State) q => match q.2 with
        | .test _ _ => t.arrivalRefused q.2 obj statusReinit
        | _ => t) s
      let s := s.mapGroups fun g => { g with arr := g.arr.filter fun r => r.obj != obj }
      let s := s.mapSaved fun v => { v with arr := v.arr.filter fun r => r.obj != obj }
      let s := s.mapUnretired fun u => { u with phases := u.phases.filter fun p => p.1 != obj }
      let live := s.liveBars.filter fun o => o != obj
      let s := { s with liveBars := if 1 ≤ k ∧ k ≤ 65535 then obj :: live else live, wildBars := s.wildBars.filter fun o => o != obj }
      let held := dev.kids.filter fun c => barLnk (s.barWord c 0) && barHeld (s.barWord c 0)
      .done (s.barRun ctx barFuel (held.map fun c => .flip c statusReinit))

/-- The levels that BLINK's s[D] names, resolved: the child's and the parent's (R308). -/
def State.linkLevels (s : State) (d : BitVec 6) : Nat × Nat :=
  let w := (s.g.sreg d.toNat).toNat
  (s.resolve s.g (w % 8), s.resolve s.g (w / 8 % 8))

/-- The accepted levels of BLINK, and even fields for pairs (R14, R226, R308), once s[D] may be read. -/
def State.blinkLegal (s : State) (i : Instr) (d a b : BitVec 6) : Bool :=
  let (cl, pl) := s.linkLevels d
  s.g.blocked (uses s i) || (cl != 0 && pairNamed cl a && (b == 0 || (pl != 0 && decide (cl ≤ pl) && pairNamed pl b)))

def execBlink (d a b : BitVec 6) (n : Ann) (s : State) : Outcome State Fault Refusal :=
  issue (.blink d a b n) (s.merged.blinkLegal (.blink d a b n) d a b) s fun s =>
    let g := s.g
    let (cl, pl) := s.linkLevels d
    match s.barNamed cl a with
    | (.inl c, _) => .trap c 0 g.lowLane
    | (.inr obj, s) =>
      let w0 := s.barWord obj 0
      if b = 0 then
        let s := (s.setBarWord obj 0 (barWord0 (barExp w0) (barPend w0) (barPh w0) false (barHeld w0))).setBarWord obj 1 0
        .done (if barHeld w0 then s.barRun g.ctx barFuel [.flip obj (s.barWord obj 2)] else s)
      else match s.barNamed pl b with
        | (.inl c, _) => .trap c 0 g.lowLane
        | (.inr _, s) =>
          let va := g.s2 b.toNat
          if 4 ≤ pl ∧ va % 256 ≠ 0 then .trap 0x05 0 g.lowLane
          else
            let ploc := if 4 ≤ pl then va % 2 ^ 53 / 2 ^ 8 * 2 ^ 8 else (g.sreg b.toNat).toNat * 2 ^ 8
            .done ((s.setBarWord obj 1 (ploc + pl)).setBarWord obj 0
              (barWord0 (barExp w0) (barPend w0) (barPh w0) true (barHeld w0)))

/-! ### Arrivals and waits (R310, R311) -/

/-- An arrival of the issuing group sets its record: of the phase it counts in, or queued (R309, R310). -/
def State.recordArrival (s : State) (obj : Nat) : State :=
  let w := s.barWord obj 0
  if barExp w = 0 then s
  else { s with g := { s.g with arr := some ⟨obj, barPh w, barHeld w⟩ } }

/-- The domain at which an arrival of the issuing group at an object is a release: the level it names it at, or its tree's root's
(R154). -/
def State.relDomain (s : State) (lv : BitVec 3) (obj : Nat) : Nat := s.rootDomain s.g.ctx 16 (s.resolve s.g lv.toNat) obj

/-- The issuing group arrives at an object; its arrival is a release (R154, R309, R310). -/
def State.arriveHere (s : State) (obj : Nat) (f : Fold) (who : Arriver) : State :=
  let s := s.recordArrival obj
  { s with g := s.g.handOn }.arrive s.g.ctx obj f who

/-- BARA and BARX: an arrival that is a release at the object's domain (R154, R293). -/
def arriveOp (s : State) (i : BitVec 3) (a : BitVec 6) (f : Fold) : Res :=
  barrierOp s i a .done fun s obj =>
    if s.relWaits (s.relDomain i obj) then .hold
    else .done (s.arriveHere obj f (.group s.g.id))

def execBara (a : BitVec 6) (i : BitVec 3) (n : Ann) (s : State) : Outcome State Fault Refusal :=
  issue (.bara a i n) (s.barLegal i a) s fun s => arriveOp s i a Fold.none

def execBarx (d a : BitVec 6) (i : BitVec 3) (n : Ann) (s : State) : Outcome State Fault Refusal :=
  issue (.barx d a i n) (s.barLegal i a) s fun s =>
    let w := (s.g.sreg d.toNat).toNat
    arriveOp s i a ⟨field w 13 0, 0, field w 31 16⟩

def execBart (d a : BitVec 6) (i : BitVec 3) (n : Ann) (s : State) : Outcome State Fault Refusal :=
  issue (.bart d a i n) (s.barLegal i a) s fun s =>
    barrierOp s i a (fun s => .done { s with g := s.g.postS2 d.toNat 0 }) fun s obj =>
      if s.relWaits (s.relDomain i obj) then .hold
      else
        let sb := s.g.nextSb
        let s := { s with g := s.g.post [(.s d.toNat, none), (.s (d.toNat + 1), none)] }
        .done (s.arriveHere obj Fold.none (.test s.g.id sb))

/-- The nearest object up the chain of parents that is not HELD, or the root (R115). -/
def State.openAncestor (s : State) (ctx : Nat) : Nat → Nat → Nat
  | 0, obj => obj
  | n + 1, obj =>
    if barHeld (s.barWord obj 0) then
      match s.barParent ctx obj with
      | some p => s.openAncestor ctx n p
      | none => obj
    else obj

/-- The guard record that the issuing group's crew has to report at an object of this domain (R115). -/
def State.guardDue (s : State) (obj : Nat) : Option GuardRec :=
  if s.g.priv then none else
  match (s.crew? s.g.crew).bind Crew.guard with
  | some r => if r.by_ = 0 ∧ r.level = barDomain obj then some r else none
  | none => none

def GuardRec.fold (r : GuardRec) : Fold := ⟨1, min 65535 r.count, 0x07⟩

/-- The group takes on the report of its crew's guard record. -/
def State.reportGuard (s : State) : State :=
  s.modCrew s.g.crew fun c => { c with guard := c.guard.map fun r => { r with by_ := s.g.id } }

/-- The issuing split, after work at the object, has completed or waits on. -/
def barOutcome (s : State) : Res :=
  match s.g.issuing.wait with
  | .barrier o dst q => .wait { s with g := s.g.modSplit s.g.cur fun p => { p with wait := .none } } (.barrier o dst q)
  | _ => .jump s

/-- The issuing split waits at an object. -/
def State.waitBar (s : State) (obj dst : Nat) (queued : Bool) : State :=
  { s with g := s.g.modSplit s.g.cur fun p => { p with wait := .barrier obj dst queued } }

def execBarw (d a : BitVec 6) (i : BitVec 3) (n : Ann) (s : State) : Outcome State Fault Refusal :=
  issue (.barw d a i n) (s.barLegal i a) s fun s =>
    barrierOp s i a (fun s => .done { s with g := s.g.postS2 d.toNat 0 }) fun s obj =>
      let s := s.wildWake obj
      let w := s.barWord obj 0
      let due := s.guardDue obj
      let s := if due.isSome then s.reportGuard else s
      let fold := fun (t : State) (o k : Nat) => match due with
        | some r => t.setBarWord o k (foldStatus (t.barWord o k) r.fold)
        | none => t
      let now := fun (t : State) (phase : Bool) (st : Nat) =>
        barOutcome ((t.waitBar obj d.toNat false).endBarWait phase t.g.id t.g.cur obj d.toNat st)
      if barExp w = 0 then
        now s false statusUninit
      else
        let mine := s.g.arr.filter fun r => r.obj == obj
        match mine with
        | some r =>
          if !r.queued && r.parity != barPh w then
            let s := fold s obj 3
            now s true (s.barWord obj 3)
          else
            let s := fold s (if barHeld w then s.openAncestor s.g.ctx 16 obj else obj) 2
            barOutcome (s.waitBar obj d.toNat r.queued)
        | none =>
          let s := fold s (if barHeld w then s.openAncestor s.g.ctx 16 obj else obj) 2
          barOutcome (s.waitBar obj d.toNat false)

def execBaraw (d a : BitVec 6) (i : BitVec 3) (n : Ann) (s : State) : Outcome State Fault Refusal :=
  issue (.baraw d a i n) (s.barLegal i a) s fun s =>
    barrierOp s i a (fun s => .done { s with g := s.g.postS2 d.toNat 0 }) fun s obj =>
      if s.relWaits (s.relDomain i obj) then .hold
      else
        let held := barHeld (s.barWord obj 0)
        let due := s.guardDue obj
        let s := if due.isSome then s.reportGuard else s
        let own := ((due.map GuardRec.fold).getD Fold.none)
        -- a report goes with the arrival: into the open phase, or into the phase in which a queued arrival folds
        let s := s.waitBar obj d.toNat held
        barOutcome (s.arriveHere obj own (.wait s.g.id s.g.cur d.toNat))

end Sys2Proof.Machine
end

