-- ==== Sys2Proof/Machine/Port.lean ====
section
/-! DEFINITION. Neighbour ports (R177 to R192, R333 to R337): queues, bindings, PUSH, PUSHR, POP, PEEK, PQRY, PLINK, and their events. -/

namespace Sys2Proof.Machine

open Host (Outcome)

/-! ### Topology and queues (R177 to R179) -/

/-- The opposite port of a port code (R177). -/
def opposite (port : Nat) : Nat :=
  match port with
  | 0 => 1 | 1 => 0 | 2 => 4 | 4 => 2 | 3 => 5 | _ => 3

/-- The core that a link port of a core leads to (R179). -/
def linkCore (core port : Nat) : Option Nat :=
  let y := rowOf core
  let x := colOf core
  match port with
  | 2 => if y = 0 then none else some (coreAt (y - 1) x)
  | 3 => if x = 47 then none else some (coreAt y (x + 1))
  | 4 => if y = 23 then none else some (coreAt (y + 1) x)
  | _ => if x = 0 then none else some (coreAt y (x - 1))

/-- The domain of a port's link: GRP, CLU, DIE or PKG (R178). -/
def linkDomain (core port : Nat) : Nat :=
  if port < 2 then 0 else
  match linkCore core port with
  | none => 0
  | some c => if dieOf c ≠ dieOf core then 4 else if cluOf c ≠ cluOf core then 3 else 2

/-- Places in an input queue of a port (R178). -/
def portDepth (core port : Nat) : Nat :=
  match linkDomain core port with
  | 0 => 2
  | 4 => 32
  | _ => 8

def Group.link? (g : Group) (port : Nat) : Option Link := g.links.find? fun l => l.port == port

/-- The input queue of a lane at a port, and its replacement. -/
def Group.portQ (g : Group) (port lane : Nat) : List PortVal :=
  match port with
  | 0 => (g.lane lane).inP
  | 1 => (g.lane lane).inM
  | _ => ((g.linkq.find? fun q => q.port == port && q.lane == lane).map LinkQueue.vals).getD []

def Group.setPortQ (g : Group) (port lane : Nat) (vals : List PortVal) : Group :=
  match port with
  | 0 => g.modLane lane fun l => { l with inP := vals }
  | 1 => g.modLane lane fun l => { l with inM := vals }
  | _ =>
    let rest := g.linkq.filter fun q => !(q.port == port && q.lane == lane)
    { g with linkq := if vals.isEmpty then rest else rest ++ [⟨port, lane, vals⟩] }

/-- The partner of a lane at a port: its group and lane; none for an unbound link port (R177). -/
def State.portPartner (s : State) (g : Group) (port lane : Nat) : Option (Group × Nat) :=
  match port with
  | 0 => some (g, (lane + 1) % g.width)
  | 1 => some (g, (lane + g.width - 1) % g.width)
  | _ => ((g.link? port).bind fun l => s.group? l.partner).map fun h => (h, lane)

/-- The partner lane is live (R42, R186). -/
def State.partnerLive (s : State) (g : Group) (port lane : Nat) : Bool :=
  match s.portPartner g port lane with
  | some (h, l) => h.laneLive l
  | none => false

/-! ### PUSH and PUSHR (R185, R186, R189, R334) -/

/-- What a PUSHR value waits for at its link's domain: the group's queued stores and its accesses under way; stores to other
packages hold no release short of POD (R147, R148). -/
def State.releaseNeeds (s : State) (dom : Nat) : List Nat :=
  let g := s.g
  if dom = 0 then [] else
  g.sq.map StoreEntry.id ++ (s.net.filter fun p => p.gid == g.id && (p.sb.isSome || p.inside)).map Packet.id

/-- A store or access that a PUSHR value waits for has taken effect. -/
def State.needDone (s : State) (id : Nat) : Bool :=
  !((s.allGroups.any fun g => g.sq.any fun e => e.id == id) || s.net.any fun p => p.id == id)

/-- Accesses of a store-queue entry are under way inside the package: values that wait for the entry wait for them (R157, R189). -/
def State.alsoNeed (s : State) (entry : Nat) : State :=
  let pkts := (s.net.filter fun p => p.seq == entry && p.inside).map Packet.id
  if pkts.isEmpty then s else
  let more := fun (v : PortVal) => if v.need.contains entry then { v with need := (v.need ++ pkts).eraseDups } else v
  s.mapGroups fun g => { g with linkq := g.linkq.map fun (q : LinkQueue) => { q with vals := q.vals.map more } }

/-- A push in every active lane at once, or the wait for places, or the trap (R185, R186). -/
def pushOp (s : State) (a : BitVec 6) (port : Nat) (rel : Bool) : Res :=
  let g := s.g
  let ls := g.actives
  if ls.isEmpty then .done s else
  match ls.find? fun l => !s.partnerLive g port l with
  | some l => .trap 0x09 0 l
  | none =>
    let back := opposite port
    let full := ls.any fun l => match s.portPartner g port l with
      | some (h, m) => decide (portDepth h.core back ≤ (h.portQ back m).length)
      | none => false
    if full then .wait s (.port port false)
    else
      let need := if rel then s.releaseNeeds (linkDomain g.core port) else []
      let s := if rel then { s with g := g.handOn } else s
      .done (ls.foldl (fun (t : State) l => match t.portPartner t.g port l with
        | some (h, m) => t.modGroup h.id fun h =>
            h.setPortQ back m (h.portQ back m ++ [⟨g.v l a.toNat, false, rel, need, false⟩])
        | none => t) s)

def execPush (a : BitVec 6) (i : BitVec 3) (n : Ann) (s : State) : Outcome State Fault Refusal :=
  issue (.push a i n) true s fun s => pushOp s a i.toNat false

def execPushr (a : BitVec 6) (i : BitVec 3) (n : Ann) (s : State) : Outcome State Fault Refusal :=
  issue (.pushr a i n) true s fun s => pushOp s a i.toNat true

/-! ### POP, PEEK, PQRY (R185, R335, R336) -/

/-- The group a port's pushes come from looks again at a queue that has changed (R187). -/
def State.wakePusher (s : State) (g : Group) (port : Nat) : State :=
  if port < 2 then s.modGroup g.id Group.unpark
  else match g.link? port with
    | some l => s.modGroup l.partner Group.unpark
    | none => s

/-- The head entries of the active lanes, or the wait for them, or the trap (R185, R186). A POP that takes a PUSHR value is
an acquire at the link's domain. -/
def popOp (s : State) (d : BitVec 6) (port : Nat) (take : Bool) : Res :=
  let g := s.g
  let ls := g.actives
  if ls.isEmpty then .done s else
  match ls.find? fun l => (g.portQ port l).isEmpty && !s.partnerLive g port l with
  | some l => .trap 0x09 0 l
  | none =>
    let head := fun l => ((g.portQ port l).head?).filter PortVal.landed
    if ls.any fun l => (head l).isNone then .wait s (.port port false)
    else if ls.any fun l => ((head l).map PortVal.bad).getD false then .trap 0x0A 0 g.lowLane
    else
      let g' := g.post (g.targets ls d.toNat fun l => (head l).map PortVal.val)
      if !take then .done { s with g := g' }
      else
        let g' := ls.foldl (fun (h : Group) l => h.setPortQ port l ((h.portQ port l).drop 1)) g'
        let acq := ls.any fun l => ((head l).map PortVal.release).getD false
        let s := { s with g := if acq then g'.setAcq g.nextSb true else g' }.wakePusher g' port
        .done (if acq then s.acquire g (linkDomain g.core port) else s)

def execPop (d : BitVec 6) (i : BitVec 3) (n : Ann) (s : State) : Outcome State Fault Refusal :=
  issue (.pop d i n) true s fun s => popOp s d i.toNat true

def execPeek (d : BitVec 6) (i : BitVec 3) (n : Ann) (s : State) : Outcome State Fault Refusal :=
  issue (.peek d i n) true s fun s => popOp s d i.toNat false

/-- The word PQRY writes for a lane (R336). -/
def State.portWord (s : State) (g : Group) (port lane : Nat) : Nat :=
  let avail := ((g.portQ port lane).filter PortVal.landed).length
  match s.portPartner g port lane with
  | none => avail
  | some (h, m) =>
    let back := opposite port
    (if h.laneLive m then 2 ^ 17 else 0) + 2 ^ 16 + (portDepth h.core back - (h.portQ back m).length) * 2 ^ 8 + avail

def execPqry (d : BitVec 6) (i : BitVec 3) (n : Ann) (s : State) : Outcome State Fault Refusal :=
  issue (.pqry d i n) true s fun s =>
    .done { s with g := s.g.post (s.g.targets s.g.actives d.toNat fun l => some (BitVec.ofNat 32 (s.portWord s.g i.toNat l))) }

/-! ### PLINK (R183, R337) -/

/-- A split of a group that waits in PLINK at a port with a tag: the split and its destination. -/
def Group.plinkWait (g : Group) (port tag : Nat) : Option (Nat × Nat) :=
  if g.stop.isSome then none else
  g.splits.findSome? fun p => match p.wait with
    | .plink q t d => if q = port ∧ t = tag then some (p.idx, d) else none
    | _ => none

/-- Two groups are bound, g through a port and h through the opposite one. -/
def State.bindLink (s : State) (gid hid port tag : Nat) (byPlink : Bool) : State :=
  (s.modGroup gid fun g => { g with links := g.links ++ [⟨port, hid, byPlink, tag⟩] }).modGroup hid fun h =>
    { h with links := h.links ++ [⟨opposite port, gid, byPlink, tag⟩] }

/-- PLINK: a failure code (the lowest that holds), a binding with the facing waiter, or the wait for one. -/
def execPlink (d a : BitVec 6) (i : BitVec 3) (n : Ann) (s : State) : Outcome State Fault Refusal :=
  issue (.plink d a i n) true s fun s =>
    let g := s.g
    let port := i.toNat
    let w := (g.sreg a.toNat).toNat
    let tag := w % 2 ^ 16
    let reply := fun (x : Nat) => Res.done { s with g := g.postS d.toNat (BitVec.ofNat 32 x) }
    if port < 2 ∨ w / 2 ^ 16 ≠ 0 then reply 0x80000010
    else if (g.link? port).isSome then reply 0x80000013
    else match linkCore g.core port with
      | none => reply 0x80000022
      | some c =>
        let back := opposite port
        let facing := s.groups.filter fun h => h.pkg == g.pkg && h.core == c && h.id != 0 &&
          (h.plinkWait back tag).isSome && (h.link? back).isNone
        let fit := facing.filter fun h => h.ctx == g.ctx && h.width == g.width
        match fit with
        | [] => if facing.isEmpty then .wait s (.plink port tag d.toNat) else reply 0x80000020
        | h :: _ =>
          let (idx, dst) := (h.plinkWait back tag).getD (0, 0)
          let s := { s with g := g.postS d.toNat 0 }
          let s := s.modGroup h.id fun h => (h.setS 0 dst 0).wake idx
          .done (s.bindLink g.id h.id port tag true)

def execPlinkUnlink (d : BitVec 6) (i : BitVec 3) (n : Ann) (s : State) : Outcome State Fault Refusal :=
  issue (.plinkUnlink d i n) true s fun s =>
    let g := s.g
    let port := i.toNat
    let reply := fun (t : State) (x : Nat) => Res.done { t with g := t.g.postS d.toNat (BitVec.ofNat 32 x) }
    if port < 2 then reply s 0x80000010
    else match g.link? port with
      | none => reply s 0x80000023
      | some l =>
        let s := s.mapGroups fun h =>
          if h.id = g.id then ({ h with links := h.links.filter fun x => x.port != port }).unpark
          else if h.id = l.partner then ({ h with links := h.links.filter fun x => x.port != opposite port }).unpark
          else h
        reply (s.restartPorts (s.bindSet g.id ++ s.bindSet l.partner)) 0

/-! ### Events (R178, R187, R188) -/

/-- The oldest value in flight of a lane's queue lands; one that is a release, when what it waits for has taken effect. -/
def execPortValueLand (gid port lane : Nat) (s : State) : Outcome State Fault Refusal :=
  .next (match s.group? gid with
    | none => s
    | some g =>
      let q := g.portQ port lane
      let k := q.findIdx fun v => !v.landed
      match q[k]? with
      | none => s
      | some v =>
        if v.need.all s.needDone then
          let s := s.modGroup gid fun g => (g.setPortQ port lane (setNth q k { v with landed := true, need := [] })).unpark
          match g.link? port with
          | some l => s.unbindExited l.partner
          | none => s
        else s)

/-- 256 cycles of the fastest clock, in ns of pod time (R187, R426). -/
def parkAfter : Nat := 134

/-- A group that has waited on a port instruction for more than 256 cycles is parked (R187). -/
def execPortPark (gid split : Nat) (s : State) : Outcome State Fault Refusal :=
  .next (s.modGroup gid fun g => g.modSplit split fun p => match p.wait with
    | .port port false => if p.since + parkAfter < s.time then { p with wait := .port port true } else p
    | _ => p)

/-- Every split of the group waits on a port instruction, PLINK included (R188). -/
def Group.portBlocked (g : Group) : Bool :=
  !g.splits.isEmpty && g.splits.all fun p => match p.wait with
    | .port _ _ => true
    | .plink _ _ _ => true
    | _ => false

/-- The moment from which a binding set has been deadlocked; none when one of its groups does not wait on a port. -/
def State.deadSince (s : State) (gid : Nat) : Option Nat :=
  let set := s.bindSet gid
  let gs := set.filterMap s.group?
  if gs.isEmpty || gs.length != set.length || gs.any fun g => !g.portBlocked || g.stop.isSome then none
  else some ((gs.flatMap fun g => g.splits.map Split.since).foldl max 0)

/-- A binding set deadlocked for 1 ms: every crew with a group in it traps at its waiting instruction (R188). -/
def execPortDeadlock (gid : Nat) (s : State) : Outcome State Fault Refusal :=
  .next (match s.deadSince gid with
    | none => s
    | some t0 =>
      if s.time < t0 + 10 ^ 6 ∨ ((s.group? gid).map fun g => (s.pkg g.pkg).trip).getD false then s
      else
        let gs := (s.bindSet gid).filterMap s.group?
        let firsts := (gs.map Group.crew).eraseDups.filterMap fun c => gs.find? fun g => g.crew == c
        firsts.foldl (fun (t : State) g => t.trapAt g.id ((g.splits.head?.map Split.idx).getD 0) 0x09 0) s)

end Sys2Proof.Machine
end

