-- ==== Sys2Proof/Machine/Path.lean ====
section
/-! DEFINITION. What comes after issue on the memory path: landing of scoreboarded results (R72), draining store queues (R145), packets between packages (R109, R148, R205, R436), error records and imprecise faults (R405 to R407). -/

namespace Sys2Proof.Machine

open Host (Outcome)

/-! ### Landing (R72) -/

/-- A scoreboarded result whose values are known lands in its registers and frees its entry. -/
def Group.landed (g : Group) (sb : Nat) : Group :=
  match g.sb.find? fun e => e.id == sb with
  | none => g
  | some e =>
    if e.writes.any fun tw => tw.2.isNone then g
    else
      let h := e.writes.foldl (fun (h : Group) tw => h.land e.id tw.1 (tw.2.getD 0)) g
      { h with sb := h.sb.filter fun x => x.id != sb }

/-! ### Stores (R145, R147, R148) -/

/-- The head of the group's queue may leave: not before an earlier load or RMW of R145's classes under way, and a release after
what goes before it (R145, R147, R148). -/
def State.drainable (s : State) (g : Group) (e : StoreEntry) : Bool :=
  !s.tsoPending g.id e.id && (decide (e.ord < 2) || (!s.underWay g.id && !g.unreleased e.sc))

/-- An entry's first access has taken effect, and with it its release (R147): what follows of the entry is a plain store. -/
def StoreEntry.released (e : StoreEntry) (lanes : List LaneStore) : StoreEntry := { e with lanes := lanes, ord := min e.ord 1 }

/-- The oldest store of the focus group's queue leaves it, one lane at a time in lane order; unchanged while it must wait. -/
def State.drainHead (s : State) : State :=
  let g := s.g
  match g.sq with
  | [] => s
  | e :: rest =>
    if !s.drainable g e then s else
    match (match e.lanes with
      | [] => some s
      | ls :: _ => s.performStore e ls) with
    | none => s
    | some t =>
      let left := if e.lanes.length ≤ 1 then rest else e.released (e.lanes.drop 1) :: rest
      let g := { t.g with sq := left }
      let t := { t with g := if 2 ≤ e.ord then g.handOn else g }
      let t := if e.acq ∧ e.lanes.length ≤ 1 then t.acquire t.g e.sc else t
      t.alsoNeed e.id

/-- The oldest store of a queue leaves it and becomes visible, or goes under way (R145, R146, R293). -/
def execStoreQueueDrain (gid : Nat) (s : State) : Outcome State Fault Refusal :=
  .next (match s.group? gid with
    | none => s
    | some g =>
      let t := ((s.focus gid).drainHead).focus s.g.id
      if g.live = 0 ∧ !g.priv then t.guardAtExit g.crew else t)

/-! ### Packets (R109, R205, R436) -/

/-- The rights an access needs: R 1, W 2 (R393). -/
def Packet.need (p : Packet) : Nat :=
  match p.kind with
  | .load _ => 1
  | .store => 2
  | _ => 3

/-- An earlier access goes before this one: of its group to a byte of it, or one that it was put behind (R144, R146). -/
def State.packetBlocked (s : State) (p : Packet) : Bool :=
  ((s.net.takeWhile fun q => q.id != p.id).any fun q => q.gid == p.gid && q.meets p.spot p.size) ||
  s.net.any fun q => p.after.contains q.id

/-- A fault of a packet's access, for the error queue (R405, R407). -/
def State.packetFault (s : State) (p : Packet) (kind code target : Nat) : State :=
  let g := s.group? p.gid
  s.imprecise1 kind code p.crew p.gid p.pc p.va target ((g.map Group.num).getD 0) p.src p.core p.ctx

/-- The packet's crew has been killed: its writes may or may not take effect (R156, R408). -/
def State.killedOf (s : State) (p : Packet) : Bool := p.crew != 0 && (s.crew? p.crew).isNone

/-- What a packet's access stores: the bytes, or, when its crew was killed, old or new byte by byte (R156, R408). -/
def State.packetBytes (s : State) (p : Packet) (old new : List Byte) : List Byte :=
  if !s.killedOf p then new
  else ((List.range new.length).zip (old.zip new)).map fun jb =>
    if Config.freeAt p.id s.free jb.1 11 % 2 = 0 then jb.2.1 else jb.2.2

/-- A die forgets what it holds of n bytes homed in another package: their lines, and the pending values of a store (R151). -/
def State.forget (s : State) (p : Packet) : State :=
  let rk := keyRemote p.ctx p.dst p.off
  { s.dropLines fun l => unitOfDie p.src p.core l.unit && l.key == rk / 64 * 64 with pend := s.pend.filter fun q => q.2.2.2 != p.id }

/-- Pending values that have reached their home stand in no reader's way any more: those of a line are dropped (R144, R150). -/
def State.settled (s : State) (unit key : Nat) : State :=
  { s with pend := s.pend.filter fun q =>
      !(q.1 == unit && q.2.1 / 64 == key / 64 && !s.net.any fun p => p.id == q.2.2.2) }

/-- The bytes of a line as the die has them with its stores that have not reached home (R150, R151). -/
def State.withPending (s : State) (unit key : Nat) (home : List Byte) : List Byte :=
  ((List.range home.length).zip home).map fun jb => (s.pendByte unit (key / 64 * 64 + jb.1)).getD jb.2

/-- What a load or RMW finds at its home in another package: its bytes, by way of the die for an access that is served there, and
the state with the line in the caches on its path and the pending stores it has read learnt (R144, R150 to R152). -/
def State.fetchFar (s : State) (p : Packet) (key : Nat) : List Byte × State :=
  let unit := unitDie p.src p.core
  let rk := keyRemote p.ctx p.dst p.off
  let home := s.bytes (key / 64 * 64) 64
  let s := s.settled unit rk
  let die := s.withPending unit rk home
  let s := s.fillLine p.src p.core p.alloc rk die
  if narrow p.ord p.sc then
    let ids := s.pendIds unit rk p.size
    ((die.drop (key % 64)).take p.size, s.modGroup p.gid fun g =>
      { g with readPend := g.readPend ++ ids.filter fun i => !g.unacked.contains i && !g.readPend.contains i })
  else ((home.drop (key % 64)).take p.size, s)

/-- An RMW that its scope places in the issuing die takes effect there, and its result goes on to the home as a store (R151). -/
def State.rmwInDie (s : State) (p : Packet) (key : Nat) : List Byte × State :=
  let rk := keyRemote p.ctx p.dst p.off
  let (old, s) := match s.nearBytes p.src p.core (loadLimit 1 p.sc) rk p.size with
    | some old => (old, s)
    | none => s.fetchFar p key
  (old, match rmw p.kind old p.data with
    | some new => s.storeFar { p with kind := .store, data := new, sb := none, acq := false }
    | none => s)

/-- The packet's access at its home in another package: its answer's code and data, and the state after it (R109, R151, R411).
Code 0x10A stands for poisoned data. -/
def State.packetHome (s : State) (p : Packet) : Nat × List Byte × State :=
  match s.translate p.dst p.ctx p.off p.need with
  | (none, s) =>
    (7, [], match p.kind with
      | .store => (s.packetFault p 1 0x06 0).forget p
      | .red _ _ => s.packetFault p 1 0x06 0
      | _ => s)
  | (some pa, s) =>
    let key := keyPkg p.dst pa
    let bad := s.poisonedAt key p.size
    match p.kind with
    | .load _ => if bad then (0x10A, [], s) else let (bs, s) := s.fetchFar p key; (0, bs, s)
    | .store =>
      let data := s.packetBytes p (s.bytes key p.size) p.data
      let killed := s.killedOf p
      let (t, partly) := s.storeHome p.gid p.seq key data
      let t := if killed then t.forget p else t
      (0, [], if partly then t.packetFault p 2 0x0A 0 else t)
    | k =>
      if bad then (0x10A, [], match k with
        | .red _ _ => s.packetFault p 2 0x0A 0
        | _ => s)
      else if p.sc ≤ 3 then let (old, s) := s.rmwInDie p key; (0, old, s)
      else
        let old := s.bytes key p.size
        let t := match rmw k old p.data with
          | some new => (s.storeHome p.gid p.seq key (s.packetBytes p old new)).1
          | none => s
        (0, old, (t.settled (unitDie p.src p.core) (keyRemote p.ctx p.dst p.off)).forget p)

/-- The packet's access at its place inside the package (R144, R146, R151). -/
def State.packetHere (s : State) (p : Packet) (key : Nat) : Nat × List Byte × State :=
  let g := (s.group? p.gid).getD { Group.empty with pkg := p.src, core := p.core, id := p.gid }
  match p.kind with
  | .load _ =>
    if s.poisonedAt key p.size then (0x10A, [], s) else
    let (bs, s) := s.readAt p.src p.core p.alloc (loadLimit p.ord p.sc) key p.size
    (0, s.groupBytes g p.seq key bs, s)
  | .store =>
    let data := s.packetBytes p (s.bytes key p.size) p.data
    let (t, partly) := s.storeHome p.gid p.seq key data
    let t := t.passHere p.src p.core key data
    (0, [], if partly then t.packetFault p 2 0x0A 0 else t)
  | k =>
    if s.poisonedAt key p.size then (0x10A, [], s) else
    let (old, s) := s.rmwDo g p.seq k p.data p.src p.core p.sc key p.size
    (0, old, s)

/-- The bytes of an access that is lost on its way: a store or RMW already sent has landed or not, byte by byte (R436). -/
def State.landedOrNot (s : State) (p : Packet) : State :=
  match s.translate p.dst p.ctx p.off p.need with
  | (none, s) => s
  | (some pa, s) =>
    let key := keyPkg p.dst pa
    let old := s.bytes key p.size
    match rmw p.kind old p.data with
    | none => s
    | some new =>
      let mix := ((List.range new.length).zip (old.zip new)).map fun jb =>
        if Config.freeAt p.id s.free jb.1 17 % 2 = 0 then jb.2.1 else jb.2.2
      (s.storeHome p.gid p.seq key mix).1

/-- An access to another package ends as ABSENT on its way: the fault is recorded, and the answer goes back (R195, R436). -/
def State.packetLost (s : State) (p : Packet) : State :=
  let s := ((s.packetFault p 4 1 p.dst).forget p).landedOrNot p
  { s with
    net := s.net.filter fun q => q.id != p.id
    resp := (s.resp.filter fun r => r.pkt.id != p.id) ++ [⟨p, 1, [], 0, s.time⟩] }

/-- A WEAK load that has more than one byte still to take may take one by itself (R143, log entry 41). -/
def Packet.tears (p : Packet) : Bool :=
  p.ord == 0 && match p.kind with
    | .load n => decide (p.data.length + 1 < n)
    | _ => false

/-- What an access answers: a load the bytes it has taken before, and the others as they are now. -/
def Packet.joined (p : Packet) (bs : List Byte) : List Byte :=
  match p.kind with
  | .load _ => p.data ++ bs.drop p.data.length
  | _ => bs

/-- An access under way takes effect, a WEAK load perhaps in one more byte alone: inside the package at its place; at a target
package, which drops it as MALFORMED for a reserved bit, and, when it does not answer, ends it with ABSENT; else at home (R3, R109,
R143, R205, R436). -/
def execRemoteAccess (pkt : Nat) (s : State) : Outcome State Fault Refusal :=
  .next (match s.net.find? fun p => p.id == pkt with
    | none => s
    | some p =>
      if s.packetBlocked p then s else
      let (part, s) := if p.tears then s.pick 2 else (0, s)
      let rest := { s with net := s.net.filter fun q => q.id != pkt }
      let out := fun (x : Nat × List Byte × State) =>
        if part = 1 ∧ x.1 = 0 then
          let more : Packet := { p with data := (p.joined x.2.1).take (p.data.length + 1) }
          { x.2.2 with net := s.net.map fun q => if q.id = pkt then more else q }
        else { x.2.2 with resp := x.2.2.resp ++ [⟨p, x.1, if x.1 = 0 then p.joined x.2.1 else x.2.1, 0, s.time⟩] }
      match p.key with
      | some key =>
        let x := rest.packetHere p key
        if p.sb.isSome then out x else x.2.2
      | none =>
        if !s.reaches p.src p.dst || s.tooOld p.sent then rest.packetLost p
        else if p.res0 ≠ 0 then out (6, [], rest.forget p)
        else out (rest.packetHome p))

/-- A response as it is taken: reserved bits, or a code that is never sent, make it MALFORMED (R3, R205); 0x10A is the model's own. -/
def Response.taken (r : Response) : Nat :=
  if r.res0 ≠ 0 ∨ r.code = 4 ∨ (9 ≤ r.code ∧ r.code ≠ 0x10A) then 6 else r.code

/-- The packet was refused: UNSUPPORTED, MALFORMED or STALE (R205). -/
def Response.refused (r : Response) : Bool := r.taken == 5 || r.taken == 6 || r.taken == 8

/-- The acknowledgement of a store or RED reaches its group, and whatever waits for it; an acquire among them has then taken effect
(R147, R148, R150, R436). A refused one is reported (R205). -/
def execStoreAck (id : Nat) (s : State) : Outcome State Fault Refusal :=
  .next (match s.resp.find? fun r => r.pkt.id == id && r.pkt.sb.isNone with
    | none => s
    | some r =>
      let s := { s with
        resp := s.resp.filter fun r => r.pkt.id != id
        pend := s.pend.filter fun p => p.2.2.2 != id }
      let s := if r.refused then s.packetFault r.pkt 4 r.taken r.pkt.dst else s
      let acquired := ((s.group? r.pkt.gid).map fun g => g.acqOut.contains id).getD false
      let out := fun (l : List Nat) => l.filter fun i => i != id
      let s := s.mapGroups fun g =>
        { g with unacked := out g.unacked, readPend := out g.readPend, handed := out g.handed, acqOut := out g.acqOut }
      match s.group? r.pkt.gid, acquired with
      | some g, true => s.acquire g r.pkt.sc
      | _, _ => s)

/-- A lane's pending targets of an entry take the low word, and above it the high word, of a value. -/
def Group.fillLane (g : Group) (id lane : Nat) (lo hi : Word) : Group :=
  let upper := fun (e : SbEntry) (pos : Nat) => e.writes.any fun tw => tw.1 == .v lane (pos - 1) && pos != 0
  { g with sb := g.sb.map fun e =>
      if e.id = id then { e with writes := e.writes.map fun tw => match tw.1 with
        | .v l pos => if l = lane ∧ tw.2.isNone then (tw.1, some (if upper e pos then hi else lo)) else tw
        | _ => tw } else e }

/-- A load or atomic traps after its issue: its result is dropped, and the split that holds the lane stops with the PC of
that instruction (R109, R205, R411). -/
def State.loadTrap (s : State) (p : Packet) (sb code : Nat) : State :=
  match s.group? p.gid with
  | none => s
  | some g =>
    match g.splits.find? fun q => flag q.mask p.lane with
    | none => s
    | some q =>
      let s := s.modGroup g.id fun g => ({ g with sb := g.sb.filter fun e => e.id != sb }).modSplit q.idx fun x => { x with pc := p.pc }
      s.trapAt g.id q.idx code 0

/-- The answer of a load or atomic reaches the requesting lane (R109, R205, R436); the last one of an acquire completes it. -/
def execFabricResponse (pkt : Nat) (s : State) : Outcome State Fault Refusal :=
  .next (match s.resp.find? fun r => r.pkt.id == pkt && r.pkt.sb.isSome with
    | none => s
    | some r =>
      let p := r.pkt
      let sb := p.sb.getD 0
      let s := { s with resp := s.resp.filter fun q => q.pkt.id != pkt }
      let s := if r.refused then s.packetFault p 4 r.taken p.dst else s
      match s.group? p.gid with
      | none => s
      | some g =>
        if !(g.sb.any fun e => e.id == sb) then s
        else if r.taken = 7 then s.loadTrap p sb 0x06
        else if r.taken = 0x10A then s.loadTrap p sb 0x0A
        else
          let x := natOf r.data
          let lo := if wideEt p.et then loWord x else extend p.et (x % 2 ^ etBits p.et)
          let ok := r.taken == 0
          let s := s.modGroup g.id fun g => g.fillLane sb p.lane (if ok then lo else 0) (if ok then hiWord x else 0)
          let ready := ((s.group? g.id).map fun g => g.sb.any fun e => e.id == sb && e.acq && e.writes.all fun w => w.2.isSome).getD false
          if ready then (s.modGroup g.id fun g => g.acquired sb).acquire g p.sc else s)

/-! ### Error records and imprecise faults (R405 to R407) -/

/-- The bytes of an error record (R407). -/
def Imprecise.bytes (r : Imprecise) (flags time : Nat) : List Byte :=
  bytesOf 1 r.kind ++ bytesOf 1 r.code ++ bytesOf 1 flags ++ bytesOf 1 0 ++ bytesOf 2 r.core ++ bytesOf 1 r.crew ++
  bytesOf 1 r.group ++ bytesOf 4 (r.pc / 4 % 2 ^ 24) ++ bytesOf 4 r.lgen ++ bytesOf 8 r.addr ++ bytesOf 8 time ++
  bytesOf 2 r.queue ++ bytesOf 2 r.target ++ bytesOf 4 r.tag ++ List.replicate 24 0

/-- A record enters the process's error queue, or is dropped and counted when the ring is full (R406). -/
def State.errRecord (s : State) (pkg ctx : Nat) (rec : List Byte) : State :=
  if !s.ctxLive pkg ctx then s else
  let h := keyPkg pkg (s.ctxField pkg ctx 0x38 8)
  let n := s.num (h + 0x10) 8
  let ring := 2 ^ field (s.num (h + 8) 1) 4 0
  if (n + 2 ^ 64 - s.num (h + 0x18) 8) % 2 ^ 64 = ring then s.setNum (h + 0x20) 8 ((s.num (h + 0x20) 8 + 1) % 2 ^ 64)
  else (s.setBytes (keyPkg pkg (s.num h 8) + 64 * (n % ring)) rec).setNum (h + 0x10) 8 ((n + 1) % 2 ^ 64)

/-- Event codes after which a crew cannot be resumed; code 0x06 when it is imprecise, 0x10 when its service is refused (R400, R403). -/
def Event.fatal (e : Event) : Bool :=
  e.code == 0x04 || e.code == 0x07 || e.code == 0x09 || e.code == 0x0A || e.code == 0x0B || e.code == 0x0E || e.code == 0x10 ||
  (e.code == 0x06 && e.arg == 1)

/-- An event enters its core's queue (R363). -/
def State.queueEvent (s : State) (pkg core : Nat) (e : Event) : State :=
  s.modCore pkg core fun c => { c with evq := c.evq ++ [e] }

/-- The event of an imprecise fault: its trap code by KIND; the lane it would name is open (R405, log entry 1). `arg` 1
marks it imprecise until it is delivered. -/
def Imprecise.event (r : Imprecise) (lane : Nat) : Event :=
  { code := (match r.kind with | 1 => 0x06 | 2 => 0x0A | 3 => 0x07 | _ => 0x0E)
    crew := r.crew, group := r.group, arg := 1, skid := 0, pc := r.pc / 4 % 2 ^ 24 * 4, info := lane }

/-- The oldest fault found after issue is recorded, and the crew, if it still exists, is halted with a fatal event (R405).
While the crew has another event outstanding the fault waits; a fatal one takes the record with it (R402). -/
def execImpreciseFault (s : State) : Outcome State Fault Refusal :=
  .next (match s.imprecise with
    | [] => s
    | r :: rest =>
      let crew := if 4 < r.kind then none else s.crew? r.crewId
      let gone := r.gid != 0 && ((s.group? r.gid).map fun g => g.live == 0).getD true
      let exited := if gone ∧ r.kind ≤ 4 then 1 else 0
      let put := fun (t : State) (flags : Nat) =>
        { t with imprecise := rest }.errRecord r.pkg r.ctx (r.bytes flags t.time)
      match crew with
      | none => put s exited
      | some c =>
        match c.event with
        | some e => if e.fatal then put s exited else s
        | none =>
          if c.st = .busy then s else
          let (lane, s) := s.pick 64
          let ev := r.event lane
          let s := put s (exited + 2)
          if c.st = .halted then (s.modCrew c.id fun c => { c with event := some ev }).queueEvent c.pkg c.core ev
          else s.haltCrew c.id (some ev))

end Sys2Proof.Machine
end

