-- ==== Sys2Proof/Machine/Tile.lean ====
section
/-! DEFINITION. Tiles, crews and children (R19 to R35, R437): capacity and admission, the start of groups, the dependence table, LAUNCH, JOIN and the other commands of the level sequencer (R316 to R319, R321). -/

namespace Sys2Proof.Machine

open Host (Outcome)

/-- The reply of an X-form command: into s[d] with Y = 1, nowhere otherwise (R314). -/
def xreply (s : State) (y : BitVec 1) (d : BitVec 6) (w : Nat) : Res :=
  .done (if y = 1 then { s with g := s.g.postS d.toNat (BitVec.ofNat 32 w) } else s)

/-! ### Issue slots (R35) -/

/-- What the parts of gangs hold (R389). -/
def State.held (s : State) : List Held := s.gangs.flatMap fun g => g.parts.filterMap GangPart.hold

/-- A holding counts as a crew where room is sought. -/
def Held.crew (h : Held) : Crew :=
  { id := 0, pkg := h.pkg, core := h.core, num := 64, ctx := h.ctx, st := .run, tile := none, slot := h.slot, blocks := h.blocks,
    regs := 1, width := h.width, lgen := 0, guard := none, tsigs := [], event := none, preqAt := none, restored := false }

/-- The crews on a core, with those that gangs hold places for. -/
def State.crewsOn (s : State) (pkg core : Nat) : List Crew :=
  (s.crews.filter fun c => c.pkg == pkg && c.core == core) ++
  (s.held.filter fun h => h.pkg == pkg && h.core == core).map Held.crew

/-- Units of 64 registers in use at a lane position of some crews. -/
def slotLoad (cs : List Crew) (pos : Nat) : Nat :=
  cs.foldl (fun a c => c.blocks.foldl (fun a b => if b.1 ≤ pos ∧ pos < b.1 + c.width then a + b.2 else a) a) 0

/-- Groups resident with some crews. -/
def slotGroups (cs : List Crew) : Nat := cs.foldl (fun a c => a + c.blocks.length) 0

/-- The greatest load over a block. -/
def blockLoad (cs : List Crew) (w base : Nat) : Nat :=
  (List.range (w / 8)).foldl (fun a j => max a (slotLoad cs (base + 8 * j))) 0

/-- A block of width w for one more group: the least loaded that has room (R35; which one it is shows only in timing). -/
def placeBlock (cs : List Crew) (w alloc : Nat) : Option Nat :=
  let bases := (List.range (64 / w)).map (· * w)
  let ok := bases.filter fun b => decide (blockLoad cs w b + alloc ≤ 8)
  match ok with
  | [] => none
  | b :: t => some (t.foldl (fun a c => if blockLoad cs w c < blockLoad cs w a then c else a) b)

/-- Blocks for n groups of a crew, beside the crews of a slot. -/
def placeBlocks (cs : List Crew) (proto : Crew) (alloc : Nat) : Nat → Option (List (Nat × Nat))
  | 0 => some []
  | n + 1 =>
    match placeBlocks cs proto alloc n with
    | none => none
    | some bs =>
      match placeBlock ({ proto with blocks := bs } :: cs) proto.width alloc with
      | some b => some (bs ++ [(b, alloc)])
      | none => none

/-- A slot of a core with room for a crew of n groups, and their blocks (R35). -/
def State.placeCrew (s : State) (proto : Crew) (alloc n : Nat) : Option (Nat × List (Nat × Nat)) :=
  [0, 1, 2, 3].findSome? fun sl =>
    let cs := (s.crewsOn proto.pkg proto.core).filter fun c => c.slot == sl
    if 16 < slotGroups cs + n then none
    else (placeBlocks cs proto alloc n).map fun bs => (sl, bs)

/-- The record's register need fits one empty slot: for a CORE entry with GRP children both kinds together, over blocks of
which each takes 8 units (R21). `f bins a` is the greatest number of y-groups beside a groups of x units. -/
def packMost (x y : Nat) : Nat → Nat → Option Nat
  | 0, a => if a = 0 then some 0 else none
  | n + 1, a =>
    (List.range (min a (8 / x) + 1)).foldl (fun best i =>
      match packMost x y n (a - i) with
      | some k => match best with
        | some b => some (max b (k + (8 - i * x) / y))
        | none => some (k + (8 - i * x) / y)
      | none => best) none

/-! ### Level memory and level pools (R10, R22, R437) -/

/-- The bytes of a unit's level memory (R10, R11). -/
def State.levelSize (s : State) (pkg core dom : Nat) : Nat :=
  match dom with
  | 1 => 384 * 1024
  | 2 => 4 * 2 ^ 20
  | _ => ((s.pkg pkg).die (dieOf core)).dmem * 8 * 2 ^ 20

/-- The key of a unit's level memory. -/
def levelKey (pkg core dom : Nat) : Nat :=
  match dom with
  | 1 => keyCore pkg core 0
  | 2 => keyClu pkg (cluOf core) 0
  | _ => keyDie pkg (dieOf core) 0

/-- The level pool of a process in a package: its region, LIVE with read and write rights (R437). -/
def State.levelPool (s : State) (pkg ctx : Nat) : Option Region :=
  match s.region? pkg ctx (s.ctxField pkg ctx 0x48 2) with
  | some r => if r.rights % 4 = 3 then some r else none
  | none => none

/-- Where a tile's allocation lies: its level-memory key or its address, with the parent span it takes. -/
structure Seated where
  home : Nat
  va : Nat
  span : Option (Nat × Nat)
  deriving DecidableEq, Repr

/-- An allocation of memb bytes for a tile of a domain, on a core, under a parent (R22, R113, R437). -/
def State.seatTile (s : State) (ctx pkg core dom memb : Nat) (parent : Option Tile) : Option Seated :=
  if dom = 0 then some ⟨0, 0, none⟩ else
  let same := parent.filter fun t => t.dom == dom
  if dom < 4 then
    match same with
    | some t => (s.poolFit t memb).map fun o => ⟨t.home + o, 0, some (o, memb)⟩
    | none =>
      let k := levelKey pkg core dom
      let size := s.levelSize pkg core dom
      let used := ((s.tiles.filter fun t => t.dom == dom && decide (k ≤ t.home) && decide (t.home < k + size)).map
        fun t => (t.home - k, t.memb)) ++
        (s.held.filter fun h => h.dom == dom && decide (k ≤ h.home) && decide (h.home < k + size)).map fun h => (h.home - k, h.memb)
      (fitSpan 0 size memb used).map fun o => ⟨k + o, 0, none⟩
  else
    match same with
    | some t =>
      if t.pkg = pkg then (s.poolFit t memb).map fun o => ⟨0, t.va + o, some (o, memb)⟩ else none
    | none =>
      (s.levelPool pkg ctx).bind fun r =>
        let base := 2 ^ 52 + r.vbase
        let used := ((s.tiles.filter fun t => decide (4 ≤ t.dom) && t.pkg == pkg && decide (base ≤ t.va) &&
          decide (t.va < base + r.size) && ((s.tree? t.tree).map fun tr => tr.ctx == ctx).getD false).map fun t => (t.va - base, t.memb)) ++
          (s.held.filter fun h => decide (4 ≤ h.dom) && h.pkg == pkg && h.ctx == ctx && decide (base ≤ h.va)).map fun h => (h.va - base, h.memb)
        (fitSpan 0 r.size memb used).map fun o => ⟨0, base + o, none⟩

/-! ### Cores of a unit and the placement policies (R16, R27) -/

/-- The cores of the unit of a domain that holds a core; a PKG or POD unit is narrowed to the tree's dies (R387). -/
def unitCores (core dom : Nat) (dies : List Nat) : List Nat :=
  match dom with
  | 0 => [core]
  | 1 => [core]
  | 2 => (List.range 8).map fun j => cluOf core * 8 + j
  | 3 => (List.range 128).map fun j => dieOf core * 128 + j
  | _ => dies.flatMap fun d => (List.range 128).map fun j => d * 128 + j

/-- The core at a row and column relative to the north-west core of a unit; none outside the unit. -/
def coreFrom (unit : List Nat) (y x : Nat) : Option Nat :=
  let y0 := unit.foldl (fun a c => min a (rowOf c)) 24
  let x0 := unit.foldl (fun a c => min a (colOf c)) 48
  if 24 ≤ y0 + y ∨ 48 ≤ x0 + x then none
  else let c := coreAt (y0 + y) (x0 + x); if unit.contains c then some c else none

/-- Free group slots and free registers of a core, as a number that orders first by the one and then by the other. -/
def State.freeness (s : State) (pkg core : Nat) : Nat :=
  let cs := s.crewsOn pkg core
  let regs := cs.foldl (fun a c => a + c.blocks.foldl (fun a b => a + b.2 * c.width) 0) 0
  (64 - slotGroups cs) * 2 ^ 20 + (4 * 64 * 8 - regs)

/-- The core's die is READY, so that an agent runs there (R430). -/
def State.agentOn (s : State) (pkg core : Nat) : Bool := ((s.pkg pkg).die (dieOf core)).st == .ready

/-- The least-loaded core of a unit among those that run an agent, ties to the lowest number (R27, R430). -/
def State.leastLoaded (s : State) (pkg : Nat) (unit : List Nat) : Option Nat :=
  match unit.filter (s.agentOn pkg) with
  | [] => none
  | c :: t => some (t.foldl (fun a b => if s.freeness pkg a < s.freeness pkg b then b else a) c)

/-- Tile coordinate j of child k under an entry's SHAPE (R23). -/
def tcoord (l : Level) (k j : Nat) : Nat :=
  match j with
  | 0 => k % l.shape0
  | 1 => k / l.shape0 % l.shape1
  | _ => k / (l.shape0 * l.shape1)

/-- The directory has an extent's key as RESIDENT (R27, R170). -/
def State.extentResident (s : State) (e : Extent) : Bool :=
  s.num (keyPkg e.pkg (s.ctxField e.pkg e.ctx 0x20 8 + 16 * e.key)) 1 == 1

/-- The core that the policy gives child k of a tile (R27). A POD tile's PKG children go to the members of the partition in
order, wherever their package has most room. -/
def State.policyCore (s : State) (tr : Tree) (t : Tile) (k : Nat) : Option (Nat × Nat) :=
  let up := tr.level t.depth
  let l := tr.level (t.depth + 1)
  if l.dom = 0 then some (t.pkg, t.core)
  else if t.dom = 5 ∧ l.dom = 4 then
    tr.members[k]?.bind fun m => (s.leastLoaded m (List.range Config.cores)).map fun c => (m, c)
  else
    let unit := unitCores t.core t.dom tr.dies
    let least := (s.leastLoaded t.pkg unit).map fun c => (t.pkg, c)
    match l.place with
    | 1 => (coreFrom unit (l.py + tcoord up k 1) (l.px + tcoord up k 0)).map fun c => (t.pkg, c)
    | 2 =>
      match s.exts.find? fun e => e.pkg == t.pkg && e.ctx == tr.ctx && e.key == l.ckey + k && s.extentResident e && unit.contains e.core with
      | some e => some (t.pkg, e.core)
      | none => least
    | 3 => (coreFrom unit (l.py + k / l.pw) (l.px + k % l.pw)).map fun c => (t.pkg, c)
    | _ => least

/-! ### Admission and start (R22, R23, R26, R410) -/

/-- Crew numbers free on a core. -/
def State.freeCrews (s : State) (pkg core : Nat) : List Nat :=
  (List.range 64).filter fun n => !(s.crewsOn pkg core).any fun c => c.num == n

/-- The next launch generation of a core (R410). -/
def State.nextLgen (s : State) (pkg core : Nat) : Nat × State :=
  let n := ((s.core pkg core).lgen + 1) % 2 ^ 32
  (n, s.modCore pkg core fun c => { c with lgen := n })

/-- The core admits crews: released and without a slot fault (R362, R365). -/
def Core.admits (c : Core) : Bool := c.released && !c.slotFault

/-- A tile's memory at its start: undefined, but for its barrier objects, which are zero (R22, R111). -/
def State.clearTile (s : State) (ctx : Nat) (t : Tile) (barobj : Nat) : State :=
  if t.dom = 0 then s
  else if t.dom < 4 then (s.spoil t.home t.memb).setBytes (t.home + 0x40) (List.replicate (32 * barobj) 0)
  else match s.levelPool t.pkg ctx with
    | some r =>
      let ks := (List.range (32 * barobj)).map fun j => s.regionKey t.pkg r (t.va - 2 ^ 52 - r.vbase + 0x40 + j)
      (ks.foldl (fun (s : State) k => s.setByte k 0) s).dropLines fun l => ks.any fun k => l.key == k / 64 * 64
    | none => s

/-- Group number num of a tile's crew, at ENTRY (R23). -/
def State.makeGroup (s : State) (tr : Tree) (t : Tile) (crew num : Nat) : State :=
  let l := tr.level t.depth
  let g := Group.start s.next t.pkg t.core crew num l.width l.regs false false tr.ctx (some t.id) t.idx t.depth tr.rcd.entry s.free
  let va := if 4 ≤ t.dom then t.va else 0
  let g := (g.setS2 0 1 tr.rcd.args).setS2 0 3 va
  { (s.addGroup g) with next := s.next + 1, free := s.free + l.width }

/-- The groups of a tile: the crew of its entry, or one more group of the parent's crew, numbered on from that crew's (R23, R358). -/
def State.makeGroups (s : State) (tr : Tree) (t : Tile) : State :=
  if t.dom = 0 then s.makeGroup tr t t.crew ((tr.level (t.depth - 1)).crew + t.idx)
  else (List.range (tr.level t.depth).crew).foldl (fun s n => s.makeGroup tr t t.crew n) s

/-- A tile of a tree is admitted to a core: its crew, or its place in the parent's crew, its memory and its groups,
which do not run yet. None while a resource is not free (R26). -/
def State.admitTile (s : State) (tr : Tree) (depth idx reln pkg core : Nat) (parent : Option Tile)
    (vers : List (Nat × Nat × Bool)) : Option (Nat × State) :=
  let l := tr.level depth
  if !(s.core pkg core).admits then none else
  (s.seatTile tr.ctx pkg core l.dom l.memb parent).bind fun seat =>
    let tid := s.next
    let build := fun (s : State) (crew : Nat) =>
      let t : Tile :=
        { id := tid, tree := tr.id, pkg := pkg, core := core, depth := depth, idx := idx,
          parent := parent.map Tile.id, crew := crew, dom := l.dom, memb := l.memb, home := seat.home, va := seat.va,
          spans := [], batch := none, live := false, reln := reln, vers := vers }
      let s := match seat.span, parent with
        | some (o, n), some p => s.modTile p.id fun (q : Tile) => { q with spans := q.spans ++ [(⟨o, n, false, none⟩ : Span)] }
        | _, _ => s
      (({ s with tiles := s.tiles ++ [t] }).clearTile tr.ctx t l.barobj).makeGroups tr t
    if l.dom = 0 then
      (parent.bind fun p => s.crew? p.crew).bind fun c =>
        let cs := (s.crewsOn pkg core).filter fun d => d.slot == c.slot
        if 16 ≤ c.blocks.length ∨ 16 ≤ slotGroups cs then none
        else (placeBlock cs c.width l.regs).map fun b =>
          (tid, build (({ s with next := s.next + 1 }).modCrew c.id fun c => { c with blocks := c.blocks ++ [(b, l.regs)] }) c.id)
    else
      let proto : Crew :=
        { id := tid + 1, pkg := pkg, core := core, num := 0, ctx := tr.ctx, st := .run, tile := some tid, slot := 0,
          blocks := [], regs := l.regs, width := l.width, lgen := 0, guard := none, tsigs := [], event := none,
          preqAt := none, restored := false }
      (s.placeCrew proto l.regs l.crew).map fun sb =>
        let nums := s.freeCrews pkg core
        let (k, s) := s.pick nums.length
        let (gen, s) := s.nextLgen pkg core
        let num := nums.getD k 0
        let asked := flag (s.core pkg core).preq num
        let c := { proto with num := num, slot := sb.1, blocks := sb.2, lgen := gen, preqAt := if asked then some s.time else none }
        (tid, build { s with crews := s.crews ++ [c], next := s.next + 2 } c.id)

/-- The groups of an admitted tile start, once no down-copy is held for it (R23, R129). The start is an acquire at the parent's
domain, a root's at POD (log entry 99): lines of its core nearer than that go, and its groups learn of the stores that the
parent's launch has handed on (R147, R156). -/
def State.startGroups (s : State) (tid : Nat) : State :=
  match s.tile? tid with
  | none => s
  | some t =>
    let up := t.parent.bind s.tile?
    let ids := match up with
      | some p => (s.groupsOf p.crew).flatMap Group.handed
      | none => []
    let s := s.discard t.pkg t.core ((up.map Tile.dom).getD 5)
    let s := s.mapGroups fun g => if g.tile = some tid then { g with readPend := (g.readPend ++ ids).eraseDups } else g
    s.modTile tid fun t => { t with live := true }

/-! ### Children and reports (R28, R29, R33) -/

def Batch.kid? (b : Batch) (k : Nat) : Option Child := b.kids.find? fun c => c.idx == k
def Batch.modKid (b : Batch) (k : Nat) (f : Child → Child) : Batch :=
  { b with kids := b.kids.map fun c => if c.idx = k then f c else c }
def State.modBatch (s : State) (tid : Nat) (f : Batch → Batch) : State :=
  s.modTile tid fun t => { t with batch := t.batch.map f }
def State.modKid (s : State) (tid k : Nat) (f : Child → Child) : State := s.modBatch tid fun b => b.modKid k f

def ChildSt.reported : ChildSt → Option Nat
  | .done st => some st
  | _ => none

/-- A report word (R28). -/
def reportWord (k st reln : Nat) : Nat := k + st * 2 ^ 16 + reln * 2 ^ 20

/-- Boxes of two sets of one handle intersect in every used dimension (R31). -/
def DepSet.overlaps (nd : Nat) (a b : DepSet) : Bool :=
  a.handle == b.handle && (List.range nd).all fun j =>
    decide (0 < a.ext.getD j 0) && decide (0 < b.ext.getD j 0) &&
    decide (a.org.getD j 0 < b.org.getD j 0 + b.ext.getD j 0) && decide (b.org.getD j 0 < a.org.getD j 0 + a.ext.getD j 0)

/-- The handles of a tree's process in a tile's package. -/
def State.handleOf (s : State) (t : Tile) (h : Nat) : Option Handle :=
  (s.tree? t.tree).bind fun tr => s.handles.find? fun x => x.pkg == t.pkg && x.ctx == tr.ctx && x.h == h

/-- Overlap of two sets, with the dimensions of their handle. -/
def State.setsMeet (s : State) (t : Tile) (a b : DepSet) : Bool :=
  a.overlaps (((s.handleOf t a.handle).map Handle.ndim).getD 5) b

/-! ### Reports of roots (R384, R387, R389) -/

/-- The package and physical address of a region-0 address of a process, with the rights needed; none without. -/
def State.homeAt (s : State) (pkg ctx va need : Nat) : Option Nat × State :=
  match s.place { Group.empty with pkg := pkg, ctx := ctx } va with
  | some (.home p off) =>
    if !(s.pkg p).member then (none, s) else
    match s.translate p ctx off need with
    | (some pa, s) => (some (keyPkg p pa), s)
    | (none, s) => (none, s)
  | _ => (none, s)

/-- A 64-bit word stored by the device at an address of a process; a failed translation stores nothing. -/
def State.deviceStore (s : State) (pkg ctx va x : Nat) : State :=
  match s.homeAt pkg ctx va 2 with
  | (some k, s) => (s.storeHome 0 s.next k (bytesOf 8 x)).1
  | (none, s) => s

/-- A report of R384. -/
def rootWord (part st reln tries : Nat) (late : Bool) : Nat :=
  reportWord part st reln + (if late then 2 ^ 32 else 0) + min 255 tries * 2 ^ 40

/-- A packet of a queue has completed. -/
def State.packetDone (s : State) (pkg queue index : Nat) : State :=
  { s with qpkts := s.qpkts.filter fun q => !(q.pkg == pkg && q.queue == queue && q.index == index) }

/-- A part of a gang completes with its report; with the last one the reports are written and the packet completes (R389). -/
def State.gangPartDone (s : State) (gid part st reln : Nat) : State :=
  match s.gangs.find? fun g => g.id == gid with
  | none => s
  | some g =>
    let upd := fun (p : GangPart) => if p.part = part ∧ p.st ≠ 4 then
      { p with st := 4, hold := none, word := rootWord part st reln g.attempt p.late } else p
    let g := { g with parts := g.parts.map upd }
    if g.parts.all fun p => p.st == 4 then
      let s := { s with gangs := s.gangs.filter fun x => x.id != gid }
      let s := if g.report = 0 then s else
        (g.parts.filter fun p => decide (p.part < 2 ^ 16)).foldl (fun (s : State) p => s.deviceStore g.pkg g.ctx (g.report + 8 * p.part) p.word) s
      s.packetDone g.pkg g.queue g.index
    else { s with gangs := s.gangs.map fun x => if x.id = gid then g else x }

/-- Child k of a POD gang's first batch is part k of the gang (R387). -/
def State.gangChild (s : State) (t : Tile) (k st reln : Nat) : State :=
  match t.parent, s.tree? t.tree with
  | none, some tr =>
    match s.gangs.find? fun g => g.id == tr.gang && g.kind == 3 && (t.batch.map Batch.id) == some g.batch with
    | some g => s.gangPartDone g.id k st reln
    | none => s
  | _, _ => s

/-- Child k reports status st: its dependence entry is freed, and a writer that completed commits its version unless a
higher-indexed overlapping one has (R32, R33). -/
def State.reportChild (s : State) (tid k st : Nat) : State :=
  match s.tile? tid with
  | none => s
  | some t =>
    let commit := if st ≠ 0 then none else
      (t.batch.bind fun b => b.kid? k).bind fun c => c.write.filter fun w =>
        !((t.batch.map Batch.kids).getD []).any fun o => decide (k < o.idx) && o.st == .done 0 &&
          (o.write.map fun x => s.setsMeet t x w).getD false
    let s := match commit, s.tree? t.tree with
      | some w, some tr =>
        let upd := fun (h : Handle) => if h.pkg = t.pkg ∧ h.ctx = tr.ctx ∧ h.h = w.handle then { h with committed := w.ver } else h
        { s with handles := s.handles.map upd }
      | _, _ => s
    let reln := (((t.batch.bind fun b => b.kid? k).map Child.reln).getD 0)
    (s.modKid tid k fun c => { c with st := .done st, freed := true, hold := [] }).gangChild t k st reln

/-! ### The dependence table (R30 to R33) -/

/-- The set entry at an offset of a dependence descriptor, for child k: absent with handle 0. -/
def depSet (d : List Byte) (o : Nat) (l : Level) (k : Nat) : Option DepSet :=
  let h := leField d o 2
  if h = 0 then none else
  some ⟨h, (List.range 5).map fun j =>
      leField d (o + 4 + 4 * j) 4 + (if j < 3 then tcoord l k j * leField d (o + 0x22 + 2 * j) 2 else 0),
    (List.range 5).map fun j => leField d (o + 0x18 + 2 * j) 2, 0⟩

/-- The read sets and the write set of child k. -/
def depReads (d : List Byte) (l : Level) (k : Nat) : List DepSet := [0, 0x30].filterMap fun o => depSet d o l k
def depWrite (d : List Byte) (l : Level) (k : Nat) : Option DepSet := depSet d 0x60 l k

/-- The children that hold dependence entries. -/
def Batch.entries (b : Batch) : List Child := b.kids.filter fun c => c.entered && !c.freed

/-- The version a writer takes: the next free one in rotation; none while none is free (R32). -/
def Batch.freeVersion (b : Batch) (h : Handle) : Option Nat :=
  let n := (Layout.ofBytes h.bytes).nver
  if n = 1 then some 0 else
  let start := (h.last.getD h.committed) + 1
  let used := fun v => v == h.committed || b.entries.any fun c =>
    (c.reads ++ c.write.toList).any fun x => x.handle == h.h && x.ver == v
  ((List.range n).map fun j => (start + j) % n).find? fun v => !used v

/-- Child k enters the dependence table in index order and binds versions (R32). -/
def execDependenceEntry (tile k : Nat) (s : State) : Outcome State Fault Refusal :=
  .next (match s.tile? tile with
    | none => s
    | some t =>
      match t.batch, s.treeOf t with
      | some b, some tr =>
        match b.dep, b.kid? k with
        | some d, some c =>
          let up := tr.level t.depth
          let before := b.kids.filter fun o => decide (o.idx < k)
          if c.entered ∨ c.st ≠ .waiting ∨ 64 ≤ b.entries.length ∨ before.any fun o => !o.entered && o.st == .waiting then s
          else
            let write := (depWrite d up k).bind fun w => (s.handleOf t w.handle).map fun h => (w, h)
            let bind := fun (ver : Option Nat) =>
              let reads := (depReads d up k).map fun r =>
                let earlier := (b.entries.filter fun o => decide (o.idx < k)).filterMap fun o =>
                  o.write.filter fun w => s.setsMeet t w r
                { r with ver := match earlier.getLast? with
                    | some w => w.ver
                    | none => ((s.handleOf t r.handle).map Handle.committed).getD 0 }
              s.modKid tile k fun c =>
                { c with entered := true, reads := reads, write := write.map fun wh => { wh.1 with ver := ver.getD 0 } }
            match write with
            | none => bind none
            | some (w, h) =>
              match b.freeVersion h with
              | none => s
              | some v =>
                let upd := fun (x : Handle) => if x.pkg = h.pkg ∧ x.ctx = h.ctx ∧ x.h = w.handle then { x with last := some v } else x
                let s' := bind (some v)
                { s' with handles := s'.handles.map upd }
        | _, _ => s
      | _, _ => s)

/-- A child reads a box that an earlier sibling writes whose report is FAILED, CANCELLED or DEPFAIL (R29, R319). -/
def State.depFails (s : State) (t : Tile) (b : Batch) (up : Level) (k : Nat) : Bool :=
  match b.dep with
  | none => false
  | some d =>
    (depReads d up k).any fun r => b.kids.any fun o => decide (o.idx < k) &&
      (match o.st with | .done st => st != 0 | _ => false) &&
      ((depWrite d up o.idx).map fun w => s.setsMeet t w r).getD false

/-- The dependence table admits child k: it has entered, no earlier uncompleted entry writes a box it reads, and with one
version none reads or writes the box it writes (R33). -/
def State.depAdmits (s : State) (t : Tile) (b : Batch) (c : Child) : Bool :=
  if b.dep.isNone then true else
  let before := b.entries.filter fun o => decide (o.idx < c.idx)
  c.entered &&
  !(c.reads.any fun r => before.any fun o => (o.write.map fun w => s.setsMeet t w r).getD false) &&
  (match c.write with
   | none => true
   | some w =>
     ((s.handleOf t w.handle).map fun h => (Layout.ofBytes h.bytes).nver != 1).getD true ||
     !(before.any fun o => (o.reads ++ o.write.toList).any fun x => s.setsMeet t x w))

/-! ### LAUNCH and LAUNCHD (R25, R181, R182, R316) -/

/-- An earlier access of the group holds a command of the level sequencer at its issue (R155, R314); one that waits has issued. -/
def State.earlier (s : State) : Bool :=
  !s.g.issuing.wait.retried && s.relWaits (((s.tileOf s.g).map Tile.dom).getD 0)

/-- Bytes of region-0 memory read with read rights by the device for a group; none without a translation. -/
def State.readFor (s : State) (g : Group) (va n : Nat) : Option (List Byte) × State :=
  if va / 2 ^ 60 = 0 then s.fetchStruct g va n else (none, s)

/-- The port map of a tree for a LAUNCH of children at a depth: whether it is valid, and what it binds (R181, R182). -/
def State.portMap (s : State) (g : Group) (tr : Tree) (depth n : Nat) : Option (List (Nat × Nat × Nat) × Nat) × State :=
  let va := tr.rcd.portmap
  if va = 0 then (some ([], 0), s)
  else if va % 16 ≠ 0 then (none, s)
  else match s.readFor g va 16 with
    | (none, s) => (none, s)
    | (some h, s) =>
      let dep := leField h 2 1
      let gmask := leField h 4 2
      let count := leField h 6 2
      let l := tr.level depth
      if leField h 0 2 ≠ 1 ∨ leField h 3 1 ≠ 0 ∨ leField h 8 8 ≠ 0 ∨ dep = 0 ∨ 7 < dep then (none, s)
      else if dep ≠ depth then (some ([], 0), s)
      else if l.place ≠ 3 ∨ count ≠ l.ph * l.pw ∨ gmask = 0 ∨ gmask / 2 ^ l.crew ≠ 0 then (none, s)
      else match s.readFor g (va + 16) count with
        | (none, s) => (none, s)
        | (some es, s) =>
          let e := fun (k b : Nat) => flag (leField es k 1) b
          let bad := (List.range count).any fun k =>
            let r := k / l.pw
            let c := k % l.pw
            decide (16 ≤ leField es k 1) ||
            (e k 3 && (r == 0 || !e (k - l.pw) 1)) || (e k 1 && (decide (l.ph ≤ r + 1) || !e (k + l.pw) 3)) ||
            (e k 0 && (c == 0 || !e (k - 1) 2)) || (e k 2 && (decide (l.pw ≤ c + 1) || !e (k + 1) 0))
          if bad then (none, s)
          else (some (((List.range count).flatMap fun k =>
            (if e k 2 ∧ k + 1 < n then [(k, 3, k + 1)] else []) ++ (if e k 1 ∧ k + l.pw < n then [(k, 4, k + l.pw)] else [])), gmask), s)

/-- The bytes of a tile's pool (R111). -/
def State.poolSize (s : State) (t : Tile) : Nat := t.memb - 64 - s.poolStart t

/-- A placement rule of R27 that the batch as a whole fails, a core without an agent among them (R430). -/
def State.placeFails (s : State) (tr : Tree) (t : Tile) (n : Nat) : Bool :=
  let l := tr.level (t.depth + 1)
  let up := tr.level t.depth
  let unit := unitCores t.core t.dom tr.dies
  if l.dom = 0 then false
  else if t.dom = 5 ∧ l.dom = 4 then decide (tr.members.length < n)
  else match l.place with
    | 1 => (List.range n).any fun k => !((coreFrom unit (l.py + tcoord up k 1) (l.px + tcoord up k 0)).map (s.agentOn t.pkg)).getD false
    | 3 => decide (l.ph * l.pw < n) || decide (256 < n) ||
      (List.range n).any fun k => !((coreFrom unit (l.py + k / l.pw) (l.px + k % l.pw)).map (s.agentOn t.pkg)).getD false
    | _ => false

/-- A dependence descriptor has a res0 bit set. -/
def depRes0 (d : List Byte) : Bool := [0, 0x30, 0x60].any fun o => leField d (o + 2) 2 != 0 || leField d (o + 0x28) 8 != 0

/-- The lowest refusal code of a LAUNCH, or 0 (R25, R315, R316). `fld` and `hnd` are the descriptor's own failures. -/
def State.launchCode (s : State) (g : Group) (n : Nat) (fld hnd badMap : Bool) : Nat :=
  if fld then 0x80000010
  else if !g.priv && g.num != 0 then 0x80000011
  else match s.tileOf g with
    | none => 0x80000012
    | some t =>
      match s.treeOf t with
      | none => 0x80000012
      | some tr =>
        let l := tr.level t.depth
        let k := tr.level (t.depth + 1)
        if tr.rcd.levels.length ≤ t.depth + 1 then 0x80000012
        else if (t.batch.map fun b => decide (b.head < b.n)).getD false then 0x80000013
        else if n = 0 ∨ l.fanout < n ∨ l.shape0 * l.shape1 * l.shape2 < n then 0x80000014
        else if (k.dom == t.dom && decide (s.poolSize t < k.memb)) ||
            (k.dom == 4 && (if t.dom = 5 then (tr.members.take n).any fun m => (s.levelPool m tr.ctx).isNone
                            else (s.levelPool t.pkg tr.ctx).isNone)) then 0x80000015
        else if k.dom == 0 && decide (16 < ((s.crew? t.crew).map fun c => c.blocks.length).getD 0 + n) then 0x80000016
        else if s.placeFails tr t n || badMap then 0x80000017
        else if hnd then 0x80000018
        else 0

/-- A child that has not started. -/
def Child.fresh (k : Nat) : Child :=
  { idx := k, st := .waiting, reln := 0, started := false, entered := false, freed := false, reads := [], write := none,
    hold := [], copies := [], overflow := false }

/-- LAUNCH and LAUNCHD with N, T0 and the dependence descriptor's failures and bytes: the batch is created, or refused. -/
def launchOp (s : State) (y : BitVec 1) (d : BitVec 6) (w t0 : Nat) (fld hnd : Bool) (dep : Option (List Byte)) : Res :=
  let g := s.g
  let n := field w 15 0
  let timed := flag w 16
  if s.earlier then .hold else
  let s := { s with g := g.handOn }
  let (map, s) := match s.tileOf g with
    | some t => match s.treeOf t with
      | some tr => s.portMap g tr (t.depth + 1) n
      | none => (some ([], 0), s)
    | none => (some ([], 0), s)
  match s.launchCode g n (fld || w / 2 ^ 17 != 0) hnd map.isNone with
  | 0 =>
    let b : Batch :=
      { id := s.next, n := n, t0 := if timed then t0 else s.time, head := 0, last := none, dep := dep,
        kids := (List.range n).map Child.fresh, bind := (map.map Prod.fst).getD [], gmask := (map.map Prod.snd).getD 0 }
    xreply (({ s with next := s.next + 1 }.modTile (g.tile.getD 0) fun t => { t with batch := some b }).signalWork
      (if (s.tileOf g).map Tile.dom = some 5 then none else some g.pkg)) y d 0
  | c => xreply s y d c

def execLaunch (y : BitVec 1) (d a b : BitVec 6) (s : State) : Outcome State Fault Refusal :=
  issue (.launch y d a b) true s fun s =>
    launchOp s y d (s.g.sreg a.toNat).toNat (s.g.s2 b.toNat) false false none

def execLaunchd (y : BitVec 1) (d a b : BitVec 6) (s : State) : Outcome State Fault Refusal :=
  issue (.launchd y d a b) true s fun s =>
    let g := s.g
    let va := g.s2 b.toNat
    let (bytes, s) := if va % 16 = 0 then s.fetchStruct g va 144 else (none, s)
    let hnd := match bytes with
      | none => false
      | some x => [0, 0x30, 0x60].any fun o => leField x o 2 != 0 && (s.handle? g.pkg g.ctx (leField x o 2)).isNone
    let fld := match bytes with
      | none => true
      | some x => depRes0 x
    launchOp s y d (g.sreg a.toNat).toNat (g.s2 (b.toNat + 2)) fld hnd bytes

/-! ### JOIN, JOINALL, TILEQ, CANCEL (R28, R29, R317 to R319) -/

/-- The lead of a tile's crew, for the lead-only commands; NOTLEAD, or LEAF for a group without a tile. -/
def State.leadTile (s : State) : Nat ⊕ Tile :=
  let g := s.g
  if !g.priv && g.num != 0 then .inl 0x80000011
  else match s.tileOf g with
    | some t => .inr t
    | none => .inl 0x80000012

/-- A head report is taken: the head moves on, and the group has acquired the child's completion (R156, R317). -/
def State.takeReport (s : State) (t : Tile) : State :=
  (s.modBatch t.id fun b => { b with head := b.head + 1 }).acquire s.g t.dom

/-- The head child's report, when it has one. -/
def Batch.headReport (b : Batch) : Option (Child × Nat) :=
  (b.kid? b.head).bind fun c => c.st.reported.map fun st => (c, st)

def execJoin (d : BitVec 6) (s : State) : Outcome State Fault Refusal :=
  issue (.join d) true s fun s =>
    if s.earlier then .hold else
    match s.leadTile with
    | .inl c => xreply s 1 d c
    | .inr t =>
      match t.batch with
      | none => xreply s 1 d 0x80000000
      | some b =>
        if b.n ≤ b.head then xreply s 1 d 0x80000000
        else match b.headReport with
          | some (c, st) => xreply (s.takeReport t) 1 d (reportWord c.idx st c.reln)
          | none => .wait s .join

/-- JOINALL's reply bits of a report: FAIL, CAN, DEP (R317). -/
def joinFlag (st : Nat) : Nat := match st with | 1 => 1 | 2 => 2 | 3 => 4 | _ => 0

/-- Take head reports while there are any. -/
def State.takeReports (s : State) (tid : Nat) : Nat → Nat → Nat → Nat × Nat × State
  | 0, n, f => (n, f, s)
  | k + 1, n, f =>
    match s.tile? tid with
    | none => (n, f, s)
    | some t =>
      match t.batch.bind Batch.headReport with
      | some (_, st) => (s.takeReport t).takeReports tid k (n + 1) (f ||| joinFlag st)
      | none => (n, f, s)

/-- JOINALL: a waiting one keeps what it has taken. -/
def execJoinall (d : BitVec 6) (s : State) : Outcome State Fault Refusal :=
  issue (.joinall d) true s fun s =>
    if s.earlier then .hold else
    match s.leadTile with
    | .inl c => xreply s 1 d c
    | .inr t =>
      match t.batch with
      | none => xreply s 1 d 0
      | some b =>
        let (n, f) := match s.g.issuing.wait with
          | .joinall n f => (n, f)
          | _ => (0, 0)
        let (n, f, s) := s.takeReports t.id b.n n f
        if ((s.tile? t.id).bind Tile.batch).map (fun b => decide (b.n ≤ b.head)) = some true then
          xreply s 1 d (n + f * 2 ^ 16)
        else .wait s (.joinall n f)

def execTileq (d a : BitVec 6) (s : State) : Outcome State Fault Refusal :=
  issue (.tileq d a) true s fun s =>
    if s.earlier then .hold else
    let item := (s.g.sreg a.toNat).toNat
    if 6 < item then xreply s 1 d 0x80000010
    else match s.tileOf s.g with
      | none => xreply s 1 d 0x80000012
      | some t =>
        let b := t.batch.getD { id := 0, n := 0, t0 := 0, head := 0, last := none, dep := none, kids := [], bind := [], gmask := 0 }
        xreply s 1 d (match item with
          | 0 => if b.n ≤ b.head then 0 else b.n
          | 1 => b.head
          | 2 => (b.kids.filter Child.started).length
          | 3 => b.head
          | 4 => (b.kids.filter fun c => decide (b.head < c.idx) && c.st.reported.isSome).length
          | 5 => b.entries.length
          | _ => t.reln)

/-- Children not yet started and children awaiting relaunch are reported CANCELLED; how many there were. -/
def State.cancelKids (s : State) (tid : Nat) : Nat × State :=
  match (s.tile? tid).bind Tile.batch with
  | none => (0, s)
  | some b =>
    let ks := (b.kids.filter fun c => c.st == .waiting || c.st == .relaunch).map Child.idx
    (ks.length, ks.foldl (fun (s : State) k => s.reportChild tid k 2) s)

def execCancel (y : BitVec 1) (d : BitVec 6) (s : State) : Outcome State Fault Refusal :=
  issue (.cancel y d) true s fun s =>
    if s.earlier then .hold else
    match s.leadTile with
    | .inl c => xreply s y d c
    | .inr t => let (n, s) := s.cancelKids t.id; xreply s y d n

end Sys2Proof.Machine
end

