-- ==== Sys2Proof/Machine/Copy.lean ====
section
/-! DEFINITION. Copy engines (R124 to R134, R322 to R324): descriptors, acceptance, what a copy moves, its arrival. -/

namespace Sys2Proof.Machine

open Host (Outcome)

/-! ### Structures in a tile's own memory -/

/-- n bytes at an address in the tile's own memory: its level window, or package memory for a PKG or POD tile (R322). -/
def State.ownStruct (s : State) (g : Group) (t : Tile) (va n : Nat) : Option (List Byte) × State :=
  match s.place g va with
  | some (.level _ lvl off memb) => if lvl = t.dom ∧ off + n ≤ memb then s.fetchStruct g va n else (none, s)
  | some (.home pkg _) => if 4 ≤ t.dom ∧ pkg = g.pkg then s.fetchStruct g va n else (none, s)
  | none => (none, s)

/-- The key of a byte of a tile's memory by its window offset (R110, R437). -/
def State.tileKey (s : State) (ctx : Nat) (t : Tile) (off : Nat) : Option Nat :=
  if t.dom = 0 then none
  else if t.dom < 4 then some (t.home + off)
  else (s.levelPool t.pkg ctx).map fun r => s.regionKey t.pkg r (t.va - 2 ^ 52 - r.vbase + off)

/-- Where the window of a tile begins while its crew is off its core with its memory (R370, R413): keys of no memory. -/
def savedHome (tile : Nat) : Nat := 2 ^ 100 + tile * 2 ^ 60 + 2 ^ 48
def Tile.away (t : Tile) : Bool := decide (2 ^ 100 ≤ t.home)

/-- The barrier object at a window offset of a tile, aligned and outside its guard granules (R111, R306). -/
def State.ownBarrier (s : State) (ctx : Nat) (t : Tile) (off : Nat) : Option Nat :=
  if off % 32 ≠ 0 ∨ off < 64 ∨ t.memb < off + 96 then none
  else if t.dom < 4 ∧ s.guardHit (t.home + off) off t.memb 32 then none
  else s.tileKey ctx t off

/-! ### Engines (R124) -/

/-- The copy engine of a tile's boundary with its children. -/
def copyEngine (t : Tile) : Nat :=
  match t.dom with
  | 1 => engineId 1 t.pkg t.core
  | 2 => engineId 2 t.pkg (cluOf t.core)
  | 3 => engineId 3 t.pkg (dieOf t.core)
  | 4 => engineId 3 t.pkg (dieOf t.core)
  | _ => engineId 4 t.pkg 0

def State.engineCmds (s : State) (engine : Nat) : List Cmd := s.cmds.filter fun c => c.engine == engine

/-- The command is the oldest of its engine. -/
def State.headOf (s : State) (c : Cmd) : Bool := ((s.engineCmds c.engine).head?.map fun d => d.id == c.id).getD false

/-! ### Descriptor fields (R126) -/

def cdRop (d : List Byte) : Nat := leField d 4 4 % 8
def cdBar (d : List Byte) : Nat := leField d 8 4
/-- The children that a descriptor names. -/
def cdKids (d : List Byte) : List Nat := (bitsSet 64 (leField d 0x10 8)).map fun i => leField d 0x0C 2 + i
def cdSorg (d : List Byte) (j : Nat) : Int := signExt (leField d (0x18 + 4 * j) 4) 32
def cdDorg (d : List Byte) (j : Nat) : Int := signExt (leField d (0x2C + 4 * j) 4) 32
def cdExt (d : List Byte) (j : Nat) : Nat := leField d (0x40 + 2 * j) 2
def cdStep (d : List Byte) (j : Nat) : Int := if j < 3 then signExt (leField d (0x4A + 2 * j) 2) 16 else 0
def cdIdx (d : List Byte) : Nat := leField d 0x50 4
def cdIcnt (d : List Byte) : Nat := leField d 0x54 4
def cdVreg (d : List Byte) : Nat := leField d 0x58 1
/-- The parent side is the source for MCOPY and GCOPY. -/
def CopyRec.down (r : CopyRec) : Bool := r.fn == 0 || r.fn == 2

def Handle.layout (h : Handle) : Layout := Layout.ofBytes h.bytes

/-- The box dimensions walked: the larger NDIM (R127). -/
def CopyRec.ndim (r : CopyRec) : Nat :=
  max ((r.src.map fun h => h.layout.ndim).getD 0) ((r.dst.map fun h => h.layout.ndim).getD 0)

/-- The extents of the walk: EXT, the last being the index count for GCOPY (R127, R130). -/
def CopyRec.exts (r : CopyRec) : List Nat :=
  (List.range r.ndim).map fun j => if r.fn = 2 ∧ j + 1 = r.ndim then cdIcnt r.desc else cdExt r.desc j

/-- Box order: dimension 0 fastest (R127). -/
def boxPoints : List Nat → List (List Nat)
  | [] => [[]]
  | z :: t => (boxPoints t).flatMap fun e => (List.range z).map fun x => x :: e

/-! ### Elements read and written by an engine (R114, R123, R125, R411) -/

/-- What an engine's work has come to: state, flags, and the keys of bytes written, with whether from poisoned data. -/
structure Work where
  s : State
  f : Fold
  wrote : List (Nat × Bool)

/-- A guard hit of an engine: the level of the memory, the window offset, the key (R114). -/
abbrev GuardSpot := Nat × Nat × Nat

/-- What an engine reads: a code with its flags, whether its data was poisoned, and its guard hit. -/
structure Got where
  code : Nat
  f : Fold
  bad : Bool
  hit : Option GuardSpot
  deriving DecidableEq, Repr

/-- The crew, group number and PC of the command or stream that an engine works for. -/
def State.engineIssuer (s : State) (cmd : Nat) : Option (Nat × Nat × Nat) :=
  match s.cmd? cmd with
  | some c => some (c.crew, c.num, c.pc)
  | none => (s.streams.find? fun x => x.id == cmd).map fun x => (x.crew, x.num, x.pc)

/-- A guard hit that an engine makes goes into the record of the crew it works for (R114). -/
def State.guardAt (s : State) (cmd : Nat) (hit : Option GuardSpot) : State :=
  match hit, s.engineIssuer cmd with
  | some (lvl, off, key), some (crew, num, pc) => s.recordGuard crew num pc lvl off key
  | _, _ => s

/-- Flags, and a guard hit, of one access come to an engine's work. -/
def Work.meet (w : Work) (cmd : Nat) (f : Fold) (hit : Option GuardSpot) : Work :=
  { w with s := w.s.guardAt cmd hit, f := w.f.and f }

/-- An element that an engine has read comes to its work. -/
def Work.took (w : Work) (cmd : Nat) (g : Got) : Work := w.meet cmd g.f g.hit

/-- A byte of a seat as a guard hit. -/
def Seat.spot (seat : Seat) (off : Nat) : Option GuardSpot :=
  match seat with
  | .region _ _ => none
  | .window home _ lvl => some (lvl, off, home + off)

/-- The first of some bytes of a seat that is a guard byte or lies beyond MEMB. -/
def State.seatHit (s : State) (seat : Seat) (offs : List Nat) : Option GuardSpot :=
  (offs.find? fun o => (s.seatKey seat o).isNone).bind seat.spot

/-- One element through a layout. -/
def State.engineRead (s : State) (cmd : Nat) (seat : Seat) (l : Layout) (v : Nat) (cs : List Int) : Got :=
  let cs := cs.take l.ndim
  if !l.inside cs then ⟨l.padCode, ⟨2, 1, 0⟩, false, none⟩ else
  let ps := l.element v (cs.map Int.toNat)
  let (code, hit) := readParts ps l.padCode fun off => (s.seatKey seat off).map fun k => (s.engineByte cmd k).toNat
  let bad := !s.poison.isEmpty && ps.any fun p => ((s.seatKey seat p.off).map fun k => s.poisonedAt k 1).getD false
  ⟨code, (Fold.bit 0 hit).and (Fold.bit 6 bad), bad, s.seatHit seat (ps.map Part.off)⟩

/-- A byte written by an engine, from poisoned data or not. -/
def Work.byte (w : Work) (cmd k : Nat) (b : Byte) (bad : Bool) : Work :=
  { w with s := w.s.engineStore cmd k b, wrote := if w.s.poison.isEmpty && !bad then w.wrote else (k, bad) :: w.wrote }

/-- The parts of an element's code written by a command into a seat; guard bytes are discarded (R114). -/
def Work.parts (w : Work) (cmd : Nat) (seat : Seat) (ps : List Part) (code : Nat) (bad : Bool) : Work :=
  let hit := ps.any fun p => (w.s.seatKey seat p.off).isNone
  let w := w.meet cmd (Fold.bit 0 hit) (w.s.seatHit seat (ps.map Part.off))
  ps.foldl (fun (w : Work) p =>
    match w.s.seatKey seat p.off with
    | none => w
    | some k => w.byte cmd k (BitVec.ofNat 8 (writePart p code (w.s.byte k).toNat)) bad) w

/-- One element written through a layout. -/
def Work.write (w : Work) (cmd : Nat) (seat : Seat) (l : Layout) (v : Nat) (cs : List Int) (code : Nat) (bad : Bool) : Work :=
  let cs := cs.take l.ndim
  if !l.inside cs then { w with f := w.f.and ⟨2, 1, 0⟩ } else
  w.parts cmd seat (l.element v (cs.map Int.toNat)) code bad

/-- Poison after an engine's writes: a word written from poisoned data is poisoned, one wholly rewritten is not, and one
rewritten in part meets the error (R411). -/
def Work.settle (w : Work) : Work :=
  let words := (w.wrote.map fun kb => eccWord kb.1).eraseDups
  words.foldl (fun (w : Work) word =>
    let mine := w.wrote.filter fun kb => eccWord kb.1 == word
    if mine.any Prod.snd then
      { w with s := { w.s with poison := if w.s.poison.contains word then w.s.poison else word :: w.s.poison } }
    else if !w.s.poison.contains word then w
    else if (List.range (eccSize word)).all fun j => mine.any fun kb => kb.1 == word + j then
      { w with s := { w.s with poison := w.s.poison.filter fun x => x != word } }
    else { w with f := w.f.and (Fold.bit 6 true) }) w

/-! ### Combining (R132) -/

/-- op(d, s) of ROP 1 ADD, 2 MIN, 3 MAX on F32, BF16 or S32, with NaN and overflow flags. -/
def combineRop (rop et d s : Nat) : Nat × Fold :=
  if et = 8 then
    (wrap 32 (match rop with
      | 1 => signExt d 32 + signExt s 32
      | 2 => min (signExt d 32) (signExt s 32)
      | _ => max (signExt d 32) (signExt s 32)), Fold.none)
  else
    let f := if et = 13 then bf16 else f32
    let x := f.decode d
    let y := f.decode s
    let v := match rop with
      | 1 => x.add y
      | 2 => xMinMax false x y
      | _ => xMinMax true x y
    let r := f.round .rne false 0 v
    (r.code, (Fold.bit 2 v.isNan).and (Fold.bit 3 r.ovf))

/-! ### Sides of a copy -/

/-- A side of a copy: a layout at a seat, or a run of registers of a group (R127). -/
inductive Side where
  | mem (seat : Seat) (l : Layout) (v : Nat)
  | grp (gid width : Nat)
  deriving DecidableEq, Repr

/-- The side that a handle gives for a tile; in another package its region is that package's (log entry 21). -/
def State.sideOf (s : State) (h : Handle) (t : Tile) (write : Bool) : Option Side :=
  let l := h.layout
  let h' := if l.loc = 0 ∧ t.pkg ≠ h.pkg then { h with pkg := t.pkg, rgn := s.region? t.pkg h.ctx l.region } else h
  (s.seat h' (some t.id)).map fun seat => .mem seat l (s.version (some t.id) h write)

/-- A side by handle, or the registers of a GRP child. -/
def State.copySide (s : State) (h : Option Handle) (t : Tile) (write : Bool) : Option Side :=
  match h with
  | some h => s.sideOf h t write
  | none => (s.allGroups.find? fun g => g.tile == some t.id && g.id != 0).map fun g => .grp g.id g.width

/-- Coordinates of a box position: origin, step of the child, position. -/
def coordsOf (org : Nat → Int) (step : Nat → Int) (tc : Nat → Nat) (e : List Nat) : List Int :=
  ((List.range e.length).zip e).map fun je => org je.1 + step je.1 * (tc je.1 : Int) + (je.2 : Int)

/-- Element number n of a side at coordinates. -/
def State.readSide (s : State) (cmd : Nat) (side : Side) (vreg n : Nat) (cs : List Int) : Got :=
  match side with
  | .mem seat l v => s.engineRead cmd seat l v cs
  | .grp gid w =>
    match s.group? gid with
    | none => ⟨0, Fold.none, false, none⟩
    | some g =>
      let l := g.lane (n % w)
      let pos := l.regAt cmd vreg (n / w)
      let x := (l.seenBy cmd pos (Config.freeAt cmd s.free n 14) (s.stackWord g (n % w) pos)).getD (BitVec.ofNat 32 (Config.freeAt cmd s.free n 15))
      ⟨x.toNat, Fold.bit 6 (l.poison.contains pos), l.poison.contains pos, none⟩

def Work.writeSide (w : Work) (cmd : Nat) (side : Side) (vreg n : Nat) (cs : List Int) (code : Nat) (bad : Bool) : Work :=
  match side with
  | .mem seat l v => w.write cmd seat l v cs code bad
  | .grp gid wd =>
    match w.s.group? gid with
    | none => w
    | some g =>
      let pos := (g.lane (n % wd)).regAt cmd vreg (n / wd)
      let free := (g.lane (n % wd)).spans.any fun x => x.cmd == cmd && x.touched.contains pos
      let x := if free then Config.freeAt cmd w.s.free n 16 else code
      match w.s.spilledAt g (n % wd) pos with
      | some k => { w with s := w.s.setNum k 4 x }
      | none => { w with s := w.s.modGroup gid fun g => g.modLane (n % wd) fun l =>
          { l with v := rput l.v pos (BitVec.ofNat 32 x),
                   poison := if bad then pos :: l.poison else l.poison.filter fun q => q != pos } }

/-- The key of a byte of a tile's own memory that an engine reads without a layout; none for a guard byte or one beyond MEMB, which
read zero (R114). A POD or PKG tile has none of these. -/
def State.ownByte (s : State) (ctx : Nat) (t : Tile) (off : Nat) : Option Nat :=
  if t.dom < 4 ∧ (t.memb ≤ off ∨ s.guardKey (t.home + off)) then none else s.tileKey ctx t off

/-- n bytes that an engine reads without a layout at an offset of a tile's own memory: their value, each guard byte counted (R114,
R161, R411). -/
def State.directRead (s : State) (cmd ctx : Nat) (t : Tile) (off n : Nat) : Got :=
  let ks := (List.range n).map fun j => s.ownByte ctx t (off + j)
  let bare := (List.range n).filter fun j => decide (t.dom < 4) && (ks.getD j none).isNone
  let bad := !s.poison.isEmpty && ks.any fun k => (k.map fun k => s.poisonedAt k 1).getD false
  ⟨natOf (ks.map fun k => (k.map fun k => s.engineByte cmd k).getD 0), Fold.and ⟨if bare.isEmpty then 0 else 1, bare.length, 0⟩ (Fold.bit 6 bad), bad,
    bare.head?.map fun j => (t.dom, off + j, t.home + off + j)⟩

/-- Several reads of an engine, one after the other. -/
structure Gots where
  codes : List Nat := []
  f : Fold := Fold.none
  bad : Bool := false
  hits : List GuardSpot := []
  deriving DecidableEq, Repr

def Gots.add (a : Gots) (g : Got) : Gots := ⟨a.codes ++ [g.code], a.f.and g.f, a.bad || g.bad, a.hits ++ g.hit.toList⟩

def Work.tookAll (w : Work) (cmd : Nat) (g : Gots) : Work :=
  g.hits.foldl (fun (w : Work) h => w.meet cmd Fold.none (some h)) { w with f := w.f.and g.f }

/-- The words' guard: a byte written without a seat's layout, guard bytes discarded (R114). -/
def Work.direct (w : Work) (cmd ctx : Nat) (t : Tile) (off : Nat) (bs : List Byte) (bad : Bool) : Work :=
  let bare := (List.range bs.length).filter fun j => decide (t.dom < 4) && (w.s.ownByte ctx t (off + j)).isNone
  let w := w.meet cmd ⟨if bare.isEmpty then 0 else 1, bare.length, 0⟩
    (bare.head?.map fun j => (t.dom, off + j, t.home + off + j))
  ((List.range bs.length).zip bs).foldl (fun (w : Work) jb =>
    match w.s.ownByte ctx t (off + jb.1) with
    | some k => w.byte cmd k jb.2 bad
    | none => w) w

/-- Index t of a GCOPY's list (R130). -/
def State.gatherIndex (s : State) (cmd ctx : Nat) (t : Tile) (r : CopyRec) (n : Nat) : Got :=
  s.directRead cmd ctx t (cdIdx r.desc + 4 * n) 4

/-- The part of a down-copy for one child: the box out of the parent's memory into the child's (R129, R130). -/
def Work.partDown (w : Work) (cmd ctx : Nat) (t : Tile) (r : CopyRec) (parent child : Side) (tc : Nat → Nat) : Work :=
  let rows : List (Int × Bool) × Work := if r.fn ≠ 2 then ([], w) else
    (List.range (cdIcnt r.desc)).foldl (fun (a : List (Int × Bool) × Work) n =>
      let i := a.2.s.gatherIndex cmd ctx t r n
      (a.1 ++ [(signExt i.code 32, i.bad)], a.2.took cmd i)) ([], w)
  let pts := boxPoints r.exts
  ((List.range pts.length).zip pts).foldl (fun (w : Work) ne =>
    let src := coordsOf (cdSorg r.desc) (cdStep r.desc) tc ne.2
    let row := rows.1.getD (ne.2.getD (r.ndim - 1) 0) (0, false)
    let src := if r.fn ≠ 2 then src else src.take (r.ndim - 1) ++ [row.1]
    let x := w.s.readSide cmd parent (cdVreg r.desc) ne.1 src
    (w.took cmd x).writeSide cmd child (cdVreg r.desc) ne.1 (coordsOf (cdDorg r.desc) (fun _ => 0) tc ne.2) x.code
      (x.bad || (r.fn == 2 && row.2))) rows.2

/-- The part of an up-copy from one child; `seen` holds the elements that REDUCE has stored already (R131, R133). -/
def Work.partUp (w : Work) (cmd : Nat) (r : CopyRec) (parent child : Side) (et : Nat) (tc : Nat → Nat)
    (seen : List (List Int)) : Work × List (List Int) :=
  let pts := boxPoints r.exts
  let rop := cdRop r.desc
  let nd := match parent with
    | .mem _ l _ => l.ndim
    | .grp _ _ => 5
  ((List.range pts.length).zip pts).foldl (fun (a : Work × List (List Int)) ne =>
    let (w, seen) := a
    let x := w.s.readSide cmd child (cdVreg r.desc) ne.1 (coordsOf (cdSorg r.desc) (fun _ => 0) tc ne.2)
    let dst := (coordsOf (cdDorg r.desc) (cdStep r.desc) tc ne.2).take nd
    let w := w.took cmd x
    if rop = 0 ∨ (r.fn = 3 ∧ !seen.contains dst) then
      (w.writeSide cmd parent 0 ne.1 dst x.code x.bad, dst :: seen)
    else
      let inside := match parent with
        | .mem _ l _ => l.inside dst
        | .grp _ _ => true
      let old := w.s.readSide cmd parent 0 ne.1 dst
      let (y, f) := combineRop rop et old.code x.code
      let w := if inside then (w.took cmd old).meet cmd f none else w
      (w.writeSide cmd parent 0 ne.1 dst y (x.bad || old.bad), seen)) (w, seen)

/-! ### Acceptance (R128, R322) -/

/-- Types of 32 bits that a GRP end admits (R127). -/
def grpType (et : Nat) : Bool := et == 2 || et == 8 || et == 9 || et == 14 || et == 18 || et == 19

/-- A layout's LOC matches the memory of a domain (R124). -/
def locFits (l : Layout) (dom : Nat) : Bool := if 1 ≤ dom ∧ dom ≤ 3 then l.loc == dom else l.loc == 0

/-- The children of a tile are GRP tiles, whose end of a copy has no handle. -/
def Tree.grpKids (tr : Tree) (t : Tile) : Bool := decide (t.depth + 1 < tr.rcd.levels.length) && (tr.level (t.depth + 1)).dom == 0

/-- A copy descriptor is refused with FIELD, for the command 0 MCOPY, 1 UCOPY, 2 GCOPY, 3 REDUCE and a child end GRP or not (R126,
R128, R322). -/
def copyField (fn : Nat) (grp : Bool) (d : List Byte) : Bool :=
  let down := fn == 0 || fn == 2
  leField d 4 4 / 8 != 0 || leField d 0x0E 2 != 0 || !zeroAt d 0x59 39 || decide (3 < cdRop d) ||
    (grp && leField d (if down then 2 else 0) 2 != 0) || (down && cdRop d != 0) ||
    (fn == 2 && (cdIdx d % 4 != 0 || decide (65536 < cdIcnt d)))

/-- The lowest refusal code beyond FIELD, NOTLEAD and LEAF of a copy command, 0 when it is accepted; `r` holds what the descriptor
names (R128, R315). -/
def State.copyCode (s : State) (g : Group) (t : Tile) (tr : Tree) (r : CopyRec) : Nat :=
  let d := r.desc
  let rop := cdRop d
  let kd := (tr.level (t.depth + 1)).dom
  let parentH := if r.down then r.src else r.dst
  let childH := if r.down then r.dst else r.src
  let grp := kd == 0
  let b := t.batch.filter fun b => decide (b.head < b.n)
  let ls := (r.src.toList ++ r.dst.toList).map Handle.layout
  let ets := ls.map Layout.et
  let total := r.exts.foldl (· * ·) 1
  if (cdKids d).isEmpty || (cdKids d).any fun k => decide ((b.map Batch.n).getD 0 ≤ k) then 0x80000019
  else if decide (kd + 1 < t.dom) || (parentH.map fun h => !locFits h.layout t.dom).getD false ||
      (!grp && (childH.map fun h => !locFits h.layout kd).getD false) then 0x8000001A
  else if (match ls with
      | [a, b] => a.et != b.et || (a.et == 16 && a.fmt != b.fmt)
      | _ => false) ||
      (rop != 0 && ets.any fun et => !(et == 14 || et == 13 || et == 8)) ||
      (grp && ((ets.any fun et => !grpType et) || decide (total != 0 ∧ 63 < cdVreg d + (total - 1) / g.width))) then 0x8000001B
  else if (s.ownBarrier tr.ctx t (cdBar d)).isNone then 0x8000001C
  else if (r.fn == 2 && (match ls with
      | [a, b] => a.ndim != b.ndim
      | _ => false)) || (r.fn == 3 && rop == 0) then 0x80000021
  else 0

/-- A handle as an accepted command keeps it: none when unknown or dropped (R122, R128). -/
def State.keepHandle (s : State) (g : Group) (h : Nat) : Option Handle := s.handle? g.pkg g.ctx h

/-- The bytes a side's box touches, for R125: key and length of every element part. -/
def State.sideSpans (s : State) (side : Option Side) (pts : List (List Int)) : List (Nat × Nat) :=
  match side with
  | some (.mem seat l v) => pts.flatMap fun cs =>
      if l.inside (cs.take l.ndim) then
        (l.element v ((cs.take l.ndim).map Int.toNat)).filterMap fun p => (s.seatKey seat p.off).map fun k => (k, 1)
      else []
  | _ => []

/-- What a copy touches of a child's memory (R125, R127). -/
def State.kidSpans (s : State) (r : CopyRec) (kid : Tile) : List (Nat × Nat) :=
  let org := if r.down then cdDorg r.desc else cdSorg r.desc
  s.sideSpans (s.copySide (if r.down then r.dst else r.src) kid r.down)
    ((boxPoints r.exts).map fun e => coordsOf org (fun _ => 0) (fun _ => 0) e)

/-- A copy takes the registers of a GRP child that it reads or writes (R125, R127). -/
def State.kidHold (s : State) (cmd : Nat) (r : CopyRec) (kid : Tile) : State :=
  match s.copySide (if r.down then r.dst else r.src) kid r.down with
  | some (.grp gid w) =>
    let n := r.exts.foldl (· * ·) 1
    let take := fun (i : Nat) (l : Lane) =>
      l.hold cmd r.down 0 ((List.range (ceilDiv (n - i) w)).map fun j => l.wb + cdVreg r.desc + j)
    s.modGroup gid fun g => { g with lanes := ((List.range g.lanes.length).zip g.lanes).map fun il => take il.1 il.2 }
  | _ => s

/-- The children of a copy whose groups run, or will when the parts held for them have landed. -/
def State.copyKids (s : State) (t : Tile) (r : CopyRec) : List Tile :=
  (cdKids r.desc).filterMap fun k => (t.batch.bind fun b => b.kid? k).bind fun c => match c.st with
    | .running tid => s.tile? tid
    | _ => none

/-- A child that starts while a copy upward names it is one of its sources from then on (R125, R131). -/
def State.coverKid (s : State) (t : Tile) (k : Nat) (kid : Tile) : State :=
  s.cmds.foldl (fun (s : State) c =>
    match c.kind with
    | .copy r _ _ =>
      if c.tile == some t.id && c.batch == (t.batch.map Batch.id).getD 0 && !r.down && !r.bad && (cdKids r.desc).contains k then
        let sp := s.kidSpans r kid
        (s.modCmd c.id fun (q : Cmd) => { q with src := q.src ++ sp }).kidHold c.id r kid
      else s
    | _ => s) s

/-- The spans of a copy's sources and destinations as its children stand (R125). -/
def State.copySpans (s : State) (ctx : Nat) (t : Tile) (up : Level) (r : CopyRec) : List (Nat × Nat) × List (Nat × Nat) :=
  let pts := boxPoints r.exts
  let parent := s.copySide (if r.down then r.src else r.dst) t (!r.down)
  let mine := (cdKids r.desc).flatMap fun k =>
    let tc := tcoord up k
    let org := if r.down then cdSorg r.desc else cdDorg r.desc
    let sp := pts.map fun e => coordsOf org (cdStep r.desc) tc e
    if r.fn ≠ 2 then s.sideSpans parent sp
    else
      let rows := (List.range (cdIcnt r.desc)).map fun n => signExt (s.gatherIndex 0 ctx t r n).code 32
      ((List.range (cdIcnt r.desc)).filterMap fun n => (s.tileKey ctx t (cdIdx r.desc + 4 * n)).map fun k => (k, 4)) ++
      s.sideSpans parent ((sp.zip pts).map fun ce => ce.1.take (r.ndim - 1) ++ [rows.getD (ce.2.getD (r.ndim - 1) 0) 0])
  let theirs := (s.copyKids t r).flatMap fun kid => s.kidSpans r kid
  if r.down then (mine, theirs) else (theirs, mine)

/-- A copy command past its checks enters its engine, or its group is held (R125, R128, R129). -/
def copyAccept (s : State) (y : BitVec 1) (d : BitVec 6) (t : Tile) (tr : Tree) (r : CopyRec) : Res :=
  let g := s.g
  let e := copyEngine t
  if 32 ≤ (s.engineCmds e).length then .fence
  else
    let (id, s) := s.fresh
    let (ss, ds) := if r.bad then ([], []) else s.copySpans tr.ctx t (tr.level t.depth) r
    let c : Cmd :=
      { id := id, engine := e, pkg := g.pkg, core := g.core, gid := g.id, num := g.num, pc := g.pc, crew := g.crew, tile := some t.id,
        ctx := g.ctx, bar := s.ownBarrier tr.ctx t (cdBar r.desc), reply := none, time := s.time, sent := true,
        batch := (t.batch.map Batch.id).getD 0, src := ss, dst := ds,
        hnds := (r.src.toList ++ r.dst.toList).map Handle.h, kind := .copy r 0 Fold.none }
    -- a part for an admitted child whose groups have not started holds them (R129)
    let hold := fun (s : State) (k : Nat) => s.modKid t.id k fun kid =>
      match kid.st with
      | .running tid => if ((s.tile? tid).map Tile.live).getD true then kid else { kid with hold := kid.hold ++ [id] }
      | _ => kid
    let s := if r.down ∧ !r.bad then (cdKids r.desc).foldl hold s else s
    let s := if r.bad then s else (s.copyKids t r).foldl (fun (s : State) kid => s.kidHold id r kid) s
    xreply { s with cmds := s.cmds ++ [c] } y d 0

/-- MCOPY, UCOPY, GCOPY and REDUCE: refused, held, or accepted (R314, R315, R322). -/
def copyOp (i : Instr) (s : State) (y : BitVec 1) (d a : BitVec 6) (fn : Nat) : Outcome State Fault Refusal :=
  issue i true s fun s =>
    let g := s.g
    let va := g.s2 a.toNat
    let tile := s.tileOf g
    if va % 64 ≠ 0 then xreply s y d 0x80000010
    else if s.relWaits ((tile.map Tile.dom).getD 0) then .hold
    else
      let (desc, s) := match tile with
        | some t => s.ownStruct g t va 128
        | none => (none, s)
      let grp := ((tile.bind fun t => (s.treeOf t).map fun tr => tr.grpKids t).getD false)
      if (desc.map fun b => copyField fn grp b).getD false then xreply s y d 0x80000010
      else match s.leadTile with
        | .inl c => xreply s y d c
        | .inr t =>
          match s.treeOf t, desc with
          | none, _ => xreply s y d 0x80000012
          | some tr, desc =>
            if t.dom = 0 ∨ tr.rcd.levels.length ≤ t.depth + 1 then xreply s y d 0x80000012
            else match desc with
              | none => xreply s y d 0x8000001D
              | some b =>
                let src := s.keepHandle g (leField b 0 2)
                let dst := s.keepHandle g (leField b 2 2)
                let down := fn = 0 ∨ fn = 2
                let bad := (src.isNone && !(grp && !down)) || (dst.isNone && !(grp && down))
                let r : CopyRec := ⟨fn, b, if grp ∧ !down then none else src, if grp ∧ down then none else dst, bad⟩
                match s.copyCode g t tr r with
                | 0 => copyAccept s y d t tr r
                | c => xreply s y d c

def execMcopy (y : BitVec 1) (d a : BitVec 6) (s : State) : Outcome State Fault Refusal := copyOp (.mcopy y d a) s y d a 0
def execUcopy (y : BitVec 1) (d a : BitVec 6) (s : State) : Outcome State Fault Refusal := copyOp (.ucopy y d a) s y d a 1
def execGcopy (y : BitVec 1) (d a : BitVec 6) (s : State) : Outcome State Fault Refusal := copyOp (.gcopy y d a) s y d a 2
def execReduce (y : BitVec 1) (d a : BitVec 6) (s : State) : Outcome State Fault Refusal := copyOp (.reduce y d a) s y d a 3

/-- CQRY (R323). -/
def execCqry (d a b : BitVec 6) (s : State) : Outcome State Fault Refusal :=
  issue (.cqry d a b) true s fun s =>
    let item := (s.g.sreg a.toNat).toNat
    let k := (s.g.sreg b.toNat).toNat
    if s.earlier then .hold
    else if 2 < item then xreply s 1 d 0x80000010
    else match s.tileOf s.g with
      | none => xreply s 1 d 0x80000012
      | some t =>
        match s.treeOf t with
        | none => xreply s 1 d 0x80000012
        | some tr =>
          if t.dom = 0 ∨ tr.rcd.levels.length ≤ t.depth + 1 then xreply s 1 d 0x80000012
          else
            let cs := s.engineCmds (copyEngine t)
            match item with
            | 0 => xreply s 1 d cs.length
            | 1 => xreply s 1 d (cs.filter fun c => c.tile == some t.id).length
            | _ =>
              match (t.batch.filter fun b => decide (b.head < b.n)).bind fun b => b.kid? k with
              | none => xreply s 1 d 0x80000019
              | some c => xreply s 1 d (if c.overflow then 17 else c.copies.length)

/-! ### A copy's work and arrival (R129 to R134) -/

/-- The tile that runs as child k of a batch. -/
def State.kidTile (s : State) (t : Tile) (batch k : Nat) : Option Tile :=
  (t.batch.filter fun b => b.id == batch).bind fun b => (b.kid? k).bind fun c => match c.st with
    | .running tid => s.tile? tid
    | _ => none

/-- One child's part of a down-copy. -/
def Work.deliver (w : Work) (cmd : Nat) (t : Tile) (up : Level) (k : Nat) (kid : Tile) (r : CopyRec) : Work :=
  match w.s.copySide r.src t false, w.s.copySide r.dst kid true with
  | some p, some c => w.partDown cmd (((w.s.treeOf t).map Tree.ctx).getD 0) t r p c (tcoord up k)
  | _, _ => { w with f := w.f.and (Fold.bit 7 true) }

/-- The device records a down-copy delivered to a child, up to 16 (R129). -/
def Child.record (c : Child) (r : CopyRec) : Child :=
  if 16 ≤ c.copies.length then { c with overflow := true } else { c with copies := c.copies ++ [r] }

/-- A part of a copy is held for a child that has not started or awaits relaunch (R129), or whose crew SAVE has taken off its core with
its memory. -/
def State.partHeld (s : State) (c : Cmd) (t : Nat) (k : Nat) : Bool :=
  ((((s.tile? t).bind Tile.batch).filter fun b => b.id == c.batch).bind fun b =>
    (b.kid? k).map fun q => q.st == .waiting || q.st == .relaunch || match q.st with
      | .running tid => ((s.tile? tid).map Tile.away).getD false
      | _ => false).getD false

/-- The part for child k has landed: it is recorded. One held for the child happens before its start, so the child may read it
from then on (R129, R156), and the groups start when it was the last part held. -/
def State.partLanded (s : State) (cmd tile k : Nat) (kid : Tile) (r : CopyRec) : State :=
  let hold := (((s.tile? tile).bind Tile.batch).bind fun b => (b.kid? k).map Child.hold).getD []
  let last := hold == [cmd]
  let s := if !hold.contains cmd then s else
    let own := s.kidSpans r kid
    let s := s.mapGroups fun g => if g.tile = some kid.id then g.letGo fun c => c == cmd else g
    s.modCmd cmd fun q => { q with dst := q.dst.filter fun sp => !own.contains sp }
  let s := s.modKid tile k fun q => { q.record r with hold := q.hold.filter fun h => h != cmd }
  if last then s.startGroups kid.id else s

/-- The parts of a down-copy for a list of children, in order, up to the first that is held: what has been done, and how many
parts are done in all. -/
def Work.downParts (c : Cmd) (t : Tile) (up : Level) (r : CopyRec) : List Nat → Work → Nat → Work × Nat
  | [], w, n => (w, n)
  | k :: ks, w, n =>
    if w.s.partHeld c t.id k then (w, n) else
    let w := match w.s.kidTile t c.batch k with
      | none => { w with f := w.f.and ⟨2 ^ 11, 1, 0⟩ }
      | some kid =>
        let w := w.deliver c.id t up k kid r
        { w with s := w.s.partLanded c.id t.id k kid r }
    Work.downParts c t up r ks w (n + 1)

/-- What a copy moves next, its flags, and how many of its parts are then done; a copy upward moves all at once. -/
def State.copyWork (s : State) (c : Cmd) (t : Tile) (up : Level) (r : CopyRec) (next : Nat) (f : Fold) : Work × Nat :=
  let absent : Fold := ⟨2 ^ 11, 1, 0⟩
  let ks := cdKids r.desc
  let w : Work := ⟨s, f, []⟩
  if r.bad then ({ w with f := Fold.bit 7 true }, ks.length) else
  if r.down then
    let (w, n) := Work.downParts c t up r (ks.drop next) w next
    (w.settle, n)
  else
    let et := (((r.dst.toList ++ r.src.toList).map Handle.layout).map Layout.et).headD 14
    let w := (ks.foldl (fun (a : Work × List (List Int)) k =>
      match a.1.s.kidTile t c.batch k with
      | none => ({ a.1 with f := a.1.f.and absent }, a.2)
      | some kid =>
        match a.1.s.copySide r.dst t true, a.1.s.copySide r.src kid false with
        | some p, some q => a.1.partUp c.id r p q et (tcoord up k) a.2
        | _, _ => ({ a.1 with f := a.1.f.and (Fold.bit 7 true) }, a.2)) (w, [])).1
    (w.settle, ks.length)

/-- A copy command that is its engine's oldest moves its data and arrives (R125, R134); parts held for children that have not
started wait for them (R129). One whose tile has gone ends. -/
def execCopyArrival (cmd : Nat) (s : State) : Outcome State Fault Refusal :=
  .next (match s.cmd? cmd with
    | none => s
    | some c =>
      match c.kind with
      | .copy r next f =>
        if !s.headOf c then s else
        match c.tile.bind s.tile? with
        | none => ((s.dropCmd cmd).letGo cmd).purgeHandles
        | some t =>
          match s.treeOf t with
          | none => ((s.dropCmd cmd).letGo cmd).purgeHandles
          | some tr =>
            if !r.down && (cdKids r.desc).any fun k => ((s.kidTile t c.batch k).map Tile.away).getD false then s else
            let (w, n) := s.copyWork c t (tr.level t.depth) r next f
            if n < (cdKids r.desc).length then w.s.modCmd cmd fun q => { q with kind := .copy r n w.f } else
            let f := w.s.metError cmd w.f
            let s := ((w.s.dropCmd cmd).letGo cmd).purgeHandles
            match c.bar with
            | some obj => s.arrive c.ctx obj f (.engine cmd)
            | none => s
      | _ => s)

end Sys2Proof.Machine
end

