-- ==== Sys2Proof/Machine/Matrix.lean ====
section
/-! DEFINITION. The matrix engine and the cellar (R158 to R176, R338 to R350): commands, their checks, their work and arrival, extents, directory, spill and refill. -/

namespace Sys2Proof.Machine

open Host (Outcome)

/-! ### Extents (R168, R169) -/

/-- Words per element of a layout: PAIR 4, PLAIN and DELTA 1. -/
def layWords (lay : Nat) : Nat := if lay = 1 then 4 else 1

/-- The dimensions form an extent of some regions (R168). -/
def extentOk (lay rows cols regions : Nat) : Bool :=
  decide (lay < 3) && [8, 16, 32, 64, 128].contains cols && decide (1 ≤ rows) && decide (rows ≤ 1024) &&
  (lay != 2 || [8, 16, 32, 64, 128].contains rows) && decide (rows * cols * layWords lay ≤ 1024 * regions)

/-- The extent of a process that a head region names, when no CELFREE of it is under way (R163, R347). -/
def State.extent? (s : State) (g : Group) (head : Nat) : Option Extent :=
  s.exts.find? fun e => e.pkg == g.pkg && e.core == g.core && e.head == head && e.ctx == g.ctx &&
    !s.celFreeing e.pkg e.core head

def State.modExtent (s : State) (pkg core head : Nat) (f : Extent → Extent) : State :=
  { s with exts := s.exts.map fun e => if e.pkg = pkg ∧ e.core = core ∧ e.head = head then f e else e }

/-- The key of word w of an extent (R162). -/
def Extent.word (e : Extent) (w : Nat) : Nat := keyCel e.pkg e.core ((e.head * 1024 + w) * 4)

/-- Words of a row. -/
def Extent.rowWords (e : Extent) : Nat := e.cols * layWords e.lay

/-- The regions in use on a core: head and count. -/
def State.regionsUsed (s : State) (pkg core : Nat) : List (Nat × Nat) :=
  (s.exts.filter fun e => e.pkg == pkg && e.core == core).map fun e => (e.head, e.n)

def State.regionFree (s : State) (pkg core r : Nat) : Bool :=
  !(s.regionsUsed pkg core).any fun u => decide (u.1 ≤ r) && decide (r < u.1 + u.2)

/-- The lowest run of n free regions (R171). -/
def State.freeRun (s : State) (pkg core n : Nat) : Option Nat :=
  (List.range 65).find? fun h => decide (h + n ≤ 64) && (List.range n).all fun j => s.regionFree pkg core (h + j)

/-! ### Structures in the CORE window (R339) -/

/-- Bytes of core memory as a command reads them at acceptance: what the group's store queue still holds may be seen or not
(R165). -/
def State.fencedBytes (s : State) (g : Group) (key n : Nat) : List Byte :=
  (List.range n).map fun j => match s.queued g (2 ^ 80 + key + j) with
    | some (some b) => if Config.freeAt g.id g.tick (key + j) 10 % 2 = 0 then b else s.byte (key + j)
    | _ => s.byte (key + j)

/-- A structure of n bytes at a CORE window offset: the window's tile and the bytes, or the refusal. A poisoned one counts as
malformed: it reads as zeros (R339, R411). -/
def State.coreStruct (s : State) (off align n : Nat) : (Nat ⊕ (Tile × List Byte)) × State :=
  let g := s.g
  if off % align ≠ 0 then (.inl 0x80000010, s)
  else match s.windowTile g 1 with
    | none => (.inl 0x8000001D, s)
    | some t =>
      if t.memb < off + n ∨ s.guardHit (t.home + off) off t.memb n then (.inl 0x8000001D, s)
      else if s.poisonedAt (t.home + off) n then
        (.inr (t, List.replicate n 0), s.eccCtl g.pkg g.ctx (some g) (15 * 2 ^ 60 + 2 ^ 57 + off))
      else (.inr (t, s.fencedBytes g (t.home + off) n), s)

/-- The same for a command that arrives on the barrier object whose window offset stands at `barAt` (R339). -/
def coreCommand (s : State) (y : BitVec 1) (d : BitVec 6) (off align n barAt : Nat)
    (body : State → Tile → List Byte → Nat → Res) : Res :=
  match s.coreStruct off align n with
  | (.inl c, s) => xreply s y d c
  | (.inr (t, b), s) =>
    match s.ownBarrier s.g.ctx t (leField b barAt 4) with
    | none => xreply s y d 0x8000001C
    | some obj => body s t b obj

/-- A range of the CORE window. -/
def Tile.inWindow (t : Tile) (off n : Nat) : Bool := decide (off + n ≤ t.memb)

/-- A command enters the core's matrix queue of 16, or its group is held (R164, R314, R338); it takes its index register `regs` in every
lane (R166). -/
def acceptMatrix (s : State) (y : BitVec 1) (d : BitVec 6) (obj : Nat) (kind : CmdKind) (src dst : List (Nat × Nat))
    (hnds : List Nat) (regs : Option Nat) : Res :=
  let g := s.g
  let e := engineId 5 g.pkg g.core
  if 16 ≤ (s.engineCmds e).length then .fence
  else
    let (id, s) := s.fresh
    let c : Cmd :=
      { id := id, engine := e, pkg := g.pkg, core := g.core, gid := g.id, num := g.num, pc := g.pc, crew := g.crew, tile := g.tile, ctx := g.ctx,
        bar := some obj, reply := (if y = 1 then some g.nextSb else none), time := s.time, sent := true, batch := 0,
        src := src, dst := dst, hnds := hnds, kind := kind }
    let g := match regs with
      | some r => ({ g with lanes := g.lanes.map fun (l : Lane) => l.hold id false g.nextSb [l.wb + r] } : Group)
      | none => g
    let g := if y = 1 then g.post [(.s d.toNat, none)] else g
    .done { s with g := { g with unretired := g.unretired ++ [⟨id, false, false, [], src, dst⟩] }, cmds := s.cmds ++ [c] }

/-- Every lane of the group is live and in the issuing split's mask (R44, R340). -/
def Group.convergent (g : Group) : Bool := g.mask == 2 ^ g.width - 1

/-! ### The format block (R159, R160) -/

structure MatBlock where
  afc : Nat
  bfc : Nat
  asd : Nat
  bsd : Nat
  cls : Nat
  acc : Nat
  n : Nat
  osat : Bool
  out : Nat
  ireg : Nat
  ah : Nat
  bh : Nat
  oh : Nat
  astr : Nat
  asb : Nat
  bsb : Nat
  perm : Nat
  ofc : Nat
  korg : Nat
  norg : Nat
  orow : Nat
  creg : Nat
  ccol : Nat
  crow : Nat
  bstr : Nat
  res0 : Bool
  deriving DecidableEq, Repr

def MatBlock.ofBytes (b : List Byte) : MatBlock where
  afc := leField b 0 4
  bfc := leField b 4 4
  asd := leField b 8 2
  bsd := leField b 0x0A 2
  cls := leField b 0x0C 1 % 8
  acc := leField b 0x0C 1 / 8 % 4
  n := 8 * 2 ^ (leField b 0x0D 1 % 4)
  osat := flag (leField b 0x0E 1) 3
  out := leField b 0x0E 1 % 8
  ireg := leField b 0x0F 1 % 64
  ah := leField b 0x10 2
  bh := leField b 0x12 2
  oh := leField b 0x14 2
  astr := leField b 0x16 2
  asb := leField b 0x18 4
  bsb := leField b 0x1C 4
  perm := leField b 0x20 4
  ofc := leField b 0x24 4
  korg := leField b 0x28 4
  norg := leField b 0x2C 4
  orow := leField b 0x30 4
  creg := leField b 0x34 1 % 64
  ccol := leField b 0x35 1
  crow := leField b 0x36 2
  bstr := leField b 0x3C 2
  res0 := leField b 0x0C 1 / 32 == 0 && leField b 0x0D 1 / 4 == 0 && leField b 0x0E 1 / 16 == 0 && leField b 0x0F 1 / 64 == 0 &&
    leField b 0x34 1 / 64 == 0 && leField b 0x3E 2 == 0

/-- An f-code of at most 4 bits. -/
def narrow4 (x : Nat) : Bool := ((FCode.parse false x).map fun f => decide (f.w ≤ 4)).getD false

/-- K of the class (R159). -/
def MatBlock.k (b : MatBlock) : Nat :=
  match b.cls with
  | 0 => if narrow4 b.afc && narrow4 b.bfc then 512 else 256
  | 3 => 16
  | 4 => 8
  | _ => 128

/-- The chunk length C (R103). -/
def MatBlock.chunk (b : MatBlock) : Nat := match b.cls with | 0 => 32 | 3 => 4 | _ => 16

/-- Multiply-accumulates per cycle (R159). -/
def MatBlock.rate (b : MatBlock) : Nat :=
  match b.cls with
  | 0 => if narrow4 b.afc && narrow4 b.bfc then 32768 else 16384
  | 3 => 1024
  | 4 => 128
  | _ => 8192

/-- Element type of A and B, and of the output (R159, R160, R162). -/
def MatBlock.et (b : MatBlock) : Nat := match b.cls with | 0 => 16 | 1 => 13 | 2 => 12 | 3 => 14 | _ => 17
def MatBlock.outEt (b : MatBlock) : Nat := match b.out with | 1 => if b.cls = 4 then 17 else 14 | 2 => 13 | 3 => 12 | _ => 16

/-- A handle's record has an element type, and for NF an f-code. -/
def Handle.typed (h : Handle) (et fc : Nat) : Bool := h.layout.et == et && (et != 16 || h.layout.fmt == fc)

/-- The checks of R163 and R340 in order, 0 when all hold. `k0` is the k origin. -/
def State.matCode (s : State) (g : Group) (t : Tile) (b : MatBlock) (complex : Bool) (k0 : Nat) : Nat :=
  let ah := s.handle? g.pkg g.ctx b.ah
  let bh := s.handle? g.pkg g.ctx b.bh
  let oh := if b.out = 0 then none else s.handle? g.pkg g.ctx b.oh
  let sa := Scale.parse b.asd b.k
  let sb := Scale.parse b.bsd b.k
  let red := s.reduced g.pkg
  let loc := fun (h : Option Handle) => (h.map fun h => h.layout.loc == 1).getD false
  let off := fun (sc : Option Scale) => (sc.map fun c => c.sf != 0 && k0 % c.len != 0).getD true
  let scaled := fun (sc : Option Scale) => (sc.map fun c => c.sf != 0).getD true
  if !b.res0 || decide (4 < b.cls) || decide (1 < b.acc) || decide (4 < b.out) || (b.cls == 4) != complex ||
      (complex && b.acc != 1) || (b.cls != 0 && (b.afc != 0 || b.bfc != 0)) || (b.out != 4 && b.ofc != 0) ||
      (b.out == 0 && b.oh != 0) then 0x0201
  else if (b.cls == 0 && ((FCode.parse red b.afc).isNone || (FCode.parse red b.bfc).isNone)) ||
      (b.out == 4 && (FCode.parse red b.ofc).isNone) || sa.isNone || sb.isNone || off sa || off sb ||
      (complex && (scaled sa || scaled sb || b.perm != 0 || decide (1 < b.out))) ||
      !((ah.map fun h => h.typed b.et b.afc).getD true) || !((bh.map fun h => h.typed b.et b.bfc).getD true) ||
      !((oh.map fun h => h.typed b.outEt b.ofc).getD true) then 0x0202
  else if !loc ah || !loc bh || (b.out != 0 && !loc oh) then 0x0203
  else match s.extent? g b.creg with
    | none => 0x0204
    | some e =>
      if e.lay ≠ b.acc ∨ b.acc ≠ (if b.cls = 4 then 1 else 0) then 0x0204
      else if e.rows < b.crow + g.width ∨ e.cols < b.ccol + b.n ∨ b.ccol % 8 ≠ 0 then 0x0205
      else if (b.perm ≠ 0 ∧ !t.inWindow b.perm (2 * b.k)) ∨ (scaled sa ∧ !t.inWindow b.asb 1) ∨ (scaled sb ∧ !t.inWindow b.bsb 1) then 0x0206
      else 0

/-! ### Acceptance of MMA and MMAC (R158, R341) -/

/-- The index register of each lane at acceptance: its stack position and word. -/
def Group.indices (g : Group) (r : Nat) : List (Nat × Word) :=
  (List.range g.width).map fun i => ((g.lane i).wb + r, (g.lane i).at ((g.lane i).wb + r))

/-- Byte spans of a layout's elements at points, for a tile. -/
def State.handleSpans (s : State) (h : Option Handle) (tile : Option Nat) (write : Bool) (pts : List (List Int)) : List (Nat × Nat) :=
  match h with
  | none => []
  | some h => s.sideSpans ((s.seat h tile).map fun seat => Side.mem seat h.layout (s.version tile h write)) pts

/-- Operand and output ranges of an MMA (R166): block, A, B, scales, permutation table; output. -/
def State.matSpans (s : State) (g : Group) (t : Tile) (va k0 : Nat) (b : MatBlock) (ah bh oh : Option Handle)
    (rows : List Nat) : List (Nat × Nat) × List (Nat × Nat) :=
  let cols := List.range b.n
  let ks := List.range b.k
  let a := s.handleSpans ah g.tile false (rows.flatMap fun (r : Nat) => ks.map fun (k : Nat) => [((k0 + k : Nat) : Int), ((r : Nat) : Int)])
  let bb := s.handleSpans bh g.tile false (cols.flatMap fun j => ks.map fun k => [((b.norg + j : Nat) : Int), ((k0 + k : Nat) : Int)])
  let sc := fun (d base stride : Nat) (xs : List Nat) => match Scale.parse d b.k with
    | some c => if c.sf = 0 then [] else xs.map fun x => (t.home + base + (x * stride + k0 / c.len) * c.bytes, b.k / c.len * c.bytes)
    | none => []
  let pm := if b.perm = 0 then [] else [(t.home + b.perm, 2 * b.k)]
  let o := s.handleSpans oh g.tile true ((List.range g.width).flatMap fun i => cols.map fun j =>
    [((b.norg + j : Nat) : Int), ((b.orow + i : Nat) : Int)])
  ((t.home + va, 64) :: a ++ bb ++ sc b.asd b.asb b.astr rows ++ sc b.bsd b.bsb b.bstr (cols.map fun j => b.norg + j) ++ pm, o)

/-- MMA and MMAC at issue and acceptance (R163, R339 to R341). -/
def matOp (s : State) (y : BitVec 1) (d a b : BitVec 6) (complex : Bool) : Res :=
  let g := s.g
  if !g.convergent then .trap 0x08 0 g.lowLane
  else
    let off := (g.sreg a.toNat).toNat
    let kb := (g.sreg b.toNat).toNat
    coreCommand s y d off 64 64 0x38 fun s t bs obj =>
      let m := MatBlock.ofBytes bs
      let k0 := (m.korg + kb) % 2 ^ 32
      match s.matCode g t m complex k0 with
      | 0 =>
        let ah := s.handle? g.pkg g.ctx m.ah
        let bh := s.handle? g.pkg g.ctx m.bh
        let oh := if m.out = 0 then none else s.handle? g.pkg g.ctx m.oh
        let idx := g.indices m.ireg
        let (src, dst) := s.matSpans g t off k0 m ah bh oh (idx.map fun i => i.2.toNat)
        acceptMatrix s y d obj (.mma complex bs kb (g.satM && !complex) 0 ah bh oh idx) src dst
          ((ah.toList ++ bh.toList ++ oh.toList).map Handle.h) (some m.ireg)
      | c => acceptMatrix s y d obj (.mma complex bs kb false c none none none []) [] [] [] none

def execMma (y : BitVec 1) (d a b : BitVec 6) (s : State) : Outcome State Fault Refusal :=
  issue (.mma y d a b) true s fun s => matOp s y d a b false

def execMmac (y : BitVec 1) (d a b : BitVec 6) (s : State) : Outcome State Fault Refusal :=
  issue (.mmac y d a b) true s fun s => matOp s y d a b true

/-! ### The work of MMA and MMAC (R103 to R106, R161, R162) -/

/-- A row or column of operands, element by element. -/
def State.matLine (s : State) (cmd : Nat) (seat : Seat) (l : Layout) (v : Nat) (pts : List (List Int)) : Gots :=
  pts.foldl (fun (a : Gots) cs => a.add (s.engineRead cmd seat l v cs)) {}

/-- The scales of one row or column, one per block (R100, R161); `x` is the row or column at a position. -/
def State.matScales (s : State) (c : Cmd) (t : Tile) (sc : Scale) (base stride : Nat) (x : Nat → Nat) (k0 k : Nat) : Gots :=
  if sc.sf = 0 then {} else
  (List.range (k / sc.len)).foldl (fun (a : Gots) j =>
    a.add (s.directRead c.id c.ctx t (base + (x (j * sc.len) * stride + k0 / sc.len + j) * sc.bytes) sc.bytes)) {}

/-- Operand values with their block scales applied (R101). -/
def scaleLine (xs : List XR) (sc : Scale) (ss : List XR) : List XR :=
  if sc.sf = 0 then xs else ((List.range xs.length).zip xs).map fun px => px.2.mul (ss.getD (px.1 / sc.len) (.fin false 1 0))

/-- A line of operands ready for the sum. -/
structure MatLine where
  codes : List Nat
  vals : List XR
  bad : Bool

/-- A word of the cellar written, with the poison it carries (R411). -/
def Work.word (w : Work) (key : Nat) (x : Word) (bad : Bool) : Work :=
  { w with s := w.s.setNum key 4 x.toNat
           wrote := if w.s.poison.isEmpty && !bad then w.wrote else (List.range 4).map (fun j => (key + j, bad)) ++ w.wrote }

def SumFlags.fold (f : SumFlags) : Fold := ⟨(if f.nan then 4 else 0) + (if f.inf then 8 else 0) + (if f.sat then 16 else 0), 0, 0⟩

/-- MMAC's sum over k of one element, with its flags (R105, R106). -/
def complexSum (acc : Word × Word × Word × Word) (as bs : List Nat) : (Word × Word × Word × Word) × SumFlags :=
  (as.zip bs).foldl (fun (a : (Word × Word × Word × Word) × SumFlags) ab =>
    let x := fun (c : Nat) => f32.decode (c % 2 ^ 32)
    let (ar, ai, br, bi) := (x ab.1, x (ab.1 / 2 ^ 32), x ab.2, x (ab.2 / 2 ^ 32))
    let (hr, lr, hi, li) := a.1
    let r := compAdd hr lr (ar.mul br)
    let i := compAdd hi li (ar.mul bi)
    let f := (compFlags hr lr (ar.mul br)).or (compFlags r.1 r.2 (ai.mul bi).neg)
    let f' := (compFlags hi li (ar.mul bi)).or (compFlags i.1 i.2 (ai.mul br))
    (compMac a.1 ar ai br bi, a.2.or (f.or f'))) (acc, {})

/-- The output code of an element and its flags (R162). -/
def MatBlock.output (b : MatBlock) (ws : List Word) : Nat × Fold :=
  let x := x32 (ws.getD 0 0)
  let flags := fun (r : Rounded) (nan : Bool) => (⟨(if nan then 4 else 0) + (if r.ovf then 8 else 0) + (if r.sat then 16 else 0), 0, 0⟩ : Fold)
  if b.cls = 4 then
    let part := fun (hi lo : Word) =>
      let v := (x32 hi).add (x32 lo)
      let r := f32.round .rne false 0 v
      (r.code, flags r v.isNan)
    let (r, f) := part (ws.getD 0 0) (ws.getD 1 0)
    let (i, f') := part (ws.getD 2 0) (ws.getD 3 0)
    (r + i * 2 ^ 32, f.and f')
  else match b.out with
    | 1 => ((ws.getD 0 0).toNat, Fold.bit 2 x.isNan)
    | 2 => let r := bf16.round .rne b.osat 0 x; (r.code, flags r (bf16.decode r.code).isNan)
    | 3 => let r := f16.round .rne b.osat 0 x; (r.code, flags r (f16.decode r.code).isNan)
    | _ =>
      let fc := (FCode.parse false b.ofc).getD ⟨8, 0, false, 0, false, 0, 8⟩
      let r := fc.round .rne b.osat 0 x
      (r.code, flags r (fc.decode r.code).isNan)

/-- The operand decoder of a class, for an f-code (R159). -/
def MatBlock.dec (b : MatBlock) (fc : Nat) : Nat → XR :=
  match b.cls with
  | 0 => ((FCode.parse false fc).getD ⟨8, 0, false, 0, false, 0, 8⟩).decode
  | 1 => bf16.decode
  | 2 => f16.decode
  | _ => f32.decode

/-- One accumulator element updated and, with an output type, written out (R103, R105, R162). `wild` marks a row that the
group's own writes leave undefined (R166). -/
def Work.element (w : Work) (cmd : Nat) (e : Extent) (b : MatBlock) (sat wild : Bool) (i j : Nat) (a bb : MatLine)
    (out : Option (Seat × Layout × Nat)) : Work :=
  let ew := layWords e.lay
  let key := e.word (((b.crow + i) * e.cols + b.ccol + j) * ew)
  let old := (List.range ew).map fun n => BitVec.ofNat 32 (w.s.num (key + 4 * n) 4)
  let bad := a.bad || bb.bad || w.s.poisonedAt key (4 * ew)
  let (ws, f) :=
    if b.cls = 4 then
      let r := complexSum (old.getD 0 0, old.getD 1 0, old.getD 2 0, old.getD 3 0) a.codes bb.codes
      ([r.1.1, r.1.2.1, r.1.2.2.1, r.1.2.2.2], r.2)
    else
      let r := chunkSum sat b.chunk (old.getD 0 0) ((a.vals.zip bb.vals).map fun xy => xy.1.mul xy.2)
      ([r.1], r.2)
  let (ws, w) := if !wild then (ws, w) else
    ws.foldl (fun (p : List Word × Work) _ =>
      let (x, s) := p.2.s.draw
      (p.1 ++ [BitVec.ofNat 32 x], { p.2 with s := s })) ([], w)
  let f := f.or { nan := ws.any fun x => (x32 x).isNan, inf := ws.any fun x => (x32 x).isInf }
  let w := ((List.range ew).zip ws).foldl (fun (w : Work) nx => w.word (key + 4 * nx.1) nx.2 bad) w
  let w := { w with f := (w.f.and f.fold).and (Fold.bit 6 bad) }
  match out with
  | none => w
  | some (seat, l, v) =>
    let (code, f) := b.output ws
    { w with f := w.f.and f }.write cmd seat l v [((b.norg + j : Nat) : Int), ((b.orow + i : Nat) : Int)] code bad

/-- A row that a command reads: its index at each position, and whether the group has written the register since (R166). -/
structure MatRow where
  at_ : Nat → Nat
  wild : Bool

/-- The row of lane i as the index register gives it: one word, or, where the register held another while results older than the
command were under way, either at each position (R165). A group that has gone leaves the word of the acceptance. -/
def State.matRow (s : State) (c : Cmd) (i : Nat) (iw : Nat × Word) : MatRow :=
  match s.group? c.gid with
  | none => ⟨fun _ => iw.2.toNat, false⟩
  | some g =>
    let see := fun (p : Nat) => (g.lane i).seenBy c.id iw.1 (Config.freeAt c.id s.free (1024 * i + p) 14) (s.stackWord g i iw.1)
    ⟨fun p => ((see p).map BitVec.toNat).getD (Config.freeAt c.id s.free (1024 * i + p) 15 % 2 ^ 32), (see 0).isNone⟩

/-- All of an MMA or MMAC (R341). -/
def State.matWork (s : State) (c : Cmd) (t : Tile) (b : MatBlock) (kb : Nat) (sat : Bool) (ah bh : Handle) (oh : Option Handle)
    (idx : List (Nat × Word)) (e : Extent) : Work :=
  let k0 := (b.korg + kb) % 2 ^ 32
  match s.seat ah c.tile, s.seat bh c.tile with
  | some sa, some sb =>
    let va := s.version c.tile ah false
    let vb := s.version c.tile bh false
    -- the permutation (R102)
    let pm : Gots := if b.perm = 0 then { codes := List.range b.k } else
      (List.range b.k).foldl (fun (a : Gots) p => a.add (s.directRead c.id c.ctx t (b.perm + 2 * p) 2)) {}
    let ks := (List.range b.k).zip (pm.codes.map fun p => p % b.k)
    let da := (Scale.parse b.asd b.k).getD ⟨0, 1⟩
    let db := (Scale.parse b.bsd b.k).getD ⟨0, 1⟩
    let line := fun (seat : Seat) (h : Handle) (v fc : Nat) (pts : List (List Int)) (d : Scale) (base stride : Nat) (x : Nat → Nat) =>
      let es := s.matLine c.id seat h.layout v pts
      let ss := s.matScales c t d base stride x k0 b.k
      ((⟨es.codes, scaleLine (es.codes.map (b.dec fc)) d (ss.codes.map (Scale.value d.sf)), es.bad || ss.bad || pm.bad⟩ : MatLine), es, ss)
    let rows := ((List.range idx.length).zip idx).map fun iw => s.matRow c iw.1 iw.2
    let as := rows.map fun r => line sa ah va b.afc (ks.map fun pk => [((k0 + pk.2 : Nat) : Int), (r.at_ pk.1 : Int)]) da b.asb b.astr r.at_
    let bs := (List.range b.n).map fun j =>
      line sb bh vb b.bfc (ks.map fun pk => [((b.norg + j : Nat) : Int), ((k0 + pk.2 : Nat) : Int)]) db b.bsb b.bstr fun _ => b.norg + j
    let out := oh.bind fun h => (s.seat h c.tile).map fun seat => (seat, h.layout, s.version c.tile h true)
    let w := (as ++ bs).foldl (fun (w : Work) l => (w.tookAll c.id l.2.1).tookAll c.id l.2.2) ((⟨s, Fold.none, []⟩ : Work).tookAll c.id pm)
    let w := ((List.range rows.length).zip (rows.zip as)).foldl (fun (w : Work) ir =>
      ((List.range b.n).zip bs).foldl (fun (w : Work) jb =>
        w.element c.id e b sat ir.2.1.wild ir.1 jb.1 ir.2.2.1 jb.2.1 out) w) w
    { w with s := w.s.modExtent e.pkg e.core e.head fun e => { e with valid := max e.valid (b.crow + rows.length) } }.settle
  | _, _ => ⟨s, Fold.bit 7 true, []⟩

/-! ### DELTA and DQRY (R174 to R176, R350) -/

structure DeltaBlock where
  koff : Nat
  voff : Nat
  qoff : Nat
  aoff : Nat
  boff : Nat
  ooff : Nat
  ckh : Nat
  cko : Nat
  reg : Nat
  t : Nat
  ckpt : Bool
  wide : Bool
  res0 : Bool
  deriving DecidableEq, Repr

def DeltaBlock.ofBytes (b : List Byte) : DeltaBlock where
  koff := leField b 0 4
  voff := leField b 4 4
  qoff := leField b 8 4
  aoff := leField b 0x0C 4
  boff := leField b 0x10 4
  ooff := leField b 0x14 4
  ckh := leField b 0x18 2
  cko := leField b 0x1C 4
  reg := leField b 0x20 1 % 64
  t := leField b 0x21 1 % 32
  ckpt := flag (leField b 0x22 1) 1
  wide := flag (leField b 0x22 1) 0
  res0 := leField b 0x1A 2 == 0 && leField b 0x20 1 / 64 == 0 && leField b 0x21 1 / 32 == 0 && leField b 0x22 1 / 4 == 0 &&
    leField b 0x23 1 == 0 && zeroAt b 0x28 24

/-- Bytes of a k, v or q value. -/
def DeltaBlock.z (b : DeltaBlock) : Nat := if b.wide then 4 else 2

/-- The ranges a delta block names that are read, for d_v and d_k; and the output range (R174, R176). -/
def DeltaBlock.reads (b : DeltaBlock) (query : Bool) (dv dk : Nat) : List (Nat × Nat) :=
  [(b.koff, b.t * dk * b.z), (b.qoff, b.t * dk * b.z)] ++
  if query then [] else [(b.voff, b.t * dv * b.z), (b.aoff, b.t * 4), (b.boff, b.t * 4)]

/-- The checks of R174 in order. -/
def State.deltaCode (s : State) (g : Group) (t : Tile) (b : DeltaBlock) (query : Bool) : Nat :=
  if !b.res0 || b.t == 0 || decide (16 < b.t) then 0x0201
  else match (s.extent? g b.reg).filter fun e => e.lay == 2 with
    | none => 0x0204
    | some e =>
      if !query && b.ckpt && (s.regionSpan g.pkg g.ctx b.ckh 2 (256 * b.cko) (e.rows * e.cols * 4)).isNone then 0x0203
      else if !((b.ooff, b.t * e.rows * 4) :: b.reads query e.rows e.cols).all fun r => t.inWindow r.1 r.2 then 0x0206
      else 0

def deltaOp (s : State) (y : BitVec 1) (d a : BitVec 6) (query : Bool) : Res :=
  let g := s.g
  if !g.convergent then .trap 0x08 0 g.lowLane
  else
    let off := (g.sreg a.toNat).toNat
    coreCommand s y d off 64 64 0x24 fun s t bs obj =>
      let b := DeltaBlock.ofBytes bs
      match s.deltaCode g t b query, s.extent? g b.reg with
      | 0, some e =>
        let ck := if !query && b.ckpt then s.regionSpan g.pkg g.ctx b.ckh 2 (256 * b.cko) (e.rows * e.cols * 4) else none
        let src := (t.home + off, 64) :: (b.reads query e.rows e.cols).map fun r => (t.home + r.1, r.2)
        acceptMatrix s y d obj (.delta query bs 0 ck) src [(t.home + b.ooff, b.t * e.rows * 4)] [] none
      | c, _ => acceptMatrix s y d obj (.delta query bs c none) [] [] [] none

def execDelta (y : BitVec 1) (d a : BitVec 6) (s : State) : Outcome State Fault Refusal :=
  issue (.delta y d a) true s fun s => deltaOp s y d a false

def execDqry (y : BitVec 1) (d a : BitVec 6) (s : State) : Outcome State Fault Refusal :=
  issue (.dqry y d a) true s fun s => deltaOp s y d a true

/-- A vector of n values read directly. -/
def State.vecRead (s : State) (c : Cmd) (t : Tile) (off n : Nat) (wide : Bool) : Gots :=
  let z := if wide then 4 else 2
  (List.range n).foldl (fun (a : Gots) j => a.add (s.directRead c.id c.ctx t (off + z * j) z)) {}

/-- Its values, FP32 or BF16. -/
def Gots.vals (g : Gots) (wide : Bool) : List XR := g.codes.map fun c => if wide then f32.decode c else bf16.decode c

/-- The dot product of a row of S with a vector (R175). -/
def rowSum (row : List Word) (x : List XR) : Word × SumFlags := chunkSum false 4 0 ((row.zip x).map fun ab => (x32 ab.1).mul ab.2)

/-- RoundNE32 with its overflow. -/
def round32 (x : XR) : Word × Bool := let r := f32.round .rne false 0 x; (BitVec.ofNat 32 r.code, r.ovf)

/-- NaN and infinity of a word as flags. -/
def wordFlags (w : Word) : Fold := (Fold.bit 2 (x32 w).isNan).and (Fold.bit 3 (x32 w).isInf)

/-- One row of the update for a token (R175): u, w, and the new row; bit [3] where a finite rounding overflows, or u's sum is infinite
(R104, R167). -/
def deltaRow (row : List Word) (k : List XR) (v al be : XR) : List Word × Fold :=
  let (u, fu) := rowSum row k
  let (au, o1) := round32 (al.mul (x32 u))
  let (df, o2) := round32 (v.sub (x32 au))
  let (w, o3) := round32 (be.mul (x32 df))
  let new := (row.zip k).map fun sk => round32 ((al.mul (x32 sk.1)).add ((x32 w).mul sk.2))
  let ovf := o1 || o2 || o3 || fu.inf || new.any Prod.snd
  (new.map Prod.fst, Fold.bit 3 ovf)

/-- The tokens of a DELTA or DQRY in order; rows carry whether they hold poisoned data. -/
def Work.tokens (w : Work) (c : Cmd) (t : Tile) (b : DeltaBlock) (query : Bool) (dv dk : Nat) :
    List Nat → List (List Word × Bool) → Work × List (List Word × Bool)
  | [], rows => (w, rows)
  | tok :: rest, rows =>
    let k := w.s.vecRead c t (b.koff + tok * dk * b.z) dk b.wide
    let q := w.s.vecRead c t (b.qoff + tok * dk * b.z) dk b.wide
    let w := (w.tookAll c.id k).tookAll c.id q
    let (rows, w) :=
      if query then (rows, w)
      else
        let v := w.s.vecRead c t (b.voff + tok * dv * b.z) dv b.wide
        let al := w.s.vecRead c t (b.aoff + 4 * tok) 1 true
        let be := w.s.vecRead c t (b.boff + 4 * tok) 1 true
        let w := ((w.tookAll c.id v).tookAll c.id al).tookAll c.id be
        let pv := fun i => w.s.poisonedAt (t.home + b.voff + (tok * dv + i) * b.z) b.z
        let new := ((List.range rows.length).zip rows).map fun ir =>
          let (r, f) := deltaRow ir.2.1 (k.vals b.wide) ((v.vals b.wide).getD ir.1 .nan) ((al.vals true).getD 0 .nan) ((be.vals true).getD 0 .nan)
          ((r, ir.2.2 || k.bad || al.bad || be.bad || pv ir.1), f)
        (new.map Prod.fst, { w with f := new.foldl (fun (f : Fold) x => f.and x.2) w.f })
    let w := ((List.range rows.length).zip rows).foldl (fun (w : Work) ir =>
      let (o, f) := rowSum ir.2.1 (q.vals b.wide)
      { w with f := (w.f.and f.fold).and (Fold.bit 6 (ir.2.2 || q.bad)) }.direct c.id c.ctx t (b.ooff + 4 * (tok * dv + ir.1))
        (bytesOf 4 o.toNat) (ir.2.2 || q.bad)) w
    w.tokens c t b query dv dk rest rows

/-- All of a DELTA or DQRY. -/
def State.deltaWork (s : State) (c : Cmd) (t : Tile) (b : DeltaBlock) (query : Bool) (ck : Option Region) (e : Extent) : Work :=
  let rows := (List.range e.rows).map fun i =>
    ((List.range e.cols).map fun j => BitVec.ofNat 32 (s.num (e.word (i * e.cols + j)) 4), s.poisonedAt (e.word (i * e.cols)) (4 * e.cols))
  let w : Work := ⟨s, Fold.none, []⟩
  let (w, rows) := w.tokens c t b query e.rows e.cols (List.range b.t) rows
  if query then w.settle else
  let words := rows.flatMap fun r => r.1.map fun x => (x, r.2)
  let w := ((List.range words.length).zip words).foldl (fun (w : Work) nx =>
    let w := { w with f := w.f.and (wordFlags nx.2.1) }.word (e.word nx.1) nx.2.1 nx.2.2
    match ck with
    | none => w
    | some r => ((List.range 4).zip (bytesOf 4 nx.2.1.toNat)).foldl (fun (w : Work) jb =>
        w.byte c.id (w.s.regionKey c.pkg r (256 * b.cko + 4 * nx.1 + jb.1)) jb.2 nx.2.2) w) w
  { w with s := w.s.modExtent e.pkg e.core e.head fun e => { e with valid := e.rows } }.settle

/-! ### CELLD, CELST, CELZ (R348, R349) -/

/-- The checks of R348 in order; `z` is CELZ. -/
def State.moveCode (s : State) (g : Group) (t : Tile) (b : List Byte) (z : Bool) : Nat :=
  let row := leField b 2 2
  let n := leField b 4 2
  if leField b 0 1 / 64 ≠ 0 ∨ leField b 1 1 ≠ 0 ∨ leField b 6 2 ≠ 0 ∨ (!z ∧ leField b 8 4 % 4 ≠ 0) then 0x0201
  else match s.extent? g (leField b 0 1) with
    | none => 0x0204
    | some e =>
      if n = 0 ∨ e.rows < row + n then 0x0205
      else if !z ∧ !t.inWindow (leField b 8 4) (n * e.rowWords * 4) then 0x0206
      else 0

def moveOp (s : State) (y : BitVec 1) (d a : BitVec 6) (fn : Nat) : Res :=
  let g := s.g
  let off := (g.sreg a.toNat).toNat
  coreCommand s y d off 16 16 0x0C fun s t bs obj =>
    match s.moveCode g t bs (fn == 5), s.extent? g (leField bs 0 1) with
    | 0, some e =>
      let data := (t.home + leField bs 8 4, leField bs 4 2 * e.rowWords * 4)
      acceptMatrix s y d obj (.celmove fn bs 0) (if fn = 3 then [data] else []) (if fn = 4 then [data] else []) [] none
    | c, _ => acceptMatrix s y d obj (.celmove fn bs c) [] [] [] none

def execCelld (y : BitVec 1) (d a : BitVec 6) (s : State) : Outcome State Fault Refusal :=
  issue (.celld y d a) true s fun s => moveOp s y d a 3

def execCelst (y : BitVec 1) (d a : BitVec 6) (s : State) : Outcome State Fault Refusal :=
  issue (.celst y d a) true s fun s => moveOp s y d a 4

def execCelz (y : BitVec 1) (d a : BitVec 6) (s : State) : Outcome State Fault Refusal :=
  issue (.celz y d a) true s fun s => moveOp s y d a 5

/-- All of a transfer: words move as bits; bit [3] for an infinity that CELLD leaves in a word (R167). -/
def State.moveWork (s : State) (c : Cmd) (t : Tile) (b : List Byte) (fn : Nat) (e : Extent) : Work :=
  let row := leField b 2 2
  let n := leField b 4 2
  let w := (List.range (n * e.rowWords)).foldl (fun (w : Work) j =>
    let key := e.word (row * e.rowWords + j)
    let off := leField b 8 4 + 4 * j
    match fn with
    | 3 =>
      let x := w.s.directRead c.id c.ctx t off 4
      let word := BitVec.ofNat 32 x.code
      ((w.took c.id x).meet c.id (Fold.bit 3 (x32 word).isInf) none).word key word x.bad
    | 4 =>
      let bad := w.s.poisonedAt key 4
      { w with f := w.f.and (Fold.bit 6 bad) }.direct c.id c.ctx t off (w.s.bytes key 4) bad
    | _ => w.word key 0 false) (⟨s, Fold.none, []⟩ : Work)
  let w := if fn = 4 then w else { w with s := w.s.modExtent e.pkg e.core e.head fun e => { e with valid := max e.valid (row + n) } }
  w.settle

/-! ### Arrival (R164, R167) -/

/-- The cellar rectangle that a command names: head, rows and columns from and to; none when it failed its checks. -/
def Cmd.celRect (c : Cmd) : Option (Nat × Nat × Nat × Nat × Nat) :=
  match c.kind with
  | .mma _ bs _ _ 0 _ _ _ idx => let b := MatBlock.ofBytes bs; some (b.creg, b.crow, b.crow + idx.length, b.ccol, b.ccol + b.n)
  | .delta _ bs 0 _ => some ((DeltaBlock.ofBytes bs).reg, 0, 1024, 0, 128)
  | .celmove _ bs 0 => some (leField bs 0 1, leField bs 2 2, leField bs 2 2 + leField bs 4 2, 0, 128)
  | _ => none

/-- The head region that a command names, whatever its checks say (R172). -/
def Cmd.celHead (c : Cmd) : Option Nat :=
  match c.kind with
  | .mma _ bs _ _ _ _ _ _ _ => some (MatBlock.ofBytes bs).creg
  | .delta _ bs _ _ => some (DeltaBlock.ofBytes bs).reg
  | .celmove _ bs _ => some (leField bs 0 1)
  | _ => none

/-- What an abandoned command of R164 would have written is undefined: words of its extent, and its output (R172). -/
def State.celSpoil (s : State) (c : Cmd) : State :=
  let s := c.dst.foldl (fun (s : State) sp => s.spoil sp.1 sp.2) s
  let writes := match c.kind with
    | .delta query _ _ _ => !query
    | .celmove fn _ _ => fn != 4
    | _ => true
  match c.celRect.filter fun _ => writes with
  | none => s
  | some (h, r0, r1, c0, c1) =>
    match s.exts.find? fun e => e.pkg == c.pkg && e.core == c.core && e.head == h with
    | none => s
    | some e =>
      let w := layWords e.lay
      (List.range (min r1 e.rows - r0)).foldl (fun (s : State) r =>
        s.spoil (e.word ((r0 + r) * e.rowWords + c0 * w)) ((min c1 e.cols - c0) * w * 4)) s

/-- A command's place in the order of R164: an earlier one of its core names a word of its rectangle, or, for a CELFREE, any
word of the extent. -/
def State.celWaits (s : State) (c : Cmd) : Bool :=
  let before := (s.cmds.takeWhile fun q => q.id != c.id).filter fun q => q.pkg == c.pkg && q.core == c.core
  match c.kind with
  | .celfree head _ => before.any fun q => q.celHead == some head
  | _ => match c.celRect with
    | none => false
    | some (h, r0, r1, c0, c1) => before.any fun q => match q.celRect with
      | some (h', r0', r1', c0', c1') => h' == h && decide (r0 < r1') && decide (r0' < r1) && decide (c0 < c1') && decide (c0' < c1)
      | none => false

/-- The failure that an arrival reports (R163). -/
def Fold.failure (code : Nat) : Fold := ⟨2 ^ 7, 1, code⟩

/-- The work of a command of R164. -/
def State.engineWork (s : State) (c : Cmd) : Work :=
  let ext := (c.celRect).bind fun r => s.exts.find? fun e => e.pkg == c.pkg && e.core == c.core && e.head == r.1
  let fail := fun (x : Nat) => (⟨s, Fold.failure x, []⟩ : Work)
  match c.kind, s.ancestor 1 9 c.tile, ext with
  | .mma _ bs kb sat 0 (some ah) (some bh) oh idx, some t, some e => s.matWork c t (MatBlock.ofBytes bs) kb sat ah bh oh idx e
  | .delta query bs 0 ck, some t, some e => s.deltaWork c t (DeltaBlock.ofBytes bs) query ck e
  | .celmove fn bs 0, some t, some e => s.moveWork c t bs fn e
  | .mma _ _ _ _ x _ _ _ _, _, _ => fail x
  | .delta _ _ x _, _, _ => fail x
  | .celmove _ _ x, _, _ => fail x
  | _, _, _ => ⟨s, Fold.none, []⟩

/-- A command's reply lands (R338). -/
def State.cmdReply (s : State) (c : Cmd) (w : Nat) : State :=
  match c.reply with
  | some sb => s.modGroup c.gid fun g => g.answerSb sb [BitVec.ofNat 32 w]
  | none => s

/-- An arrived command stands as unretired for its own group, and as not acquired for the other groups of the core (R166). -/
def State.arrivedFor (s : State) (c : Cmd) : State :=
  s.mapGroups fun g =>
    if g.id = c.gid then { g with unretired := g.unretired.map fun u => if u.id = c.id then { u with arrived := true } else u }
    else if g.id ≠ 0 ∧ g.pkg = c.pkg ∧ g.core = c.core ∧ !(c.src.isEmpty && c.dst.isEmpty) then
      { g with unretired := g.unretired ++ [⟨c.id, true, true, [], c.src, c.dst⟩] }
    else g

/-- The spill header of an extent (R173). -/
def Extent.header (e : Extent) (gen time : Nat) : List Byte :=
  bytesOf 2 1 ++ bytesOf 2 e.key ++ bytesOf 2 gen ++ bytesOf 1 e.lay ++ bytesOf 1 (e.n - 1) ++ bytesOf 2 e.rows ++ bytesOf 2 e.cols ++
  bytesOf 4 e.valid ++ bytesOf 8 time ++ bytesOf 2 (e.ctx % 2 ^ 12) ++ List.replicate 38 0

/-- Bytes with whether their word is poisoned. -/
abbrev Marked := List (Byte × Bool)

def State.marked (s : State) (ks : List Nat) : Marked := ks.map fun k => (s.byte k, s.poisonedAt k 1)
def cleanBytes (bs : List Byte) : Marked := bs.map fun b => (b, false)

/-- Bytes written at keys; their poison goes with them (R411). -/
def State.setMarked (s : State) (ks : List Nat) (bs : Marked) : State :=
  ((ks.zip bs).foldl (fun (w : Work) kb =>
    { w with s := w.s.setByte kb.1 kb.2.1
             wrote := if w.s.poison.isEmpty && !kb.2.2 then w.wrote else (kb.1, kb.2.2) :: w.wrote }) (⟨s, Fold.none, []⟩ : Work)).settle.s

/-- The keys of n bytes of a region. -/
def State.regionKeys (s : State) (pkg : Nat) (r : Region) (off n : Nat) : List Nat :=
  (List.range n).map fun j => s.regionKey pkg r (off + j)

def State.regionBytes (s : State) (pkg : Nat) (r : Region) (off n : Nat) : List Byte := (s.regionKeys pkg r off n).map s.byte

/-- The keys of the first n words of an extent. -/
def Extent.keys (e : Extent) (n : Nat) : List Nat := (List.range (4 * n)).map fun j => e.word 0 + j

/-- The spill slot of an extent, when it lies in a region with write rights (R173). -/
def State.spillSlot (s : State) (e : Extent) : Option Region :=
  if e.shnd = 0 then none else s.regionSpan e.pkg e.ctx e.shnd 2 (4096 * e.soff) (64 + e.valid * e.rowWords * 4)

/-- The extent's regions become free. -/
def State.dropExtent (s : State) (e : Extent) : State :=
  { s with exts := s.exts.filter fun x => !(x.pkg == e.pkg && x.core == e.core && x.head == e.head) }

/-- A CELFREE or eviction takes effect (R172, R173): the reply is 0, or NOREGION for a refused eviction. -/
def State.celEnd (s : State) (c : Cmd) (e : Extent) (evict : Bool) : Nat × State :=
  let k := s.celDir e.pkg e.ctx e.key
  let busy := s.num k 1 = 3 ∧ s.num (k + 2) 2 = e.core
  if !evict then (0, (if busy then s.setNum k 1 0 else s).dropExtent e)
  else match s.spillSlot e with
    | none => (0x80000024, if busy then s.setNum k 1 1 else s)
    | some r =>
      let gen := (e.gen + 1) % 2 ^ 16
      let body := cleanBytes (e.header gen c.time) ++ s.marked (e.keys (e.valid * e.rowWords))
      let s := s.setMarked (s.regionKeys e.pkg r (4096 * e.soff) body.length) body
      let s := ((((s.setNum k 1 2).setNum (k + 4) 2 e.shnd).setNum (k + 6) 2 gen).setNum (k + 8) 4 e.soff)
      (0, s.dropExtent e)

/-- A matrix or cellar command does its work and arrives, after every earlier one on the same words (R164, R167, R172). -/
def execMatrixArrival (cmd : Nat) (s : State) : Outcome State Fault Refusal :=
  .next (match s.cmd? cmd with
    | none => s
    | some c =>
      if s.celWaits c then s else
      match c.kind with
      | .celfree head evict =>
        match s.exts.find? fun e => e.pkg == c.pkg && e.core == c.core && e.head == head with
        | none => (s.dropCmd cmd).cmdReply c 0
        | some e => let (w, s) := s.celEnd { c with time := s.time } e evict; (s.dropCmd cmd).cmdReply c w
      | .mma _ _ _ _ _ _ _ _ _ | .delta _ _ _ _ | .celmove _ _ _ =>
        let w := s.engineWork c
        let f := s.metError cmd w.f
        let s := ((w.s.dropCmd cmd).purgeHandles).arrivedFor c
        let s := if (s.group? c.gid).any fun g => g.unretired.any fun u => u.id == cmd && !u.other then s else s.letGo cmd
        let s := match c.bar with
          | some obj => s.arrive c.ctx obj f (.engine cmd)
          | none => s
        s.cmdReply c (f.f % 2 ^ 32)
      | _ => s)

/-! ### MFENCE, MWAIT, MQRY (R342 to R344) -/

/-- Every fixed-latency result has landed. -/
def Group.settled (g : Group) : Group :=
  { g with earlyS := [], earlyF := [], lanes := g.lanes.map fun l => { l with earlyV := [], earlyP := [] } }

def execMfence (s : State) : Outcome State Fault Refusal :=
  issue .mfence true s fun s =>
    if s.g.sq.isEmpty && s.g.sb.isEmpty then .done { s with g := s.g.settled } else .fence

/-- The group's own commands not yet retired, oldest first. -/
def Group.own (g : Group) : List Unretired := g.unretired.filter fun u => !u.other

/-- MWAIT: the oldest commands retire once each has arrived, until at most n remain (R343). -/
def execMwait (a : BitVec 6) (s : State) : Outcome State Fault Refusal :=
  issue (.mwait a) true s fun s =>
    let g := s.g
    let n := (g.sreg a.toNat).toNat
    let old := g.own.take (g.own.length - n)
    if 16 ≤ n ∨ old.isEmpty then .done (s.refresh g 1)
    else if old.all Unretired.arrived then
      .done ({ s with g := g.retire fun u => old.any fun o => o.id == u.id }.refresh g 1)
    else .fence

/-- The cycles of an MMA at the rates of R159; none for a command whose rate the spec does not state. -/
def Cmd.cycles (c : Cmd) : Option Nat :=
  match c.kind with
  | .mma _ bs _ _ 0 _ _ _ idx => let b := MatBlock.ofBytes bs; some (max 1 (idx.length * b.n * b.k / b.rate))
  | _ => none

def execMqry (d a : BitVec 6) (s : State) : Outcome State Fault Refusal :=
  issue (.mqry d a) true s fun s =>
    let g := s.g
    let q := s.engineCmds (engineId 5 g.pkg g.core)
    let free := (List.range 64).map (s.regionFree g.pkg g.core)
    match (g.sreg a.toNat).toNat with
    | 0 => xreply s 1 d (min 16 g.own.length)
    | 1 => xreply s 1 d q.length
    | 2 => xreply s 1 d (free.filter id).length
    | 3 => xreply s 1 d (free.foldl (fun (a : Nat × Nat) b => if b then (max a.1 (a.2 + 1), a.2 + 1) else (a.1, 0)) (0, 0)).1
    | 4 =>
      let known := (q.drop 1).map fun c => c.cycles.getD 0
      let (x, s) := s.draw
      let (z, s) := s.draw
      let head := ((q.head?.map Cmd.cycles).getD (some 0)).getD 0
      xreply s 1 d (min (2 ^ 32 - 1) (known.sum + x % (head + 1) + if q.all fun c => c.cycles.isSome then 0 else z))
    | _ => xreply s 1 d 0x80000010

/-! ### CELGET, CELPIN, CELFREE (R171 to R173, R345 to R347, R420) -/

/-- A request of R171. -/
structure CelReq where
  key : Nat
  lay : Nat
  pin : Bool
  rows : Nat
  cols : Nat
  shnd : Nat
  soff : Nat
  deriving DecidableEq, Repr

def CelReq.ofBytes (b : List Byte) : CelReq where
  key := leField b 0 2
  lay := leField b 2 1 % 4
  pin := flag (leField b 2 1) 2
  rows := leField b 4 2
  cols := leField b 6 2
  shnd := leField b 8 2
  soff := leField b 0x0C 4

/-- The request is refused with FIELD (R171). -/
def State.celReqBad (s : State) (g : Group) (b : List Byte) : Bool :=
  let q := CelReq.ofBytes b
  leField b 2 1 / 8 != 0 || leField b 3 1 != 0 || leField b 0x0A 2 != 0 || q.key == 0 || !extentOk q.lay q.rows q.cols 64 ||
  (q.shnd != 0 && (s.regionSpan g.pkg g.ctx q.shnd 2 (4096 * q.soff) (64 + q.rows * q.cols * layWords q.lay * 4)).isNone)

/-- The CELPRESS condition enters the core's event queue, unless it is there already (R363); the fields that name a group
are open. -/
def State.celPress (s : State) (pkg core key : Nat) : State :=
  let c := s.core pkg core
  if (c.evq ++ c.cur.toList).any fun e => e.code == 0x30 then s
  else
    let (a, s) := s.pick 64
    let (b, s) := s.pick 16
    let (pc, s) := s.pick (2 ^ 64)
    s.queueEvent pkg core ⟨0x30, a, b, 0, 0, pc, key⟩

/-- The header of a SPILLED key's slot, when it passes the checks of R173: its bytes, the region, and the extent's regions. -/
def State.spillHeader (s : State) (g : Group) (key dir : Nat) : Option (List Byte × Region × Nat) :=
  let shnd := s.num (dir + 4) 2
  let soff := 4096 * s.num (dir + 8) 4
  (s.regionSpan g.pkg g.ctx shnd 1 soff 64).bind fun r =>
    let b := s.regionBytes g.pkg r soff 64
    let lay := leField b 6 1
    let n := leField b 7 1 + 1
    let rows := leField b 8 2
    let cols := leField b 0x0A 2
    let len := 64 + leField b 0x0C 4 * cols * layWords lay * 4
    if leField b 0 2 = 1 ∧ leField b 2 2 = key ∧ leField b 4 2 = s.num (dir + 6) 2 ∧ lay < 3 ∧ n ≤ 64 ∧ leField b 0x18 2 / 2 ^ 12 = 0 ∧
        zeroAt b 0x1A 38 ∧ extentOk lay rows cols n ∧ (s.regionSpan g.pkg g.ctx shnd 1 soff len).isSome then some (b, r, n)
    else none

/-- An extent's words zeroed and clean, then loaded from data with its poison (R168, R173, R411). -/
def State.fillExtent (s : State) (e : Extent) (data : Marked) : State :=
  let n := 4096 * e.n
  let s := { s.setBytes (e.word 0) (List.replicate n 0) with
             poison := s.poison.filter fun k => !(decide (e.word 0 ≤ k) && decide (k < e.word 0 + n)) }
  s.setMarked (e.keys (1024 * e.n)) data

/-- The directory entry becomes RESIDENT on a core with a spill slot. -/
def State.celResident (s : State) (dir core shnd soff : Nat) : State :=
  (((s.setNum dir 1 1).setNum (dir + 2) 2 core).setNum (dir + 4) 2 shnd).setNum (dir + 8) 4 soff

/-- CELGET by the state of the directory entry (R171). -/
def celgetOp (s : State) (d : BitVec 6) (q : CelReq) : Res :=
  let g := s.g
  let dir := s.celDir g.pkg g.ctx q.key
  let mine := s.exts.find? fun e => e.pkg == g.pkg && e.core == g.core && e.ctx == g.ctx && e.key == q.key
  match s.num dir 1 with
  | 0 =>
    let n := max 1 (ceilDiv (q.rows * q.cols * layWords q.lay) 1024)
    match s.freeRun g.pkg g.core n with
    | none => xreply (s.celPress g.pkg g.core q.key) 1 d 0x80000003
    | some h =>
      let e : Extent :=
        { pkg := g.pkg, core := g.core, head := h, n := n, ctx := g.ctx, key := q.key, lay := q.lay, rows := q.rows,
          cols := q.cols, pin := q.pin, gen := s.num (dir + 6) 2, shnd := q.shnd, soff := q.soff, valid := 0, crew := g.crew,
          users := [g.crew] }
      xreply (({ s with exts := s.exts ++ [e] }.fillExtent e []).celResident dir g.core q.shnd q.soff) 1 d (2 ^ 9 + h)
  | 1 =>
    if s.num (dir + 2) 2 ≠ g.core then xreply s 1 d 0x80000002
    else match mine with
      | some e =>
        if e.lay = q.lay ∧ e.rows = q.rows ∧ e.cols = q.cols then
          xreply (s.modExtent e.pkg e.core e.head fun x =>
            { x with pin := x.pin || q.pin, users := if x.users.contains g.crew then x.users else x.users ++ [g.crew] }) 1 d e.head
        else xreply s 1 d 0x80000005
      | none => xreply s 1 d 0x80000005
  | 2 =>
    match s.spillHeader g q.key dir with
    | none => xreply s 1 d 0x80000004
    | some (b, r, n) =>
      match s.freeRun g.pkg g.core n with
      | none => xreply (s.celPress g.pkg g.core q.key) 1 d 0x80000003
      | some h =>
        let shnd := s.num (dir + 4) 2
        let soff := s.num (dir + 8) 4
        let e : Extent :=
          { pkg := g.pkg, core := g.core, head := h, n := n, ctx := g.ctx, key := q.key, lay := leField b 6 1,
            rows := leField b 8 2, cols := leField b 0x0A 2, pin := true, gen := leField b 4 2, shnd := shnd, soff := soff,
            valid := leField b 0x0C 4, crew := g.crew, users := [g.crew] }
        let data := s.marked (s.regionKeys g.pkg r (4096 * soff + 64) (min e.valid e.rows * e.rowWords * 4))
        xreply (({ s with exts := s.exts ++ [e] }.fillExtent e data).celResident dir g.core shnd soff) 1 d (2 ^ 8 + h)
  | _ => .wait s .celget

def execCelget (d a : BitVec 6) (s : State) : Outcome State Fault Refusal :=
  issue (.celget d a) true s fun s =>
    let off := (s.g.sreg a.toNat).toNat
    if s.relWaits 1 then .hold
    else if off % 16 ≠ 0 then xreply s 1 d 0x80000001
    else match s.coreStruct off 16 16 with
      | (.inl c, s) => xreply s 1 d c
      | (.inr (_, b), s) => if s.celReqBad s.g b then xreply s 1 d 0x80000001 else celgetOp s d (CelReq.ofBytes b)

def execCelpin (y : BitVec 1) (d a b : BitVec 6) (s : State) : Outcome State Fault Refusal :=
  issue (.celpin y d a b) true s fun s =>
    let g := s.g
    let x := (g.sreg a.toNat).toNat
    let p := (g.sreg b.toNat).toNat
    if s.relWaits 1 then .hold
    else if x / 64 ≠ 0 ∨ p / 2 ≠ 0 then xreply s y d 0x80000010
    else match s.extent? g x with
      | none => xreply s y d 0x80000024
      | some e => xreply (s.modExtent e.pkg e.core e.head fun e => { e with pin := p == 1, crew := if p = 1 then e.crew else g.crew }) y d 0

/-- CELFREE accepted: its reply lands once the regions are free (R347, R420). -/
def celfreeOp (s : State) (y : BitVec 1) (d : BitVec 6) (e : Extent) (evict : Bool) : Res :=
  let g := s.g
  let reply := if y = 1 then some g.nextSb else none
  let s := if y = 1 then { s with g := g.post [(.s d.toNat, none)] } else s
  .done (s.celFreeStart e g.id g.crew reply evict)

def execCelfree (y : BitVec 1) (d a : BitVec 6) (s : State) : Outcome State Fault Refusal :=
  issue (.celfree y d a) true s fun s =>
    let x := (s.g.sreg a.toNat).toNat
    if s.relWaits 1 then .hold
    else if x / 64 ≠ 0 then xreply s y d 0x80000010
    else match s.extent? s.g x with
      | none => xreply s y d 0x80000024
      | some e => celfreeOp s y d e false

/-- CELFREE of a privileged group: eviction of any head region of its core (R420, R173). -/
def execCelfreeEvict (y : BitVec 1) (d a : BitVec 6) (s : State) : Outcome State Fault Refusal :=
  issue (.celfreeEvict y d a) true s fun s =>
    let g := s.g
    let x := (g.sreg a.toNat).toNat
    if s.relWaits 1 then .hold
    else if x / 64 ≠ 0 then xreply s y d 0x80000010
    else match s.exts.find? fun e => e.pkg == g.pkg && e.core == g.core && e.head == x && !s.celFreeing e.pkg e.core x with
      | none => xreply s y d 0x80000024
      | some e => if (s.spillSlot e).isNone then xreply s y d 0x80000024 else celfreeOp s y d e true

end Sys2Proof.Machine
end

