-- ==== Sys2Proof/Machine/Fabric.lean ====
section
/-! DEFINITION. The pod fabric (R193 to R212, R351 to R356): address groups, multicast stores, load-reduces, collectives, FLUSH, link failures. -/

namespace Sys2Proof.Machine

open Host (Outcome)

/-! ### Address groups (R194, R195, R351) -/

/-- The current group of a process that a handle names. -/
def State.addrGroup? (s : State) (ctx h : Nat) : Option AddrGroup :=
  s.ags.find? fun a => a.ctx == ctx && a.id == h % 2 ^ 12 && a.gen == h / 2 ^ 12 % 16 && a.freedAt.isNone

def State.modAg (s : State) (ctx id : Nat) (f : AddrGroup → AddrGroup) : State :=
  { s with ags := s.ags.map fun a => if a.ctx = ctx ∧ a.id = id then f a else a }

def AddrGroup.handle (a : AddrGroup) : Nat := a.gen * 2 ^ 12 + a.id
def AddrGroup.rank (a : AddrGroup) (pkg : Nat) : Nat := a.members.findIdx fun m => m == pkg
/-- The timeout in ns (R194). -/
def AddrGroup.timeout (a : AddrGroup) : Nat := 1000 * (if a.tmo = 0 then 10 else a.tmo)

/-- A member of a group is absent (R193, R202). -/
def State.agAbsent (s : State) (a : AddrGroup) (pkg : Nat) : Bool := a.members.any fun m => !s.reaches pkg m

/-- The ids of a range that AGSET may take, with their next generation (R195). -/
def State.agFree (s : State) (ctx base n : Nat) : List (Nat × Nat) :=
  (List.range n).filterMap fun j =>
    match s.ags.find? fun a => a.ctx == ctx && a.id == base + j with
    | none => some (base + j, 0)
    | some a => match a.freedAt with
      | some t => if t + 10 ^ 7 ≤ s.time then some (base + j, (a.gen + 1) % 16) else none
      | none => none

/-- The planes on which a member has lost its port or its leaf switch: no reduction path of the group is left there (R193, R203). -/
def State.brokenPlanes (s : State) (members : List Nat) : List Nat :=
  (List.range Config.planes).filter fun p => members.any fun m => (s.pkg m).failedPlanes.contains p

/-- AGSET with a valid list: attach, create, or a failure in R194's order. A list that differs from that of an open group
which still waits for the issuer is denied. In extended mode the group needs a plane whose switches all members reach (log entry 101). -/
def State.agClaim (s : State) (pkg ctx : Nat) (members : List Nat) (tmo : Nat) : Nat × State :=
  let open_ := s.ags.filter fun a => a.ctx == ctx && a.freedAt.isNone && a.members.contains pkg && !a.joined.contains pkg
  let same := open_.find? fun a => a.members == members && a.tmo == tmo
  let base := s.ctxField pkg ctx 0x30 2
  let free := s.agFree ctx base (s.ctxField pkg ctx 0x32 2)
  if same.isNone && free.isEmpty then (0x80000002, s)
  else if (members.any fun m => (s.pkg m).member && !s.reaches pkg m) ||
      (s.extended && decide (Config.planes ≤ (s.brokenPlanes members).length)) then (0x80000003, s)
  else if (same.isNone && !open_.isEmpty) || members.any fun m => !(s.pkg m).member || !s.ctxLive m ctx then (0x80000004, s)
  else match same with
    | some a => (a.handle, s.modAg ctx a.id fun a => { a with joined := a.joined ++ [pkg] })
    | none =>
      let (k, s) := s.pick free.length
      let (id, gen) := free.getD k (base, 0)
      let a : AddrGroup :=
        { id := id, gen := gen, ctx := ctx, members := members, tmo := tmo, seqs := [], colls := [], freedAt := none,
          failed := s.brokenPlanes members, joined := [pkg] }
      (a.handle, { s with ags := a :: s.ags.filter fun b => !(b.ctx == ctx && b.id == id) })

/-- AGSET: the member list read as a load of it, then R194. -/
def execAgset (d a : BitVec 6) (s : State) : Outcome State Fault Refusal :=
  issue (.agset d a) true s fun s =>
    let g := s.g
    let va := g.s2 a.toNat
    if s.relWaits 5 then .hold
    else if va % 8 ≠ 0 then xreply s 1 d 0x80000001
    else match s.readFor g va 8 with
      | (none, s) => xreply s 1 d 0x80000001
      | (some h, s) =>
        let n := leField h 0 2
        let tmo := leField h 2 2
        if n < 2 ∨ 4096 < n ∨ 1000 < tmo ∨ leField h 4 4 ≠ 0 then xreply s 1 d 0x80000001
        else match s.readFor g (va + 8) (2 * n) with
          | (none, s) => xreply s 1 d 0x80000001
          | (some b, s) =>
            let ms := (List.range n).map fun r => leField b (2 * r) 2
            if ms.any (fun m => m / 2 ^ 12 != 0) || ms.eraseDups.length != n || !ms.contains g.pkg then xreply s 1 d 0x80000001
            else let (w, s) := s.agClaim g.pkg g.ctx ms tmo; xreply s 1 d w

/-- The group handle of a fabric command. -/
def Cmd.agHandle (c : Cmd) : Option Nat :=
  match c.kind with
  | .mst b _ _ _ _ => some (leField b 0 2)
  | .mldr b _ _ _ _ _ => some (leField b 0 2)
  | .coll b _ _ _ _ _ _ => some (leField b 4 2)
  | _ => none

/-- A command's outcome is set. -/
def Cmd.setOut (c : Cmd) (code : Nat) : Cmd :=
  { c with kind := match c.kind with
      | .mldr b k q none f d => .mldr b k q (some code) f d
      | .coll b a q x y none f => .coll b a q x y (some code) f
      | k => k }

/-- Tuples that satisfy p are discarded; every contributor receives a code (R201 to R204). -/
def State.closeTuples (s : State) (code : Nat) (p : Tuple → Bool) : State :=
  let ids := (s.tuples.filter p).flatMap fun t => t.parts.map fun r => (r.2.1, if t.denied ∧ code = 2 then 7 else code)
  { s with
    tuples := s.tuples.filter fun t => !p t
    cmds := s.cmds.map fun c => match ids.find? fun i => i.1 == c.id with
      | some i => c.setOut i.2
      | none => c }

def execAgfree (y : BitVec 1) (d a : BitVec 6) (s : State) : Outcome State Fault Refusal :=
  issue (.agfree y d a) true s fun s =>
    let g := s.g
    let x := (g.sreg a.toNat).toNat
    if s.relWaits 5 then .hold
    else match s.addrGroup? g.ctx (x % 2 ^ 16) with
      | none => xreply s y d 0x80000005
      | some ag =>
        if ag.members.head? ≠ some g.pkg then xreply s y d 0x80000004
        else if x / 2 ^ 16 ≠ 0 then xreply s y d 0x80000010
        else if s.cmds.any fun c => c.pkg == g.pkg && c.ctx == g.ctx && c.agHandle == some (x % 2 ^ 16) then .hold
        else
          let s := s.modAg g.ctx ag.id fun q => { q with freedAt := some s.time }
          let mine := fun (c : Cmd) => c.ctx == g.ctx && c.agHandle == some (x % 2 ^ 16)
          let s := { s with stale := s.stale + (s.cmds.filter mine).length }
          let s := s.closeTuples 8 fun t => t.ctx == g.ctx && t.grp == ag.id
          xreply { s with cmds := s.cmds.map fun c => if mine c then c.setOut 8 else c } y d 0

/-! ### Acceptance of MST and MLDR (R352, R353) -/

/-- The barrier object at a window offset of the ancestor tile at a level (R352). -/
def State.levelBarrier (s : State) (g : Group) (lv off : Nat) : Option Nat :=
  if lv = 0 ∨ 3 < lv then none else (s.windowTile g lv).bind fun t => s.ownBarrier g.ctx t off

/-- The operation admits the input type (R198). -/
def mldrAdmits (op et : Nat) : Bool := if op < 7 then et == 13 || et == 14 else decide (op ≤ 8) && et == 2

/-- The result type of an MLDR: F32 for SUM (R198). -/
def mldrResult (op et : Nat) : Nat := if op = 0 then 14 else et

/-- The physical keys of a LOCAL range of the issuing package with the rights needed (R352). -/
def State.localKeys (s : State) (g : Group) (va n need : Nat) : Option (List Nat) × State :=
  match s.place g va with
  | some (.home pkg off) => if pkg = g.pkg then s.translateSpan pkg g.ctx off need n else (none, s)
  | _ => (none, s)

/-- No tile of a privileged group has the window that a command needs (R362); elsewhere the object is not one (R352, R354). -/
def Group.noBarrier (g : Group) : Nat := if g.priv then 0x8000001D else 0x8000001C

/-- A fabric command is accepted. -/
def acceptFabric (s : State) (y : BitVec 1) (d : BitVec 6) (obj : Nat) (kind : CmdKind) (src dst : List (Nat × Nat)) : Cmd × State :=
  let g := s.g
  let (id, s) := s.fresh
  let c : Cmd :=
    { id := id, engine := engineId 7 g.pkg 0, pkg := g.pkg, core := g.core, gid := g.id, num := g.num, pc := g.pc, crew := g.crew, tile := g.tile,
      ctx := g.ctx, bar := some obj, reply := (if y = 1 then some g.nextSb else none), time := s.time, sent := false,
      batch := 0, src := src, dst := dst, hnds := [], kind := kind }
  let g := if y = 1 then g.post [(.s d.toNat, none)] else g
  (c, { s with g := g, cmds := s.cmds ++ [c] })

/-- A sequence number of a package on a group, and the next one. -/
def seqOf (l : List (Nat × Nat)) (pkg : Nat) : Nat := ((l.find? fun q => q.1 == pkg).map Prod.snd).getD 0
def seqNext (l : List (Nat × Nat)) (pkg n : Nat) : List (Nat × Nat) :=
  (pkg, (seqOf l pkg + n) % 2 ^ 16) :: l.filter fun q => q.1 != pkg

/-- MST and MLDR: the checks of R352 in order, then acceptance. -/
def fabricOp (s : State) (y : BitVec 1) (d a : BitVec 6) (reduce : Bool) : Res :=
  let g := s.g
  let va := g.s2 a.toNat
  if s.relWaits 5 then .hold
  else if !s.extended then xreply s y d 0x80000025
  else match (if va % 32 = 0 then s.fetchStruct g va 32 else (none, s)) with
    | (none, s) => xreply s y d 0x80000010
    | (some b, s) =>
      let op := leField b 2 1
      let et := leField b 3 1
      let cnt := leField b 4 2
      let off := leField b 8 8
      let loc := leField b 0x10 8
      let bad := leField b 6 1 / 8 != 0 || leField b 7 1 != 0 || leField b 0x1C 4 != 0 || off / 2 ^ 40 != 0 || off % 4 != 0 ||
        loc % 4 != 0 ||
        (if reduce then cnt == 0 || decide (64 < cnt) || !mldrAdmits op et
         else op != 0 || et != 0 || decide (cnt < 4) || decide (256 < cnt) || cnt % 4 != 0)
      if bad then xreply s y d 0x80000010
      else
        let n := if reduce then cnt * etBytes (mldrResult op et) else cnt
        match s.localKeys g loc n (if reduce then 2 else 1) with
        | (none, s) => xreply s y d 0x8000001D
        | (some keys, s) =>
          match s.levelBarrier g (leField b 6 1) (leField b 0x18 4) with
          | none => xreply s y d g.noBarrier
          | some obj =>
            let ag := s.addrGroup? g.ctx (leField b 0 2)
            let spans := keys.map fun k => (k, 1)
            if reduce then
              let home := (s.translateSpan g.pkg g.ctx off 1 (cnt * etBytes et)).1
              let mine := ag.filter fun q => q.members.contains g.pkg
              let out := match ag, mine with
                | none, _ => some 8
                | _, none => some 7
                | _, _ => none
              let seq := (mine.map fun q => seqOf q.seqs g.pkg).getD 0
              let s := match mine with
                | some q => s.modAg g.ctx q.id fun q => { q with seqs := seqNext q.seqs g.pkg 1 }
                | none => s
              .done (acceptFabric s y d obj (.mldr b keys seq out 0 []) ((home.getD []).map fun k => (k, 1)) spans).2
            else
              let todo := (ag.map AddrGroup.members).getD []
              let theirs := todo.flatMap fun m => (((s.translateSpan m g.ctx off 2 n).1).getD []).map fun k => (k, 1)
              let out := match ag with
                | none => 8
                | some q => if q.members.contains g.pkg then 0 else 7
              .done (acceptFabric s y d obj (.mst b keys (if out = 0 then todo else []) out 0) spans (if out = 0 then theirs else [])).2

def execMst (y : BitVec 1) (d a : BitVec 6) (s : State) : Outcome State Fault Refusal :=
  issue (.mst y d a) true s fun s => fabricOp s y d a false

def execMldr (y : BitVec 1) (d a : BitVec 6) (s : State) : Outcome State Fault Refusal :=
  issue (.mldr y d a) true s fun s => fabricOp s y d a true

/-! ### Outcomes (R204, R205) -/

/-- The first of two outcomes in R204's order; STALE ends an operation whole. -/
def firstOut (a b : Nat) : Nat :=
  ([8, 3, 1, 7, 2].find? fun c => a == c || b == c).getD 0

/-- What an outcome code folds into the status word; a code that is never sent is MALFORMED (R205). -/
def outcomeFold (code flags : Nat) : Fold :=
  match code with
  | 0 => ⟨flags, 0, 0⟩
  | 1 => ⟨2 ^ 11, 1, 0x0301⟩
  | 2 => ⟨2 ^ 10, 1, 0x0302⟩
  | 3 => ⟨2 ^ 12, 1, 0x0303⟩
  | 8 => ⟨2 ^ 13, 1, 0x0308⟩
  | 5 => ⟨2 ^ 9, 1, 0x0305⟩
  | 7 => ⟨2 ^ 9, 1, 0x0307⟩
  | _ => ⟨2 ^ 9, 1, 0x0306⟩

/-! ### Reduction in the switches (R198, R199) -/

/-- One value as a combination starts from it: its magnitude for ABSMAX, an FP32 value for SUM. -/
def mldrStart (op et x : Nat) : Nat :=
  match op, et with
  | 0, 13 => x * 2 ^ 16
  | 5, 13 => x % 2 ^ 15
  | 6, 13 => x % 2 ^ 15
  | 5, _ => x % 2 ^ 31
  | 6, _ => x % 2 ^ 31
  | _, _ => x

/-- One combination, on values of the result type, with SUM's overflow. -/
def mldrCombine (op et a b : Nat) : Nat × Bool :=
  let f := if et = 13 ∧ op ≠ 0 then bf16 else f32
  let x := f.decode a
  let y := f.decode b
  let out := fun (v : XR) => (f.round .rne false 0 v).code
  match op with
  | 0 => let r := f32.round .rne false 0 (x.add y); (r.code, r.ovf)
  | 1 => (out (xMinMax false x y), false)
  | 2 => (out (xMinMax true x y), false)
  | 3 => (out (xMinMaxNum false x y), false)
  | 4 => (out (xMinMaxNum true x y), false)
  | 5 => (out (xMinMax true x y), false)
  | 6 => (out (xMinMaxNum true x y), false)
  | 7 => (a &&& b, false)
  | _ => (a ||| b, false)

/-- Values combined left to right. -/
def mldrFold (op et : Nat) : List Nat → Nat × Bool
  | [] => (0, false)
  | x :: t => t.foldl (fun (a : Nat × Bool) y => let (v, o) := mldrCombine op et a.1 y; (v, a.2 || o)) (x, false)

/-- The ranks of a group by leaf switch on a plane, leaves in order of their lowest rank (R199). -/
def leafRanks (plane : Nat) (members : List Nat) : List (List Nat) :=
  let leaf := fun (r : Nat) => Config.leafOf plane (members.getD r 0)
  ((List.range members.length).map leaf).eraseDups.map fun l => (List.range members.length).filter fun r => leaf r == l

/-- One element combined by leaf and then at the reduction switch, with the flags of R198. -/
def mldrElement (op et plane : Nat) (members : List Nat) (x : Nat → Nat) : Nat × Nat :=
  let parts := (leafRanks plane members).map fun rs => mldrFold op et (rs.map fun r => mldrStart op et (x r))
  let (v, o) := mldrFold op et (parts.map Prod.fst)
  let f := if et = 13 ∧ op ≠ 0 then bf16 else f32
  let nan := decide (op < 7) && f.isNan v
  (v, (if nan then 4 else 0) + if op = 0 ∧ (o || parts.any Prod.snd) then 8 else 0)

/-- The planes that a group's tuples may travel on (R203). -/
def AddrGroup.planes (a : AddrGroup) : List Nat := (List.range Config.planes).filter fun p => !a.failed.contains p

/-- The plane of a tuple (R193). -/
def AddrGroup.planeAt (a : AddrGroup) (off : Nat) : Nat :=
  a.planes.getD (Config.planeOf a.id (off / 2 ^ 12) % a.planes.length) 0

/-- The kind of a COLL of the in-switch algorithm that is sent and has no outcome: its series number and first offset (R209). -/
def Cmd.openSwitch (c : Cmd) : Option (Nat × Nat) :=
  match c.kind with
  | .coll bs 3 seq _ _ none _ => if c.sent then some (seq, leField bs 0x10 8) else none
  | _ => none

/-- A reduction's slots (R200): its plane, process, group, and the ranks that have joined. -/
structure Slot where
  plane : Nat
  ctx : Nat
  ag : AddrGroup
  ranks : List Nat

/-- Everything that may hold slots: the open tuples, and the first steps of the collectives of the in-switch algorithm. -/
def State.slots (s : State) : List Slot :=
  (s.tuples.filterMap fun t => (s.ags.find? fun a => a.ctx == t.ctx && a.id == t.grp).map fun a =>
    ⟨t.plane, t.ctx, a, t.parts.map Prod.fst⟩) ++
  s.ags.flatMap fun a =>
    let cs := s.cmds.filterMap fun c => if c.ctx = a.ctx ∧ c.agHandle = some a.handle then c.openSwitch.map fun o => (o, a.rank c.pkg) else none
    (cs.map fun x => x.1.1).eraseDups.map fun seq =>
      let mine := cs.filter fun x => x.1.1 == seq
      ⟨a.planeAt ((mine.head?.map fun x => x.1.2).getD 0), a.ctx, a, mine.map Prod.snd⟩

/-- The ranks of a slot's group on the leaf switch of a rank. -/
def Slot.leaf (x : Slot) (r : Nat) : List Nat := ((leafRanks x.plane x.ag.members).find? fun rs => rs.contains r).getD []

/-- The slot's leaf switches whose members have all joined: their partials have been forwarded. -/
def Slot.forwarded (x : Slot) : List (List Nat) := (leafRanks x.plane x.ag.members).filter fun rs => rs.all x.ranks.contains
/-- The plane is of one tier for the group: its leaf is the reduction switch. -/
def Slot.oneTier (x : Slot) : Bool := decide ((leafRanks x.plane x.ag.members).length ≤ 1)

/-- A slot is held at a leaf switch, by its number; and at a reduction switch (R200). -/
def Slot.atLeaf (x : Slot) (leaf : Nat) : Bool :=
  (leafRanks x.plane x.ag.members).any fun rs => (rs.head?.map fun r => Config.leafOf x.plane (x.ag.members.getD r 0)) == some leaf &&
    rs.any x.ranks.contains && (x.oneTier || !rs.all x.ranks.contains)
def Slot.atSpine (x : Slot) (spine : Nat) : Bool :=
  !x.oneTier && Config.spineOf x.plane x.ctx x.ag.id == spine && !x.forwarded.isEmpty

/-- Rank r finds the slots that its contribution takes: one at its leaf when it is the first there, one at the reduction switch when
it completes the first leaf (R200). -/
def State.slotFree (s : State) (x : Slot) (r : Nat) : Bool :=
  let leaf := Config.leafOf x.plane (x.ag.members.getD r 0)
  let spine := Config.spineOf x.plane x.ctx x.ag.id
  let here := s.slots.filter fun y => y.plane == x.plane
  let first := !(x.leaf r).any x.ranks.contains
  let whole := (x.leaf r).all fun k => k == r || x.ranks.contains k
  (!first || decide ((here.filter fun y => y.atLeaf leaf).length < 8192)) &&
  (!whole || x.oneTier || !x.forwarded.isEmpty || decide ((here.filter fun y => y.atSpine spine).length < 8192))

/-- A tuple that all members have joined gives its outcome to each (R197, R199, R204). -/
def State.tupleDone (s : State) (a : AddrGroup) (t : Tuple) : State :=
  if t.denied then s.closeTuples 7 fun q => q == t
  else
    let et := t.params.getD 0 14
    let op := t.params.getD 1 0
    let z := etBytes et
    let es := (List.range (t.params.getD 2 0)).map fun e =>
      mldrElement op et t.plane a.members fun r => ((t.parts.find? fun p => p.1 == r).map fun p => leField p.2.2 (z * e) z).getD 0
    let data := es.flatMap fun e => bytesOf (etBytes (mldrResult op et)) e.1
    let flags := es.foldl (fun f e => f ||| e.2) (if t.bad.isEmpty then 0 else 2 ^ 6)
    let bad := (List.range es.length).flatMap fun e => List.replicate (etBytes (mldrResult op et)) (t.bad.contains e)
    { s with
      tuples := s.tuples.filter fun q => q != t
      cmds := s.cmds.map fun c => if !t.parts.any fun p => p.2.1 == c.id then c else
        { c with kind := match c.kind with
            | .mldr b k q none _ _ => .mldr b k q (some 0) flags (data.zip bad)
            | k => k } }

/-- An MLDR's contribution reaches the switches (R197, R200 to R203). -/
def State.contribute (s : State) (c : Cmd) (a : AddrGroup) (b : List Byte) (seq : Nat) : State :=
  let off := leField b 8 8
  let params := [leField b 3 1, leField b 2 1, leField b 4 2]
  let done := fun (code : Nat) => s.modCmd c.id fun q => { (q.setOut code) with sent := true }
  if a.planes.isEmpty then done 3
  else if s.agAbsent a c.pkg then done 1
  else
    let key := fun (t : Tuple) => t.ctx == c.ctx && t.grp == a.id && t.gen == a.gen && t.offset == off && t.seq == seq
    let s := s.closeTuples 2 fun t => key t && decide (t.start + a.timeout ≤ s.time)
    let plane := a.planeAt off
    if !s.slotFree ⟨plane, c.ctx, a, ((s.tuples.find? key).map fun t => t.parts.map Prod.fst).getD []⟩ (a.rank c.pkg) then s
    else
      let n := leField b 4 2 * etBytes (leField b 3 1)
      let (keys, s) := s.translateSpan c.pkg c.ctx off 1 n
      let part := (a.rank c.pkg, c.id, (keys.getD []).map fun k => s.engineByte c.id k)
      let bad := (List.range n).filterMap fun j => if s.poisonedAt ((keys.getD []).getD j 0) 1 then some (j / etBytes (leField b 3 1)) else none
      let t : Tuple := (s.tuples.find? key).getD
        { ctx := c.ctx, grp := a.id, gen := a.gen, offset := off, seq := seq, plane := plane, start := s.time, parts := [],
          params := params, denied := false, bad := [] }
      let t := { t with parts := t.parts ++ [part], denied := t.denied || keys.isNone || t.params != params,
                        bad := (t.bad ++ bad).eraseDups }
      let s := { s with tuples := t :: s.tuples.filter fun q => !key q }
      let s := s.modCmd c.id fun q => { q with sent := true }
      if t.parts.length = a.members.length then s.tupleDone a t else s

/-- A command's outcome comes before it has met its peers: a stale one is counted (R195). -/
def State.turnedAway (s : State) (cmd code : Nat) : State :=
  { s.modCmd cmd fun q => { (q.setOut code) with sent := true } with stale := if code = 8 then s.stale + 1 else s.stale }

/-- A member's part of a collective leaves its package (R200, R202 to R204): its in-switch first step waits for its slots. -/
def State.joinColl (s : State) (c : Cmd) (a : AddrGroup) : State :=
  let x := { c with sent := true }.openSwitch
  let peers := x.map fun o => s.slots.find? fun y => y.ag == a && s.cmds.any fun q => q.ctx == c.ctx && q.agHandle == some a.handle &&
    (q.openSwitch.map Prod.fst) == some o.1
  let slot : Option Slot := x.map fun o => ((peers.getD none).getD ⟨a.planeAt o.2, c.ctx, a, []⟩)
  if x.isSome && a.planes.isEmpty then s.turnedAway c.id 3
  else if s.agAbsent a c.pkg then s.turnedAway c.id 1
  else if (slot.map fun y => !s.slotFree y (a.rank c.pkg)).getD false then s
  else s.modCmd c.id fun q => { q with sent := true, time := s.time }

/-- A contribution, or a member's step of a collective, leaves its package and reaches the switches or its peers; a packet too old
is dropped on its way (R195). -/
def execSwitchContribution (cmd : Nat) (s : State) : Outcome State Fault Refusal :=
  .next (match s.cmd? cmd with
    | none => s
    | some c =>
      if c.sent then s else
      match c.kind, c.agHandle.bind (s.addrGroup? c.ctx) with
      | .mldr _ _ _ none _ _, none => s.turnedAway cmd 8
      | .mldr b _ seq none _ _, some a => if s.tooOld c.time then s.turnedAway cmd 1 else s.contribute c a b seq
      | .coll _ _ _ _ _ none _, none => s.turnedAway cmd 8
      | .coll _ _ _ _ _ none _, some a => if s.tooOld c.time then s.turnedAway cmd 1 else s.joinColl c a
      | _, _ => s)

/-- A tuple not combined within the group's TMO gives TIMEOUT to its contributors (R201). -/
def execTupleTimeout (grp seq : Nat) (s : State) : Outcome State Fault Refusal :=
  .next (s.closeTuples 2 fun t => t.grp == grp && t.seq == seq &&
    ((s.ags.find? fun a => a.ctx == t.ctx && a.id == grp).map fun a => decide (t.start + a.timeout ≤ s.time)).getD false)

/-! ### Collectives (R207 to R212, R354) -/

/-- A collective block (R207). -/
structure CollBlock where
  format : Nat
  op : Nat
  alg : Nat
  et : Nat
  rop : Nat
  srch : Nat
  dsth : Nat
  cmpk : Nat
  root : Nat
  soff : Nat
  doff : Nat
  count : Nat
  bita : Nat
  bitb : Nat
  bitn : Nat
  blv : Nat
  bar : Nat
  res0 : Bool
  deriving DecidableEq, Repr

def CollBlock.ofBytes (b : List Byte) : CollBlock where
  format := leField b 0 2
  op := leField b 2 1
  alg := leField b 3 1 % 4
  et := leField b 6 1 % 32
  rop := leField b 7 1 % 16
  srch := leField b 8 2
  dsth := leField b 0x0A 2
  cmpk := leField b 0x0C 2
  root := leField b 0x0E 2
  soff := leField b 0x10 8
  doff := leField b 0x18 8
  count := leField b 0x20 8
  bita := leField b 0x28 1
  bitb := leField b 0x29 1
  bitn := leField b 0x2A 1
  blv := leField b 0x2B 1 % 8
  bar := leField b 0x2C 4
  res0 := leField b 3 1 / 4 == 0 && leField b 6 1 / 32 == 0 && leField b 7 1 / 16 == 0 && leField b 0x2B 1 / 8 == 0 && zeroAt b 0x30 80

/-- The operation reduces. -/
def CollBlock.reduces (b : CollBlock) : Bool := decide (b.op < 2)

/-- The algorithm after AUTO is resolved: 1 RING, 2 TREE, 3 SWITCH (R209). -/
def CollBlock.resolve (b : CollBlock) (extended : Bool) (p : Nat) : Nat :=
  if b.alg ≠ 0 then b.alg
  else if extended && b.reduces && mldrAdmits b.rop b.et && b.cmpk == 0 then 3
  else if 8 < p then 2 else 1

/-- Elements of a member's source and destination (R208). -/
def CollBlock.srcLen (b : CollBlock) (p : Nat) : Nat := if b.op = 1 ∨ b.op = 3 then p * b.count else b.count
def CollBlock.dstLen (b : CollBlock) (p : Nat) : Nat := if b.op = 2 ∨ b.op = 3 then p * b.count else b.count

/-- RING and TREE combine SUM, MIN and MAX on F32, BF16 and S32 (R209, R132). -/
def ringAdmits (rop et : Nat) : Bool := decide (rop < 3) && (et == 14 || et == 13 || et == 8)

/-- Bytes of an element: a narrow code takes one, for the block names no f-code (log entry 102). -/
def CollBlock.z (b : CollBlock) : Nat := if b.et = 16 then 1 else etBytes b.et

/-- The conditions of R208 that refuse with FIELD, for a group of p members. -/
def CollBlock.bad (b : CollBlock) (extended : Bool) (p : Nat) : Bool :=
  let alg := b.resolve extended p
  b.format != 1 || !b.res0 || decide (5 < b.op) || decide (20 ≤ b.et) ||
  (b.reduces && (if alg = 3 then !mldrAdmits b.rop b.et else !ringAdmits b.rop b.et)) ||
  decide (p ≤ b.root) || decide (255 < b.cmpk) ||
  (b.cmpk != 0 && !(b.op == 0 && b.rop == 0 && alg != 3)) ||
  (b.op == 5 && (!(List.range 13).any (fun m => 2 ^ m == p && decide (1 ≤ m) && decide (b.bitb < b.bitn + m)) ||
    decide (b.bitn ≤ b.bita) || decide (b.bitb < b.bitn) || b.count != 2 ^ b.bitn))

/-- The outcomes of the eight collectives accepted last, and every one that is still to come (R355). -/
def keepColls (l : List (Nat × Nat × Option Nat)) : List (Nat × Nat × Option Nat) := l.take 8 ++ (l.drop 8).filter fun q => q.2.2.isNone

/-- COLL: refused, or accepted with its regions and its place in the group's series (R354, R355). -/
def execColl (y : BitVec 1) (d a : BitVec 6) (s : State) : Outcome State Fault Refusal :=
  issue (.coll y d a) true s fun s =>
    let g := s.g
    let va := g.s2 a.toNat
    if s.relWaits 5 then .hold
    else
      let here := match s.place g va with
        | some (.home pkg _) => pkg == g.pkg && va % 128 == 0
        | _ => false
      match (if here then s.readFor g va 128 else (none, s)) with
        | (none, s) => xreply s y d 0x80000010
        | (some bs, s) =>
          let b := CollBlock.ofBytes bs
          let ag := s.addrGroup? g.ctx (leField bs 4 2)
          let p := (ag.map fun a => a.members.length).getD (max 2 (b.root + 1))
          let r := (ag.map fun a => a.rank g.pkg).getD 0
          let z := b.z
          let src := if b.op = 4 ∧ r ≠ b.root then some (⟨0, 0, 0, 0⟩ : Region)
                     else s.regionSpan g.pkg g.ctx b.srch 1 b.soff (b.srcLen p * z)
          let dst := s.regionSpan g.pkg g.ctx b.dsth 2 b.doff (b.dstLen p * z)
          if b.bad s.extended p then xreply s y d 0x80000010
          else match s.levelBarrier g b.blv b.bar, src, dst with
            | none, _, _ => xreply s y d g.noBarrier
            | some obj, some src, some dst =>
              if b.alg = 3 ∧ !s.extended then xreply s y d 0x80000025
              else
                let alg := b.resolve s.extended p
                let mine := ag.filter fun q => q.members.contains g.pkg
                let out := match ag, mine with
                  | none, _ => some 8
                  | _, none => some 7
                  | _, _ => none
                let seq := (mine.map fun q => seqOf q.colls g.pkg).getD 0
                let steps := if alg = 3 ∧ b.reduces then ceilDiv (b.srcLen p) 64 else 0
                let s := match mine with
                  | some q => s.modAg g.ctx q.id fun q =>
                      { q with colls := seqNext q.colls g.pkg 1, seqs := seqNext q.seqs g.pkg steps }
                  | none => s
                let bytes := fun (r : Region) (off n : Nat) => (List.range n).map fun j => (s.regionKey g.pkg r (off + j), 1)
                let ss := if src.nchunk = 0 then [] else bytes src b.soff (b.srcLen p * z)
                let (c, s) := acceptFabric s y d obj (.coll bs alg seq src dst out 0) ss (bytes dst b.doff (b.dstLen p * z))
                .done { s with g := { s.g with colls := keepColls ((va, c.id, none) :: s.g.colls) } }
            | _, _, _ => xreply s y d 0x8000001D

/-! ### What a collective computes (R209, R210, R212) -/

/-- ⊕ of R132 on values that a compressed contribution may lack. -/
def ringCombine (rop et : Nat) (a b : Option Nat × Fold) : Option Nat × Fold :=
  match a.1, b.1 with
  | some x, some y => let (v, f) := combineRop (rop + 1) et x y; (some v, (a.2.and b.2).and f)
  | none, y => (y, a.2.and b.2)
  | x, none => (x, a.2.and b.2)

/-- RING's order for an element of chunk c (R209). -/
def ringElement (rop et p c : Nat) (x : Nat → Option Nat) : Option Nat × Fold :=
  (List.range (p - 1)).foldl (fun a j => ringCombine rop et a (x ((c + 2 + j) % p), Fold.none)) (x ((c + 1) % p), Fold.none)

/-- TREE: the partial of rank r after some steps (R209). -/
def treePartial (rop et p : Nat) (x : Nat → Option Nat) : Nat → Nat → Option Nat × Fold
  | 0, r => (x r, Fold.none)
  | k + 1, r =>
    let own := treePartial rop et p x k r
    if r + 2 ^ k < p then ringCombine rop et own (treePartial rop et p x k (r + 2 ^ k)) else own

/-- The magnitude that ranks elements for compression: NaN above all (R210). -/
def magRank (et x : Nat) : XR :=
  if et = 8 then XR.ofInt ((signExt x 32).natAbs : Int) else ((if et = 13 then bf16 else f32).decode x).abs

/-- x ranks before y: larger magnitude, NaN first, ties to the lower index. -/
def ranksBefore (et : Nat) (x y : Nat × Nat) : Bool :=
  let a := magRank et x.2
  let b := magRank et y.2
  if a.isNan ∨ b.isNan then (a.isNan && !b.isNan) || (a.isNan && b.isNan && decide (x.1 < y.1))
  else match XR.cmp a b with
    | .gt => true
    | .eq => decide (x.1 < y.1)
    | .lt => false

/-- A block's elements that compression keeps (R210). -/
def keepTop (et k : Nat) (xs : List Nat) : List (Option Nat) :=
  let ix := (List.range xs.length).zip xs
  ix.map fun x => if (ix.filter fun y => ranksBefore et y x).length < k then some x.2 else none

/-- A member's source after compression, whole where there is none. -/
def compressed (et k : Nat) (xs : List Nat) : List (Option Nat) :=
  if k = 0 then xs.map some else (chunks 256 xs.length xs).flatMap (keepTop et k)

/-- The destination elements of rank r, with flags, from every rank's source elements. -/
def CollBlock.result (b : CollBlock) (alg : Nat) (a : AddrGroup) (off : Nat) (srcs : List (List Nat)) (r : Nat) : List Nat × Fold :=
  let p := a.members.length
  let x := fun (i e : Nat) => (srcs.getD i []).getD e 0
  let plain := fun (n : Nat) (f : Nat → Nat) => ((List.range n).map f, Fold.none)
  match b.op with
  | 2 => plain (p * b.count) fun e => x (e / b.count) (e % b.count)
  | 3 => plain (p * b.count) fun e => x (e / b.count) (r * b.count + e % b.count)
  | 4 => plain b.count fun e => x b.root e
  | 5 => plain b.count fun l =>
      let ra := flag l b.bita
      let rb := flag r (b.bitb - b.bitn)
      if ra = rb then x r l else x (r ^^^ 2 ^ (b.bitb - b.bitn)) (l ^^^ 2 ^ b.bita)
  | _ =>
    let total := b.srcLen p
    let base := if b.op = 1 then r * b.count else 0
    let comp := srcs.map (compressed b.et b.cmpk)
    let y := fun (e i : Nat) => (comp.getD i []).getD e none
    let q := if b.op = 1 then b.count else max 1 (ceilDiv total p)
    let one := fun (e : Nat) => match alg with
      | 3 =>
        let (v, f) := mldrElement b.rop b.et (a.planeAt (off + e / 64 * 64 * etBytes b.et)) a.members fun i => x i e
        let code := if b.rop = 0 ∧ b.et = 13 then (bf16.round .rne false 0 (f32.decode v)).code else v
        (code, (⟨f, 0, 0⟩ : Fold))
      | 2 => let (v, f) := treePartial b.rop b.et p (y e) (Nat.log2 p + 1) 0; (v.getD 0, f)
      | _ => let (v, f) := ringElement b.rop b.et p (e / q) (y e); (v.getD 0, f)
    let es := (List.range b.count).map fun e => one (base + e)
    (es.map Prod.fst, es.foldl (fun f e => f.and e.2) Fold.none)

/-- The destination elements of rank r that come from a poisoned element of some source (R411). -/
def CollBlock.spoilt (b : CollBlock) (alg : Nat) (a : AddrGroup) (off : Nat) (bad : List (List Nat)) (r : Nat) : List Bool :=
  if b.reduces then (List.range b.count).map fun e => bad.any fun l => l.getD ((if b.op = 1 then r * b.count else 0) + e) 0 != 0
  else (b.result alg a off bad r).1.map fun x => x != 0

/-- The members' COLLs that meet a command: one per rank, all joined. -/
def State.collPeers (s : State) (c : Cmd) (a : AddrGroup) (seq : Nat) : List Cmd :=
  (List.range a.members.length).filterMap fun r => s.cmds.find? fun q =>
    q.pkg == a.members.getD r 0 && q.ctx == c.ctx && q.sent && q.agHandle == some a.handle && match q.kind with
      | .coll _ _ n _ _ none _ => n == seq
      | _ => false

/-- A member's source elements. -/
def State.collSource (s : State) (c : Cmd) (p : Nat) : List Nat :=
  match c.kind with
  | .coll bs _ _ src _ _ _ =>
    let b := CollBlock.ofBytes bs
    let z := b.z
    if src.nchunk = 0 then []
    else (List.range (b.srcLen p)).map fun e =>
      natOf ((List.range z).map fun j => s.engineByte c.id (s.regionKey c.pkg src (b.soff + z * e + j)))
  | _ => []

/-- The source elements of a member that hold poison, as 1 (R411). -/
def State.collPoison (s : State) (c : Cmd) (p : Nat) : List Nat :=
  match c.kind with
  | .coll bs _ _ src _ _ _ =>
    let b := CollBlock.ofBytes bs
    if src.nchunk = 0 then []
    else (List.range (b.srcLen p)).map fun e =>
      if (List.range b.z).any fun j => s.poisonedAt (s.regionKey c.pkg src (b.soff + b.z * e + j)) 1 then 1 else 0
  | _ => []

/-- A member's destination becomes undefined (R211). -/
def State.collSpoil (s : State) (c : Cmd) : State := c.dst.foldl (fun (s : State) sp => s.spoil sp.1 sp.2) s

/-- Members' collectives that fail together (R211). -/
def State.collFail (s : State) (cs : List Cmd) (code : Nat) : State :=
  let s := cs.foldl State.collSpoil s
  { s with cmds := s.cmds.map fun c => if cs.any fun q => q.id == c.id then c.setOut code else c }

/-- A byte that a fabric command writes: when its crew was killed, it lands or not (R357). -/
def State.fabricByte (s : State) (c : Cmd) (k : Nat) (b : Byte) : Byte :=
  if c.bar.isNone ∧ Config.freeAt c.id s.free k 12 % 2 = 0 then s.byte k else b

/-- What a fabric command writes: keys with bytes, and whether a byte comes from poisoned data; and the flags of R411. -/
def State.fabricWrite (s : State) (c : Cmd) (l : List (Nat × Byte × Bool)) : State × Nat :=
  let w := (l.foldl (fun (w : Work) kb => w.byte c.id kb.1 (w.s.fabricByte c kb.1 kb.2.1) kb.2.2) (⟨s, Fold.none, []⟩ : Work)).settle
  (w.s, w.f.f ||| if l.any fun kb => kb.2.2 then 2 ^ 6 else 0)

/-- Members' blocks differ in a field that must agree (R208). -/
def Cmd.collKey (c : Cmd) : List Nat :=
  match c.kind with
  | .coll bs _ _ _ _ _ _ => let b := CollBlock.ofBytes bs; [b.op, b.alg, b.et, b.rop, b.count, b.cmpk, b.root, b.bita, b.bitb, b.bitn]
  | _ => []
def State.collDiffer (_ : State) (cs : List Cmd) : Bool := cs.any fun c => c.collKey != ((cs.head?.map Cmd.collKey).getD [])

/-- Every member has joined: the collective runs (R208 to R212); rank 0's source offset names the steps' planes (log entry 102). -/
def State.collRun (s : State) (a : AddrGroup) (cs : List Cmd) : State :=
  let block := fun (c : Cmd) => match c.kind with
    | .coll bs alg _ _ _ _ _ => (CollBlock.ofBytes bs, alg)
    | _ => (CollBlock.ofBytes [], 1)
  match cs with
  | [] => s
  | c0 :: _ =>
    let soff := (block c0).1.soff
    if a.planes.isEmpty && cs.any fun c => (block c).2 == 3 then s.collFail cs 3
    else if cs.any fun c => s.agAbsent a c.pkg then s.collFail cs 1
    else if s.collDiffer cs then s.collFail cs 7
    else
      let p := a.members.length
      let srcs := cs.map fun c => s.collSource c p
      let bads := if s.poison.isEmpty then [] else cs.map fun c => s.collPoison c p
      ((List.range cs.length).zip cs).foldl (fun (s : State) rc =>
        let c := rc.2
        let (b, alg) := block c
        let (es, f) := b.result alg a soff srcs rc.1
        let z := b.z
        let data := es.flatMap fun e => bytesOf z e
        match c.kind with
        | .coll _ _ _ src dst _ _ =>
          let clash := fun (k : Nat) => inSpans c.src k && !(b.op == 5 && src == dst && b.soff == b.doff)
          let bad := if bads.isEmpty then [] else b.spoilt alg a soff bads rc.1
          let (s, bits) := s.fabricWrite c (((List.range data.length).zip data).map fun jb =>
            (s.regionKey c.pkg dst (b.doff + jb.1), jb.2, bad.getD (jb.1 / z) false))
          let s := if (c.dst.any fun sp => clash sp.1) then s.collSpoil c else s
          s.modCmd c.id fun q => { q with kind := match q.kind with
            | .coll bs alg n x y _ _ => .coll bs alg n x y (some 0) (f.f ||| bits)
            | k => k }
        | _ => s) s

/-- The members' COLLs of a series number that have joined and have no outcome. -/
def State.collJoined (s : State) (a : AddrGroup) (seq : Nat) : List Cmd :=
  s.cmds.filter fun q => q.ctx == a.ctx && q.sent && q.agHandle == some a.handle && match q.kind with
    | .coll _ _ n _ _ none _ => n == seq
    | _ => false

/-- A step of a collective waits at most the group's TMO for its peer (R211). -/
def execCollStepTimeout (cmd : Nat) (s : State) : Outcome State Fault Refusal :=
  .next (match s.cmd? cmd with
    | none => s
    | some c =>
      match c.kind, c.agHandle.bind (s.addrGroup? c.ctx) with
      | .coll _ _ seq _ _ none _, some a =>
        if c.sent ∧ c.time + a.timeout ≤ s.time then
          let cs := s.collJoined a seq
          s.collFail cs (if s.collDiffer cs then 7 else 2)
        else s
      | _, _ => s)

/-! ### Arrival of fabric commands (R204, R353) -/

/-- A fabric command ends: its arrival and reply, unless its crew was killed; a failed collective leaves its destination undefined
(R211, R353, R357). -/
def State.fabricEnd (s : State) (c : Cmd) (code flags : Nat) : State :=
  let f := s.metError c.id ((outcomeFold code flags).and (Fold.bit 6 (flag flags 6)))
  let failed := match c.kind with
    | .coll _ _ _ _ _ _ _ => code != 0
    | _ => false
  let s := (if failed then s.collSpoil c else s).dropCmd c.id
  let note := fun (q : Nat × Nat × Option Nat) => if q.2.1 = c.id then (q.1, q.2.1, some code) else q
  let s := s.modGroup c.gid fun g => { g with colls := g.colls.map note }
  let s := match c.bar with
    | some obj => s.arrive c.ctx obj f (.engine c.id)
    | none => s
  s.cmdReply c code

/-- MST at one member: the store at home, the member's answer, and the flags of R411 (R196). -/
def State.multicast (s : State) (c : Cmd) (b : List Byte) (keys : List Nat) (member : Nat) : Nat × Nat × State :=
  if !s.reaches c.pkg member || s.tooOld c.time then (1, 0, s)
  else match s.translateSpan member c.ctx (leField b 8 8) 2 (leField b 4 2) with
    | (none, s) => (7, 0, s)
    | (some ks, s) =>
      let (s, bits) := s.fabricWrite c (ks.zip (keys.map fun k => (s.engineByte c.id k, s.poisonedAt k 1)))
      (0, bits, s)

/-- An MST's next member takes its store, or a command that has its outcome completes and arrives; a collective that every
member has joined runs. -/
def execFabricArrival (cmd : Nat) (s : State) : Outcome State Fault Refusal :=
  .next (match s.cmd? cmd with
    | none => s
    | some c =>
      match c.kind with
      | .mst b keys todo out flags =>
        let (k, s) := s.pick todo.length
        match todo[k]? with
        | none => s.fabricEnd c out flags
        | some m =>
          let (code, bits, s) :=
            if (s.addrGroup? c.ctx (leField b 0 2)).isNone then (8, 0, { s with stale := s.stale + 1 }) else s.multicast c b keys m
          s.modCmd cmd fun q => { q with sent := true, kind := .mst b keys (todo.filter fun x => x != m) (firstOut out code) (flags ||| bits) }
      | .mldr _ keys _ (some code) flags data =>
        let (s, bits) := if code = 0 then s.fabricWrite c (keys.zip data) else (s, 0)
        s.fabricEnd c code (flags ||| bits)
      | .coll _ _ _ _ _ (some code) flags => s.fabricEnd c code flags
      | .coll _ _ seq _ _ none _ =>
        match c.agHandle.bind (s.addrGroup? c.ctx) with
        | none => s
        | some a =>
          let cs := s.collPeers c a seq
          if c.sent ∧ cs.length = a.members.length then s.collRun a cs else s
      | _ => s)

/-! ### COLLW and FLUSH (R355, R356) -/

def execCollw (d a : BitVec 6) (s : State) : Outcome State Fault Refusal :=
  issue (.collw d a) true s fun s =>
    let va := s.g.s2 a.toNat
    match s.g.colls.find? fun q => q.1 == va with
    | none => xreply s 1 d 0x80000026
    | some (_, _, none) => .wait s .collw
    | some (_, _, some code) => xreply (s.acquire s.g 5) 1 d code

def execFlush (s : State) : Outcome State Fault Refusal :=
  issue .flush true s fun s => if s.flushWaits then .fence else .done s

/-! ### Packets and links (R193, R195, R202, R203, R436) -/

/-- Switches of the extended mode drop a packet older than 10 ms, an access or its answer; the access ends as with an absent target
(R195). An answer that comes too late has had its effect. -/
def execFabricPacketExpiry (pkt : Nat) (s : State) : Outcome State Fault Refusal :=
  .next (match s.net.find? fun p => p.id == pkt && p.key.isNone with
    | some p => if s.tooOld p.sent then s.packetLost p else s
    | none => match s.resp.find? fun r => r.pkt.id == pkt && r.pkt.key.isNone && r.code != 1 with
      | none => s
      | some r =>
        if !s.tooOld r.sent then s else
        { s.packetFault r.pkt 4 1 r.pkt.dst with
          resp := (s.resp.filter fun q => q.pkt.id != pkt) ++ [⟨r.pkt, 1, [], 0, s.time⟩] })

/-- A package can no longer be reached or serves no more: accesses under way to it or from it end ABSENT, tuples and collectives of
its groups too (R202, R211, R426, R436). -/
def State.endsAbsent (s : State) (pkg : Nat) : State :=
  let touches := fun (p : Packet) => p.key.isNone && (p.dst == pkg || p.src == pkg)
  let s := (s.net.filter touches).foldl State.packetLost s
  let lost := s.resp.filter fun r => r.code != 1 && touches r.pkt
  let s := lost.foldl (fun (s : State) r =>
    { s.packetFault r.pkt 4 1 r.pkt.dst with
      resp := (s.resp.filter fun q => q.pkt.id != r.pkt.id) ++ [⟨r.pkt, 1, [], 0, s.time⟩] }) s
  let hit := s.ags.filter fun a => a.freedAt.isNone && a.members.contains pkg
  let s := s.closeTuples 1 fun t => hit.any fun a => a.ctx == t.ctx && a.id == t.grp
  let cs := s.cmds.filter fun c => c.sent && hit.any fun a => a.ctx == c.ctx && c.agHandle == some a.handle && match c.kind with
    | .coll _ _ _ _ _ none _ => true
    | _ => false
  s.collFail cs 1

/-- A package becomes absent (R202). -/
def State.becomesAbsent (s : State) (pkg : Nat) : State :=
  (s.modPkg pkg fun p => { p with reachable := false }).endsAbsent pkg

/-- The offsets of a collective's in-switch steps: 64 elements each (R209). -/
def CollBlock.stepOffs (b : CollBlock) (p : Nat) : List Nat :=
  (List.range (ceilDiv (b.srcLen p) 64)).map fun n => b.soff + 64 * n * b.z

/-- A collective meets the loss of a plane's reduction path (R203): one that waits for members when its first step travels there, one
that every member has joined where some step does, unless that step was over. -/
def State.collLoses (s : State) (a : AddrGroup) (plane : Nat) (cs : List Cmd) : Bool × State :=
  match cs with
  | [] => (false, s)
  | c :: _ => match c.kind with
    | .coll bs 3 _ _ _ _ _ =>
      let b := CollBlock.ofBytes bs
      let offs := b.stepOffs a.members.length
      if cs.length < a.members.length then (a.planeAt b.soff == plane, s)
      else if offs.any fun o => a.planeAt o == plane then let (coin, s) := s.pick 2; (coin == 1, s)
      else (false, s)
    | _ => (false, s)

/-- A plane's reduction path fails for some groups: their open tuples and in-switch collectives on it end REROUTE (R203). -/
def State.pathFails (s : State) (plane : Nat) (p : AddrGroup → Bool) : State :=
  let hit := s.ags.filter p
  let s := s.closeTuples 3 fun t => t.plane == plane && hit.any fun a => a.ctx == t.ctx && a.id == t.grp
  let s := hit.foldl (fun (s : State) a =>
    let open_ := s.cmds.filterMap fun c => if c.ctx = a.ctx ∧ c.agHandle = some a.handle then c.openSwitch.map Prod.fst else none
    open_.eraseDups.foldl (fun (s : State) seq =>
      let cs := s.collJoined a seq
      let (hurt, s) := s.collLoses a plane cs
      if hurt then s.collFail cs 3 else s) s) s
  { s with ags := s.ags.map fun a => if p a ∧ !a.failed.contains plane then { a with failed := plane :: a.failed } else a }

/-- On a plane, a package's port fails (what = 0), or its leaf switch (1): routes go over the other planes. A package left without
any plane is absent (R202); for a member that stays reachable the reduction path there fails (R193, R203). With what = 2 the
reduction switch that the plane assigned to the open groups can no longer be reached from the package's leaf: their path there
fails, and later groups take another switch (R203). -/
def execLinkFailure (pkg plane what : Nat) (s : State) : Outcome State Fault Refusal :=
  .next (
    if Config.planes ≤ plane ∨ (s.pkg? pkg).isNone ∨ 2 < what then s else
    let leaf := Config.leafOf plane
    let lost := if what = 0 then [pkg] else (s.pkgs.filter fun p => leaf p.num == leaf pkg).map Package.num
    if what = 2 then s.pathFails plane fun a => a.freedAt.isNone && lost.any fun m => a.members.contains m
    else
      let mark := fun (p : Package) =>
        if lost.contains p.num ∧ !p.failedPlanes.contains plane then { p with failedPlanes := plane :: p.failedPlanes } else p
      let s := { s with pkgs := s.pkgs.map mark }
      let gone := fun (m : Nat) => decide (Config.planes ≤ (s.pkg m).failedPlanes.length)
      let s := s.pathFails plane fun a => a.freedAt.isNone && lost.any fun m => a.members.contains m && (what == 1 || !gone m)
      (lost.filter fun m => (s.pkg m).reachable && gone m).foldl State.becomesAbsent s)

/-- A plane reaches a package again (R193). -/
def execPackageReachable (pkg plane : Nat) (s : State) : Outcome State Fault Refusal :=
  .next (if plane < Config.planes then
    s.modPkg pkg fun p => { p with reachable := true, failedPlanes := p.failedPlanes.filter fun q => q != plane } else s)

end Sys2Proof.Machine
end

