-- ==== Sys2Proof/Machine/Stream.lean ====
section
/-! DEFINITION. Vats and stream engines (R135 to R140, R325 to R330), time commands and signals (R331, R332), and sleep. -/

namespace Sys2Proof.Machine

open Host (Outcome)

/-! ### Level-tagged references and vat headers (R313, R135) -/

def refLevel (r : Nat) : Nat := r / 2 ^ 30 % 4
def refOffset (r : Nat) : Nat := r % 2 ^ 30

/-- A header field and its writing: counters and heads. -/
def State.vatField (s : State) (vat off len : Nat) : Nat := s.num (vat + off) len
def State.setVatField (s : State) (vat off len x : Nat) : State := s.setNum (vat + off) len x

def State.vatCtl (s : State) (vat : Nat) : Nat := s.vatField vat 0 4
/-- The number of slots, 2^LOGN. -/
def State.vatSlots (s : State) (vat : Nat) : Nat := 2 ^ (s.vatCtl vat % 16)
def vatPoisoned (ctl : Nat) : Bool := flag ctl 7
def vatEnded (ctl : Nat) : Bool := flag ctl 6
def vatStream (ctl : Nat) : Bool := flag ctl 5
def vatDrain (ctl : Nat) : Bool := flag ctl 4

/-- CTL with one of its bits set or cleared. -/
def setCtlBit (ctl i : Nat) (b : Bool) : Nat := (ctl &&& (2 ^ 32 - 1 - 2 ^ i)) + if b then 2 ^ i else 0

/-- Bytes of a slot, and the window offset of one. -/
def State.vatSlotBytes (s : State) (vat : Nat) : Nat := s.vatField vat 4 4 * 256
def State.vatSlotAt (s : State) (vat slot : Nat) : Nat := s.vatField vat 8 4 + slot * s.vatSlotBytes vat

/-- The vat's domain, of its memory (R327). -/
def vatDomain (vat : Nat) : Nat := keyKind vat

/-- A 64-byte structure at a reference, in the CORE or CLU window: its tile and key, or the refusal, where `bad` says that another
operand refuses with FIELD (R315, R325). A poisoned one is malformed (R411). -/
def State.refStruct (s : State) (lv off : Nat) (bad : Bool) : (Nat ⊕ (Tile × Nat)) × State :=
  if lv = 0 ∨ 3 ≤ lv ∨ off % 64 ≠ 0 ∨ bad then (.inl 0x80000010, s)
  else match s.windowTile s.g lv with
    | none => (.inl 0x8000001D, s)
    | some t =>
      if t.memb < off + 64 ∨ s.guardHit (t.home + off) off t.memb 64 then (.inl 0x8000001D, s)
      else if s.poisonedAt (t.home + off) 64 then
        (.inl 0x80000010, s.eccCtl s.g.pkg s.g.ctx (some s.g) (15 * 2 ^ 60 + lv * 2 ^ 57 + off))
      else (.inr (t, t.home + off), s)

/-- The frame of a vat command (R314, R325): every earlier access first, then its operands, then the vat named. -/
def vatOp (s : State) (y : BitVec 1) (d : BitVec 6) (ref : Nat) (bad : Bool) (body : State → Tile → Nat → Res) : Res :=
  if s.relWaits 1 then .hold
  else match s.refStruct (refLevel ref) (refOffset ref) bad with
    | (.inl c, s) => xreply s y d c
    | (.inr (t, vat), s) => body s t vat

def State.vatDev (s : State) (vat : Nat) : VatDev := (s.vats.find? fun v => v.vat == vat).getD ⟨vat, []⟩
def State.setWaiters (s : State) (vat : Nat) (ws : List (Nat × Nat × Nat)) : State :=
  { s with vats := ⟨vat, ws⟩ :: s.vats.filter fun v => v.vat != vat }

/-! ### VINIT, VTAKE, VPUT, VQRY (R136, R137, R326 to R328) -/

/-- The VINIT transition, with CTL, SLOTB and DATA (R136). -/
def State.vatInit (s : State) (vat ctl slotb data : Nat) : State :=
  let n := 2 ^ (ctl % 16)
  let hdr := bytesOf 4 ctl ++ bytesOf 4 slotb ++ bytesOf 4 data ++ bytesOf 4 0 ++
    bytesOf 2 (if vatDrain ctl then 0 else n) ++ bytesOf 2 (if vatDrain ctl then n else 0) ++ List.replicate 44 0
  (s.setBytes vat hdr).setWaiters vat []

def execVinit (y : BitVec 1) (d a b : BitVec 6) (s : State) : Outcome State Fault Refusal :=
  issue (.vinit y d a b) true s fun s =>
    let x := (s.g.sreg b.toNat).toNat
    let data := (s.g.sreg (b.toNat + 1)).toNat
    let ref := (s.g.sreg a.toNat).toNat
    let slotb := x / 2 ^ 16
    let logn := x % 16
    let off := refOffset ref
    let last := data + 2 ^ logn * (slotb * 256)
    vatOp s y d ref (decide (slotb = 0 ∨ 16384 < slotb ∨ field x 15 5 ≠ 0 ∨ logn = 0 ∨ 8 < logn ∨ data % 256 ≠ 0 ∨
        (data < off + 64 ∧ off < last))) fun s t vat =>
      if t.memb < last then xreply s y d 0x8000001D
      else if vatStream (s.vatCtl vat) || s.vatField vat 0x16 2 != 0 then xreply s y d 0x80000013
      else xreply (s.vatInit vat (x % 32) slotb data) y d 0

/-- The next slot of the ring handed to a group: GHEAD, and HCNT + 1. -/
def State.vatHand (s : State) (vat : Nat) : Nat × State :=
  let slot := s.vatField vat 0x0D 1
  (slot, (s.setVatField vat 0x0D 1 ((slot + 1) % s.vatSlots vat)).setVatField vat 0x14 2 (s.vatField vat 0x14 2 + 1))

/-- A group that took a slot of a fill vat has acquired (R327). -/
def State.vatAcquire (s : State) (g : Group) (vat : Nat) : State :=
  if vatDrain (s.vatCtl vat) then s else s.acquire g (vatDomain vat)

def execVtake (d a : BitVec 6) (s : State) : Outcome State Fault Refusal :=
  issue (.vtake d a) true s fun s =>
    vatOp s 1 d (s.g.sreg a.toNat).toNat false fun s _ vat =>
      let ctl := s.vatCtl vat
      let gcnt := s.vatField vat 0x12 2
      if vatPoisoned ctl then xreply s 1 d 0x80000002
      else if gcnt ≠ 0 then
        let (slot, s) := (s.setVatField vat 0x12 2 (gcnt - 1)).vatHand vat
        xreply (s.vatAcquire s.g vat) 1 d slot
      else if vatEnded ctl then xreply s 1 d 0x80000001
      else
        let s := s.setVatField vat 0x16 2 (s.vatField vat 0x16 2 + 1)
        .wait (s.setWaiters vat ((s.vatDev vat).waiters ++ [(s.g.id, s.g.cur, d.toNat)])) (.vtake vat d.toNat)

/-- Slot s is held (R327). -/
def State.vatHeld (s : State) (vat slot : Nat) : Bool :=
  let n := s.vatSlots vat
  decide (slot < n) && decide ((slot + n - s.vatField vat 0x0E 1 % n) % n < s.vatField vat 0x14 2) &&
  !flag (s.vatField vat 0x20 32) slot

/-- Slots pass back to the engine side in ring order (R136). -/
def State.vatPass (s : State) (vat : Nat) : Nat → State
  | 0 => s
  | k + 1 =>
    let p := s.vatField vat 0x0E 1
    let map := s.vatField vat 0x20 32
    if flag map p then
      let s := (s.setVatField vat 0x20 32 (map - 2 ^ p)).setVatField vat 0x0E 1 ((p + 1) % s.vatSlots vat)
      let s := s.setVatField vat 0x14 2 (s.vatField vat 0x14 2 - 1)
      (s.setVatField vat 0x10 2 (s.vatField vat 0x10 2 + 1)).vatPass vat k
    else s

def execVput (y : BitVec 1) (d a b : BitVec 6) (s : State) : Outcome State Fault Refusal :=
  issue (.vput y d a b) true s fun s =>
    let x := (s.g.sreg b.toNat).toNat
    let bad := decide (x / 2 ^ 8 ≠ 0)
    if s.relWaits 1 then .hold
    else match s.refStruct (refLevel (s.g.sreg a.toNat).toNat) (refOffset (s.g.sreg a.toNat).toNat) false with
    | (.inl c, s) => xreply s y d (if bad then 0x80000010 else c)
    | (.inr (_, vat), s) =>
      if vatPoisoned (s.vatCtl vat) then xreply s y d 0x80000002
      else if bad then xreply s y d 0x80000010
      else if !s.vatHeld vat x then xreply s y d 0x8000001E
      else
        let s := s.setVatField vat 0x20 32 (s.vatField vat 0x20 32 + 2 ^ x)
        xreply (s.vatPass vat 256) y d 0

def execVqry (d a b : BitVec 6) (s : State) : Outcome State Fault Refusal :=
  issue (.vqry d a b) true s fun s =>
    let x := (s.g.sreg b.toNat).toNat
    vatOp s 1 d (s.g.sreg a.toNat).toNat (decide (15 < x)) fun s _ vat => xreply s 1 d (s.vatField vat (4 * x) 4)

/-! ### Stream programs (R138, R139, R329) -/

def spDim (p : List Byte) (l : Nat) : Nat := field (leField p 2 2) (3 * l + 2) (3 * l)
def spOrg (p : List Byte) (j : Nat) : Int := signExt (leField p (8 + 4 * j) 4) 32
def spBox (p : List Byte) (j : Nat) : Nat := leField p (0x1C + 2 * j) 2
def spCnt (p : List Byte) (l : Nat) : Nat := leField p (0x28 + 2 * l) 2
def spStep (p : List Byte) (l : Nat) : Int := signExt (leField p (0x30 + 4 * l) 4) 32
/-- Slots of the whole stream. -/
def spTotal (p : List Byte) : Nat := spCnt p 0 * spCnt p 1 * spCnt p 2 * spCnt p 3
/-- Digit l of slot number n in mixed radix, loop 0 fastest (R139). -/
def spDigit (p : List Byte) (n l : Nat) : Nat :=
  n / ((List.range l).foldl (fun a m => a * spCnt p m) 1) % spCnt p l
/-- The box origin of slot n in dimension j. -/
def spOrigin (p : List Byte) (n j : Nat) : Int :=
  [0, 1, 2, 3].foldl (fun a l => if spDim p l = j then a + (spDigit p n l : Int) * spStep p l else a) (spOrg p j)
/-- The elements of slot n's box, in box order. -/
def spPoints (p : List Byte) (l : Layout) (n : Nat) : List (List Int) :=
  (boxPoints ((List.range l.ndim).map (spBox p))).map fun e => coordsOf (spOrigin p n) (fun _ => 0) (fun _ => 0) e

/-- Bytes of a box of k elements packed one after another, each plane of NF by itself (R97, R139). -/
def Layout.packedBytes (l : Layout) (k : Nat) : Nat := l.parts.foldl (fun a w => a + ceilDiv (k * w) 8) 0

/-- Element k of a packed box; none where an NF element has several planes, whose places in a slot are not stated. -/
def Layout.packed (l : Layout) (base k : Nat) : Option (List Part) :=
  match l.parts with
  | [w] => some (if l.et = 16 then [⟨base + k * w / 8, k * w % 8, w, 0⟩]
                 else (List.range (w / 8)).map fun j => ⟨base + k * (w / 8) + j, 0, 8, 8 * j⟩)
  | _ => none

/-- The domain of a layout's memory (R124). -/
def Layout.dom (l : Layout) : Nat := if l.loc = 0 then 4 else l.loc

/-- The stream engines of a core, or of a cluster: two each (R138). -/
def streamEngine (t : Tile) : Nat := engineId 8 t.pkg (if t.dom = 1 then t.core else 2 ^ 11 + cluOf t.core)

/-- The lowest refusal of a stream start, 0 when it is accepted (R138, R315, R329). -/
def State.streamCode (s : State) (t : Tile) (vat : Option Nat) (p : List Byte) (h : Option Handle) (drain : Bool)
    (bar : Option Nat) (barRef : Nat) : Nat :=
  let nd := (h.map Handle.ndim).getD 8
  let ctl := (vat.map s.vatCtl).getD 0
  if leField p 2 2 / 2 ^ 12 != 0 || leField p 0x26 2 != 0 || ([0, 1, 2, 3].any fun l => decide (nd ≤ spDim p l)) ||
      leField p 4 4 % 64 != 0 || refLevel barRef == 0 then 0x80000010
  else if vat.isSome && (vatDrain ctl != drain || vatStream ctl) then 0x80000013
  else if (h.map fun h => !(h.layout.dom ≤ t.dom + 1 && t.dom ≤ h.layout.dom + 1)).getD false then 0x8000001A
  else if bar.isNone then 0x8000001C
  else match vat with
    | none => 0x8000001D
    | some v =>
      if ([0, 1, 2, 3].any fun l => spCnt p l == 0) ||
        (h.map fun h => decide (s.vatSlotBytes v < h.layout.packedBytes (spPoints p h.layout 0).length)).getD false then 0x80000021
      else 0

/-- The barrier object of a level-tagged reference in a group's own tile (R329). -/
def State.tileBarrier (s : State) (g : Group) (ref : Nat) : Option Nat :=
  (s.tileOf g).bind fun own => if own.dom = refLevel ref then s.ownBarrier g.ctx own (refOffset ref) else none

/-- SFILL and SDRAIN: refused, held while both engines run, or started (R138, R329). -/
def streamOp (s : State) (y : BitVec 1) (d a b : BitVec 6) (drain : Bool) : Res :=
  let g := s.g
  let ref := (g.sreg a.toNat).toNat
  let barRef := (g.sreg b.toNat).toNat
  if s.relWaits 1 then .hold
  else match s.refStruct (refLevel ref) (refOffset ref) (refLevel barRef == 0) with
    | (.inl c, s) => xreply s y d (if c = 0x8000001D ∧ (s.tileBarrier g barRef).isNone then 0x8000001C else c)
    | (.inr (t, key), s) =>
      let p := s.bytes key 64
      let (v, s) := s.refStruct (refLevel ref) (leField p 4 4 / 64 * 64) false
      let vat := match v with
        | .inr (_, v) => some v
        | .inl _ => none
      let h := s.handle? g.pkg g.ctx (leField p 0 2)
      let bar := s.tileBarrier g barRef
      match s.streamCode t vat p h drain bar barRef, vat, bar with
      | 0, some v, some obj =>
        let e := streamEngine t
        if 2 ≤ (s.streams.filter fun x => x.engine == e).length then .fence
        else
          let (id, s) := s.fresh
          let x : Stream :=
            { id := id, engine := e, pkg := g.pkg, ctx := g.ctx, crew := g.crew, num := g.num, pc := g.pc, tile := g.tile.getD 0, wtile := t.id,
              drain := drain, prog := p, progRef := ref, vat := v, bar := obj, barRef := barRef, hnd := h, n := 0,
              fold := Fold.none, stopping := false, killed := false }
          xreply ({ s with streams := s.streams ++ [x] }.setVatField v 0 4 (setCtlBit (s.vatCtl v) 5 true)) y d 0
      | c, _, _ => xreply s y d c

def execSfill (y : BitVec 1) (d a b : BitVec 6) (s : State) : Outcome State Fault Refusal :=
  issue (.sfill y d a b) true s fun s => streamOp s y d a b false

def execSdrain (y : BitVec 1) (d a b : BitVec 6) (s : State) : Outcome State Fault Refusal :=
  issue (.sdrain y d a b) true s fun s => streamOp s y d a b true

def State.modStream (s : State) (id : Nat) (f : Stream → Stream) : State :=
  { s with streams := s.streams.map fun x => if x.id = id then f x else x }

def execSstop (y : BitVec 1) (d a : BitVec 6) (s : State) : Outcome State Fault Refusal :=
  issue (.sstop y d a) true s fun s =>
    vatOp s y d (s.g.sreg a.toNat).toNat false fun s _ vat =>
      if !vatStream (s.vatCtl vat) then xreply s y d 0x8000001F
      else
        let stop := fun (x : Stream) => if x.vat = vat then { x with stopping := true } else x
        xreply { s with streams := s.streams.map stop } y d 0

/-! ### A stream's slots (R136, R139, R140) -/

/-- A waiting VTAKE ends with a reply; one that gets a slot of a fill vat has acquired (R137, R327). -/
def State.vatAnswer (s : State) (vat : Nat) (w : Nat × Nat × Nat) (x : Nat) (slot : Bool) : State :=
  match s.group? w.1 with
  | none => s
  | some g =>
    let s := if slot then s.vatAcquire g vat else s
    s.modGroup w.1 fun g => (g.setS 0 w.2.2 (BitVec.ofNat 32 x)).wake w.2.1

/-- Every waiter ends with a reply that is no slot. -/
def State.vatAnswerAll (s : State) (vat x : Nat) : State :=
  let ws := (s.vatDev vat).waiters
  let s := (s.setWaiters vat []).setVatField vat 0x16 2 0
  ws.foldl (fun (s : State) w => s.vatAnswer vat w x false) s

/-- The engine finishes slot EHEAD (R136). -/
def State.vatFinish (s : State) (vat : Nat) : State :=
  let s := s.setVatField vat 0x0C 1 ((s.vatField vat 0x0C 1 + 1) % s.vatSlots vat)
  let s := s.setVatField vat 0x10 2 (s.vatField vat 0x10 2 - 1)
  match (s.vatDev vat).waiters with
  | [] => s.setVatField vat 0x12 2 (s.vatField vat 0x12 2 + 1)
  | w :: rest =>
    let (slot, s) := (s.setWaiters vat rest).vatHand vat
    (s.setVatField vat 0x16 2 (s.vatField vat 0x16 2 - 1)).vatAnswer vat w slot true

/-- The tile whose ancestors a stream's tensor is sought among: the one that started it, or, once that has gone, the vat's. -/
def State.streamTile (s : State) (x : Stream) : Nat := if (s.tile? x.tile).isSome then x.tile else x.wtile

/-- The slot that a stream is at is read out or written: the state after it, its flags, and the vat code of a fault met: 2
ECCU, 3 GUARD on a write (R140). A fault leaves what the slot would have written undefined. -/
def State.slotWork (s : State) (x : Stream) (h : Handle) (seat win : Seat) : State × Fold × Option Nat :=
  let l := h.layout
  let v := s.version (some (s.streamTile x)) h x.drain
  let base := s.vatSlotAt x.vat (s.vatField x.vat 0x0C 1)
  let pts := spPoints x.prog l x.n
  let items := ((List.range pts.length).zip pts).map fun kp => (l.packed base kp.1, kp.2)
  let target := fun (it : Option (List Part) × List Int) =>
    if x.drain then (if l.inside (it.2.take l.ndim) then l.element v ((it.2.take l.ndim).map Int.toNat) else []) else it.1.getD []
  let tseat := if x.drain then seat else win
  let guard := items.any fun it => (target it).any fun p => (s.seatKey tseat p.off).isNone
  let spoilAll := fun (s : State) =>
    items.foldl (fun (s : State) it => (target it).foldl (fun (s : State) p =>
      match s.seatKey tseat p.off with
      | some k => s.spoil k 1
      | none => s) s) s
  let s0 := if x.drain then s else match win with
    | .window home _ _ => s.spoil (home + base) (s.vatSlotBytes x.vat)
    | .region _ _ => s
  let w := items.foldl (fun (w : Work) it =>
    if x.drain then
      let (code, bad) := match it.1 with
        | some ps =>
          -- a guard byte of the slot reads as the pad element (R114)
          ((readParts ps l.padCode fun off => (w.s.seatKey win off).map fun k => (w.s.byte k).toNat).1,
            ps.any fun p => ((w.s.seatKey win p.off).map fun k => w.s.poisonedAt k 1).getD false)
        | none => ((Config.freeReg w.s.free x.n).toNat, false)
      let hit := ((it.1.getD []).any fun p => (w.s.seatKey win p.off).isNone)
      let w := w.meet x.id ((Fold.bit 0 hit).and (Fold.bit 6 bad)) (w.s.seatHit win ((it.1.getD []).map Part.off))
      let w := { w with s := if it.1.isNone then { w.s with free := w.s.free + 1 } else w.s }
      w.write x.id seat l v it.2 code bad
    else
      let r := s.engineRead x.id seat l v it.2
      (w.took x.id r).parts x.id win (it.1.getD []) r.code r.bad) ⟨s0, Fold.none, []⟩
  let w := w.settle
  if flag w.f.f 6 then (spoilAll s0, w.f, some 2)
  else if guard then (spoilAll s0, w.f, some 3)
  else (w.s, w.f, none)

/-- What a stream comes to next: the state and flags after its slot, or the fault that stops it (R140). -/
def State.streamTry (s : State) (x : Stream) : State × Fold × Option Nat :=
  let win := (s.tile? x.wtile).map fun t => Seat.window t.home t.memb t.dom
  match x.hnd, win with
  | some h, some win =>
    match s.seat h (some (s.streamTile x)) with
    | some seat => if s.poisonedAt x.vat 64 then (s, Fold.none, some 2) else s.slotWork x h seat win
    | none => (s, Fold.none, some 1)
  | _, _ => (s, Fold.none, some 1)

/-- A stream leaves its engine. -/
def State.dropStream (s : State) (id : Nat) : State := { s with streams := s.streams.filter fun x => x.id != id, corrected := s.corrected.filter fun c => c != id }.purgeHandles

/-- The arrival of a stream, on its barrier object; an object whose tile has gone takes it as long as no later tile has taken that
memory (log entry 57). -/
def State.streamArrives (s : State) (x : Stream) (f : Fold) : State :=
  let taken := fun (t : Tile) => decide (x.id < t.id) && decide (1 ≤ t.dom) && decide (t.dom < 4) && decide (t.home ≤ x.bar) && decide (x.bar < t.home + t.memb)
  if (s.tile? x.tile).isNone && s.tiles.any taken then s else s.arrive x.ctx x.bar (s.metError x.id f) (.engine x.id)

/-- A stream has ended: END on a fill vat, which ends what waits there, STRM clear, the arrival with the flags gathered (R139). -/
def State.streamEnd (s : State) (x : Stream) : State :=
  let ctl := setCtlBit (s.vatCtl x.vat) 5 false
  let s := (s.dropStream x.id).setVatField x.vat 0 4 (if x.drain then ctl else setCtlBit ctl 6 true)
  let s := if x.drain then s else s.vatAnswerAll x.vat 0x80000001
  s.streamArrives x x.fold

/-- The vat code and the first error code of a stream fault (R140). For the kill of the starter R330 names 0x0403, whose low byte is
the vat code then, where R140 has 0x04 and 0x0504: which of the two a device writes is open (log entry 57). -/
def streamCodes (code : Nat) : Nat × Nat :=
  if code = 4 ∧ Config.killedBy330 then (3, 0x0403) else (code, 0x0500 + code)

/-- A stream fault poisons the vat (R140); whether it counts as an error is open (log entry 1). -/
def State.streamFails (s : State) (x : Stream) (code : Nat) (f : Fold) : State :=
  let (k, s) := s.pick 2
  let (vcode, first) := streamCodes code
  let own := match code with | 1 => 2 ^ 7 | 2 => 2 ^ 6 | 3 => 1 | _ => 0
  let s := s.dropStream x.id
  if (s.tile? x.wtile).isNone then s else
  let ctl := setCtlBit (setCtlBit (s.vatCtl x.vat) 5 false) 7 true
  let s := (s.setVatField x.vat 0 4 ctl).setVatField x.vat 1 1 vcode
  let s := s.vatAnswerAll x.vat 0x80000002
  s.streamArrives x ((x.fold.and f).and ⟨2 ^ 8 ||| own, k, first⟩)

/-- A stream finishes a slot; the last one, or the one in progress when it is stopped, ends it (R139). A stopped one that has no
slot in progress ends here too. -/
def execStreamSlotDone (stream : Nat) (s : State) : Outcome State Fault Refusal :=
  .next (match s.streams.find? fun x => x.id == stream with
    | none => s
    | some x =>
      let ecnt := s.vatField x.vat 0x10 2
      if (s.tile? x.wtile).isNone then s
      else
        let (coin, s) := s.pick 2
        if x.stopping && !x.killed && (ecnt == 0 || coin == 0) then s.streamEnd x
        else if ecnt = 0 then s
        else match s.streamTry x with
          | (_, _, some _) => s
          | (s, f, none) =>
            let x := { x with n := x.n + 1, fold := x.fold.and f }
            let s := (s.modStream x.id fun _ => x).vatFinish x.vat
            if x.killed then s.streamFails x 4 Fold.none
            else if x.stopping || decide (spTotal x.prog ≤ x.n) then s.streamEnd x
            else s)

/-- A stream meets a fault: a handle violation, an uncorrectable error, a guard hit on a write, or the kill of its crew. -/
def execStreamFault (stream : Nat) (s : State) : Outcome State Fault Refusal :=
  .next (match s.streams.find? fun x => x.id == stream with
    | none => s
    | some x =>
      if x.killed ∨ (s.tile? x.wtile).isNone then s.streamFails x 4 Fold.none
      else if x.hnd.isSome && s.vatField x.vat 0x10 2 == 0 then s
      else match s.streamTry x with
        | (t, f, some c) => t.streamFails x c f
        | (_, _, none) => s)

/-! ### Time (R331, R332, R244) -/

def execTimeq (d a : BitVec 6) (s : State) : Outcome State Fault Refusal :=
  issue (.timeq d a) true s fun s =>
    let p := s.pkg s.g.pkg
    if s.earlier then .hold else
    match (s.g.sreg a.toNat).toNat with
    | 0 => xreply s 1 d p.stag
    | 1 => xreply { s with g := { s.g with sample := some s.time } } 1 d (s.time % 2 ^ 32)
    | 2 => xreply s 1 d (s.g.sample.getD 0 / 2 ^ 32 % 2 ^ 32)
    | 3 => xreply s 1 d ((if p.sync then 1 else 0) + if p.skewHeld then 2 else 0)
    | _ => xreply s 1 d 0x80000010

/-- The barrier object of a level-tagged reference, from a tile. -/
def State.refBarrier (s : State) (ctx : Nat) (tile : Option Nat) (ref : Nat) : Option Nat :=
  if refLevel ref = 0 then none else
  (s.ancestor (refLevel ref) 9 tile).bind fun t => s.ownBarrier ctx t (refOffset ref)

def execTsig (y : BitVec 1) (d a b : BitVec 6) (s : State) : Outcome State Fault Refusal :=
  issue (.tsig y d a b) true s fun s =>
    let g := s.g
    let t := g.s2 a.toNat
    let ref := (g.sreg b.toNat).toNat
    if s.earlier then .hold
    else if refLevel ref = 0 then xreply s y d 0x80000010
    else
      let c := s.crew? g.crew
      if 16 ≤ ((c.map Crew.tsigs).getD []).length then xreply s y d 0x80000013
      else match s.refBarrier g.ctx g.tile ref with
        | none => xreply s y d g.noBarrier
        | some obj =>
          if t ≤ s.time then xreply (s.arrive g.ctx obj Fold.none (.engine 0)) y d 0
          else xreply (s.modCrew g.crew fun c => { c with tsigs := c.tsigs ++ [⟨t, ref, false⟩] }) y d 0

/-- The named time of a TSIG has come: its arrival, with bit [10] when the time passed while the crew was saved (R332). -/
def execTsigFire (crew n : Nat) (s : State) : Outcome State Fault Refusal :=
  .next (match s.crew? crew with
    | none => s
    | some c =>
      match c.tsigs[n]? with
      | none => s
      | some t =>
        if s.time < t.time then s else
        let s := s.modCrew crew fun c => { c with tsigs := c.tsigs.eraseIdx n }
        match s.refBarrier c.ctx c.tile t.ref with
        | some obj => s.arrive c.ctx obj (Fold.bit 10 t.late) (.engine 0)
        | none => s)

/-- The pod time that a SLEEP names has come (R244). -/
def execSleepWake (gid split : Nat) (s : State) : Outcome State Fault Refusal :=
  .next (s.modGroup gid fun g => match (g.split? split).map Split.wait with
    | some (.sleep t) => if t ≤ s.time ∧ g.stop.isNone then g.wake split else g
    | _ => g)

/-- Pod time of a package is synchronised or not, its skew bound held or not (R331). -/
def execPodTimeSyncChange (pkg : Nat) (sync skew : Bool) (s : State) : Outcome State Fault Refusal :=
  .next (s.modPkg pkg fun p => { p with sync := sync, skewHeld := skew })

end Sys2Proof.Machine
end

