-- ==== Sys2Proof/Machine/Children.lean ====
section
/-! DEFINITION. Children started, relaunched and completed (R24, R26 to R29, R409); the kill of crews (R192, R321, R324, R330, R332, R357, R408). -/

namespace Sys2Proof.Machine

open Host (Outcome)

/-! ### Start (R26, R27, R129) -/

/-- The down-copies under way that hold a part for child k of a batch (R129). -/
def State.heldFor (s : State) (tile batch k : Nat) : List Nat :=
  (s.cmds.filter fun c => c.tile == some tile && c.batch == batch && match c.kind with
    | .copy r n _ => r.down && !r.bad && ((cdKids r.desc).drop n).contains k
    | _ => false).map Cmd.id

/-- The versions bound to a child: handle, version, whether by its write set (R32). -/
def Child.bound (c : Child) : List (Nat × Nat × Bool) :=
  (c.reads.map fun r => (r.handle, r.ver, false)) ++ (c.write.toList.map fun w => (w.handle, w.ver, true))

/-- Down-copies recorded for a child are written again, in order, from the parent's memory as it stands (R129). -/
def State.replay (s : State) (t : Tile) (up : Level) (k : Nat) (kid : Tile) (rs : List CopyRec) : State :=
  (rs.foldl (fun (w : Work) r => (w.deliver 0 t up k kid r).settle) (⟨s, Fold.none, []⟩ : Work)).s

/-- Child k is admitted, with what it had delivered before a relaunch; none while a resource is not free. Its groups start
when no part is held for it. -/
def State.startKidAt (s : State) (tr : Tree) (t : Tile) (c : Child) (again : Bool) (pc : Nat × Nat) : Option State :=
    let reln := if again then c.reln + 1 else c.reln
    (s.admitTile tr (t.depth + 1) c.idx reln pc.1 pc.2 (some t) c.bound).map fun (ts : Nat × State) =>
      let tid := ts.1
      let s := ts.2
      let s := match again, s.tile? tid with
        | true, some kid => s.replay t (tr.level t.depth) c.idx kid c.copies
        | _, _ => s
      let s := ((s.tile? tid).map fun kid => s.coverKid t c.idx kid).getD s
      let hold := s.heldFor t.id ((t.batch.map Batch.id).getD 0) c.idx
      let s := s.modKid t.id c.idx fun c => { c with st := .running tid, started := true, reln := reln, hold := hold }
      let s := s.modBatch t.id fun b => { b with last := some s.time }
      if hold.isEmpty then s.startGroups tid else s

/-- The same on the core that the policy gives (R27). -/
def State.startKid (s : State) (tr : Tree) (t : Tile) (c : Child) (again : Bool) : Option State :=
  (s.policyCore tr t c.idx).bind fun pc => s.startKidAt tr t c again pc

/-- Some children start together, or none does. -/
def State.startAll (s : State) (tr : Tree) (tid : Nat) (again : Bool) : List Child → Option State
  | [] => some s
  | c :: rest =>
    match s.tile? tid with
    | none => none
    | some t => (s.startKid tr t c again).bind fun s => s.startAll tr tid again rest

/-- The port map binds the children of a port set that have just been admitted (R182). -/
def State.bindMap (s : State) (tid : Nat) : State :=
  match (s.tile? tid).bind Tile.batch with
  | none => s
  | some b =>
    let group := fun (s : State) (k g : Nat) => (b.kid? k).bind fun c => match c.st with
      | .running kt => (s.tile? kt).bind fun t => (s.groupsOf t.crew).find? fun x => x.num == g && x.tile == some kt
      | _ => none
    b.bind.foldl (fun (s : State) e =>
      (bitsSet 16 b.gmask).foldl (fun (s : State) g =>
        match group s e.1 g, group s e.2.2 g with
        | some x, some y => if (x.link? e.2.1).isSome ∨ (y.link? (opposite e.2.1)).isSome then s
                            else s.bindLink x.id y.id e.2.1 0 false
        | _, _ => s) s) s

/-- The entry's children are a port set (R27). -/
def Tree.portSet (tr : Tree) (depth : Nat) : Bool := (tr.level depth).place == 3 && (tr.level depth).dom != 0 &&
  !((tr.level depth).dom == 4 && depth != 0 && (tr.level (depth - 1)).dom == 5)

/-- The conditions of R26 other than resources, with the window and the dependence table. -/
def State.mayStart (s : State) (tr : Tree) (t : Tile) (b : Batch) (c : Child) (gone set : Bool) : Bool :=
  let floor := (s.pkg t.pkg).stag
  let delta := max (tr.level t.depth).stag floor
  (if set then decide (b.t0 ≤ s.time)
   else decide (b.t0 + c.idx * delta ≤ s.time) && (b.last.map fun l => decide (l + floor ≤ s.time)).getD true) &&
  (gone || decide (c.idx ≤ b.head + 255)) && s.depAdmits t b c

/-- A child whose start waits for the commit of its part of a POD gang (R387, R389). -/
def State.gangHolds (s : State) (tr : Tree) (b : Batch) (k : Nat) : Bool :=
  s.gangs.any fun g => g.id == tr.gang && g.kind == 3 && g.batch == b.id && g.parts.any fun p => p.part == k && decide (p.st < 3)

/-- A waiting child starts, with its whole batch when it is a port set; or it is reported DEPFAIL, or cancelled when it has no
crew to join any more (R24, R26, R29). -/
def execChildStart (tile k : Nat) (s : State) : Outcome State Fault Refusal :=
  .next (match s.tile? tile with
    | none => s
    | some t =>
      match t.batch, s.treeOf t with
      | some b, some tr =>
        match b.kid? k with
        | none => s
        | some c =>
          let gone := s.crewGone t.crew
          let set := tr.portSet (t.depth + 1)
          if c.st ≠ .waiting ∨ !t.live ∨ s.gangHolds tr b k then s
          else if (tr.level (t.depth + 1)).dom = 0 ∧ gone then s.reportChild tile k 2
          else if s.depFails t b (tr.level t.depth) k then s.reportChild tile k 3
          else
            let cs := if set then b.kids.filter fun c => c.st == .waiting else [c]
            if cs.all fun c => s.mayStart tr t b c gone set && !s.depFails t b (tr.level t.depth) c.idx then
              match s.startAll tr tile false cs with
              | some s => if set then s.bindMap tile else s
              | none => s
            else s
      | _, _ => s)

/-! ### Relaunch (R29, R192, R409) -/

/-- A root is placed again on a core of its unit (R27, R409). -/
def State.startRoot (s : State) (tr : Tree) (reln core : Nat) : Option State :=
  let dies := if tr.dies.isEmpty then List.range 9 else tr.dies
  if !dies.contains (dieOf core) then none else
  (s.admitTile tr 0 0 reln tr.pkg core none []).map fun (ts : Nat × State) => ts.2.startGroups ts.1

/-- A root of a POD gang begins with the batch of the members' children (R387); a part that has failed already has reported. -/
def State.gangBatch (s : State) (tr : Tree) (t0 : Nat) : State :=
  match s.gangs.find? fun g => g.id == tr.gang && g.kind == 3, s.tiles.find? fun t => t.tree == tr.id && t.parent.isNone with
  | some g, some t =>
    let b : Batch :=
      { id := s.next, n := g.members.length, t0 := t0, head := 0, last := none, dep := none,
        kids := (List.range g.members.length).map fun k =>
          if g.parts.any fun p => p.part == k && p.st == 4 then { Child.fresh k with st := .done 1, freed := true } else Child.fresh k,
        bind := [], gmask := 0 }
    { (s.modTile t.id fun t => { t with batch := some b }) with
      next := s.next + 1
      gangs := s.gangs.map fun (x : Gang) => if x.id = g.id then { x with batch := b.id } else x }
  | _, _ => s

/-- A killed child with a relaunch left starts again, a port set's members as one admission; with tile 0, the root of tree k. -/
def execChildRelaunch (tile k : Nat) (s : State) : Outcome State Fault Refusal :=
  .next (
    if tile = 0 then
      match s.tree? k with
      | none => s
      | some tr =>
        if s.tiles.any fun t => t.tree == k then s
        else
          let (core, s) := s.pick Config.cores
          match s.startRoot tr (tr.reln + 1) core with
          | some s => s.modTree k fun t => { t with reln := t.reln + 1 }
          | none => s
    else match s.tile? tile with
      | none => s
      | some t =>
        match t.batch, s.treeOf t with
        | some b, some tr =>
          match b.kid? k with
          | none => s
          | some c =>
            let set := tr.portSet (t.depth + 1)
            let floor := (s.pkg t.pkg).stag
            if c.st ≠ .relaunch then s
            else if set then
              match s.startAll tr tile true (b.kids.filter fun c => c.st == .relaunch) with
              | some s => s.bindMap tile
              | none => s
            else if (b.last.map fun l => decide (s.time < l + floor)).getD false then s
            else (s.startKid tr t c true).getD s
        | _, _ => s)

/-! ### Memory of tiles that end -/

/-- A key lies in the level memory of a tile. -/
def Tile.holds (t : Tile) (k : Nat) : Bool := decide (1 ≤ t.dom) && decide (t.dom ≤ 3) && decide (t.home ≤ k) && decide (k < t.home + t.memb)

/-- The span that a same-domain child took of its parent's pool (R22); a core tile whose crew is saved has its place in `va`. -/
def Tile.spanIn (t p : Tile) : Option (Nat × Nat) :=
  if t.dom ≠ p.dom ∨ t.dom = 0 then none
  else some (if 4 ≤ t.dom then t.va - p.va else if t.va = 0 then t.home - p.home else t.va - 1, t.memb)

/-- Tiles end: their memory is released, with the vats and barrier objects in it, and the streams at those vats. -/
def State.releaseTiles (s : State) (ts : List Tile) : State :=
  let gone := fun (id : Nat) => ts.any fun t => t.id == id
  let inside := fun (k : Nat) => ts.any fun t => t.holds k
  let freed := fun (p : Tile) (sp : Span) => !sp.block && ts.any fun t => t.parent == some p.id && t.spanIn p == some (sp.off, sp.len)
  let strip := fun (p : Tile) => { p with spans := p.spans.filter fun sp => !freed p sp }
  let kids := fun (b : BarDev) => { b with kids := b.kids.filter fun k => !inside k }
  let clear := fun (c : Cmd) => { c with src := c.src.filter fun sp => !inside sp.1, dst := c.dst.filter fun sp => !inside sp.1 }
  let s := { s with
    tiles := (s.tiles.filter fun (t : Tile) => !gone t.id).map strip
    vats := s.vats.filter fun v => !inside v.vat
    bars := (s.bars.filter fun (b : BarDev) => !inside b.obj).map kids
    liveBars := s.liveBars.filter fun k => !inside k
    wildBars := s.wildBars.filter fun k => !inside k
    cmds := if s.cmds.isEmpty then [] else s.cmds.map clear
    streams := s.streams.filter fun x => !gone x.wtile }
  s.purgeHandles

/-! ### Reports (R28, R384) -/

/-- The report of a tree's root (R384, R389). -/
def State.rootReport (s : State) (tr : Tree) (st : Nat) : State :=
  let s := { s with trees := s.trees.filter fun t => t.id != tr.id }
  if tr.gang = 0 then
    let s := if tr.report = 0 then s else s.deviceStore tr.pkg tr.ctx tr.report (rootWord 0 st tr.reln tr.tries tr.late)
    s.packetDone tr.pkg tr.queue tr.index
  else match s.gangs.find? fun g => g.id == tr.gang with
    | none => s
    | some g =>
      if g.kind = 3 then
        -- parts of a POD gang that its root leaves without a child
        (g.parts.filter fun p => p.st != 4).foldl (fun (s : State) p => s.gangPartDone g.id p.part st tr.reln) s
      else s.gangPartDone g.id tr.part st tr.reln

/-- A tile's report goes to its parent's window, or it is the root's. -/
def State.tileReport (s : State) (t : Tile) (st : Nat) : State :=
  match t.parent with
  | some p => s.reportChild p t.idx st
  | none => match s.tree? t.tree with
    | some tr => s.rootReport tr st
    | none => s

/-! ### Completion (R24, R361) -/

/-- The groups of a tile: its crew's, or for a GRP tile its own. -/
def State.tileGroups (s : State) (t : Tile) : List Group :=
  if t.dom = 0 then s.allGroups.filter fun g => g.tile == some t.id && g.id != 0 else s.groupsOf t.crew

/-- The domain at which a tile's completion is a release: its parent's, POD for a root (R156). -/
def State.endDomain (s : State) (t : Tile) : Nat := ((t.parent.bind s.tile?).map Tile.dom).getD 5

/-- A tile has completed: its groups have exited with their stores done and their bindings ended, as its completion's release needs
(R147, R148, R359), its children have reported, its commands have arrived, and its crew is neither halted nor has a fault to report
(R24, R361, R405). -/
def State.tileDone (s : State) (t : Tile) : Bool :=
  let gs := s.tileGroups t
  let crew := s.crew? t.crew
  t.live && gs.all (fun g => g.live == 0 && g.links.isEmpty && g.sq.isEmpty && !s.underWay g.id && !g.unreleased (s.endDomain t)) &&
  ((t.batch.map Batch.kids).getD []).all (fun c => c.st.reported.isSome) &&
  (crew.map fun c => c.st == .run && (t.dom == 0 || (c.guard.isNone && c.event.isNone))).getD false &&
  !(s.imprecise.any fun r => decide (r.kind ≤ 4) && gs.any fun g => g.id == r.gid) &&
  !(s.cmds.any fun c => c.tile == some t.id || gs.any fun g => g.id == c.gid)

/-- The stores that a completing tile's groups have not waited for join those that the parent's lead learns of (R147, R156). -/
def State.handUp (s : State) (t : Tile) (gone : List Group) : State :=
  let ids := (gone.flatMap fun g => g.unacked ++ g.readPend ++ g.handed).eraseDups
  match (t.parent.bind s.tile?).map Tile.crew, ids with
  | some crew, _ :: _ =>
    s.mapGroups fun g => if g.crew = crew ∧ g.num = 0 ∧ !g.priv ∧ g.id ≠ 0 then { g with readPend := (g.readPend ++ ids).eraseDups } else g
  | _, _ => s

/-- A tile completes: a release at the parent's domain, its memory and crew released, its report made; a stream that it started on
the vat of a tile above goes on. -/
def execTileComplete (tile : Nat) (s : State) : Outcome State Fault Refusal :=
  .next (match s.tile? tile with
    | none => s
    | some t =>
      if !s.tileDone t then s else
      let gone := s.tileGroups t
      let s := (s.handUp t gone).dropGroups fun g => gone.any fun h => h.id == g.id
      let s := if t.dom = 0 then
          s.modCrew t.crew fun c => { c with blocks := match c.blocks.findIdx? fun b => gone.any fun g => g.alloc == b.2 with
            | some i => c.blocks.eraseIdx i
            | none => c.blocks }
        else { s with crews := s.crews.filter fun c => c.id != t.crew }
      (s.releaseTiles [t]).tileReport t 0)

/-! ### Kill (R408) -/

/-- The other running children of a tile's port set (R27, R192). -/
def State.setSiblings (s : State) (t : Tile) : List Tile :=
  match t.parent, s.treeOf t with
  | some p, some tr => if tr.portSet t.depth then s.tiles.filter fun x => x.parent == some p && x.id != t.id else []
  | _, _ => []

/-- The crews that a kill of some crews takes: binding sets, and the crews of their tiles' subtrees (R192, R321). -/
def State.killClosure (s : State) : Nat → List Nat → List Nat
  | 0, ks => ks
  | n + 1, ks =>
    let ts := s.tiles.filter fun t => ks.contains t.crew
    let below := (s.tiles.filter fun t => ts.any fun p => t.parent == some p.id).map Tile.crew
    let beside := (ts.flatMap s.setSiblings).map Tile.crew
    s.killClosure n (ks ++ below ++ beside ++ s.boundCrews ks).eraseDups

/-- Bytes that an abandoned copy was writing: each old or new (R324). -/
def State.halfWritten (s after : State) (c : Cmd) : State :=
  let keys := c.dst.flatMap fun sp => (List.range sp.2).map fun j => sp.1 + j
  let (coin, s) := s.pick 2
  let s := if coin = 0 then s else { s with poison := after.poison }
  keys.foldl (fun (s : State) k => if Config.freeAt c.id s.free k 13 % 2 = 0 then s else s.setByte k (after.byte k)) s

/-- A command of a killed crew is abandoned (R172, R324, R357). -/
def State.abandon (s : State) (c : Cmd) : State :=
  let drop := fun (s : State) => (s.dropCmd c.id).letGo c.id
  match c.kind with
  | .copy r n f =>
    if !s.headOf c then drop s else
    match c.tile.bind s.tile? with
    | none => drop s
    | some t => match s.treeOf t with
      | none => drop s
      | some tr => drop (s.halfWritten (s.copyWork c t (tr.level t.depth) r n f).1.s c)
  | .mma .. => drop (s.celSpoil c)
  | .delta _ _ _ _ => drop (s.celSpoil c)
  | .celmove _ _ _ => drop (s.celSpoil c)
  | .celfree _ _ => s.modCmd c.id fun c => { c with gid := 0, crew := 0, reply := none }
  | .hmsg _ => drop s
  | .mst _ _ _ _ _ => if c.sent then s.modCmd c.id fun c => { c with gid := 0, crew := 0, tile := none, bar := none, reply := none } else drop s
  | .mldr _ _ _ _ _ _ =>
    if c.sent then s.modCmd c.id fun c => { c with gid := 0, crew := 0, tile := none, bar := none, reply := none } else drop s
  | .coll _ _ _ _ _ _ _ =>
    if c.sent then s.modCmd c.id fun c => { c with gid := 0, crew := 0, tile := none, bar := none, reply := none } else drop s

/-- Waiters of killed groups leave the vats' lists. -/
def State.dropWaiters (s : State) (gone : Nat → Bool) : State :=
  s.vats.foldl (fun (s : State) v =>
    let keep := v.waiters.filter fun w => !gone w.1
    if keep.length = v.waiters.length then s
    else (s.setWaiters v.vat keep).setVatField v.vat 0x16 2 keep.length) s

/-- A killed child of a tile that lives on: relaunched while IDEM and RETRY allow, or FAILED (R29, R129, R409). -/
def Child.relaunchable (tr : Tree) (c : Child) : Bool := tr.rcd.idem && decide (c.reln < tr.rcd.retry) && !c.overflow

/-- The killed children of a parent's batch may be relaunched: each by itself, a port set's all together (R192). -/
def State.relaunches (s : State) (tr : Tree) (tops : List Tile) (t : Tile) (p : Nat) : Bool :=
  let kids := (((s.tile? p).bind Tile.batch).map Batch.kids).getD []
  let hit := kids.filter fun c => if tr.portSet t.depth then tops.any fun x => x.parent == some p && c.st == .running x.id
                                  else c.st == .running t.id
  hit.all fun c => c.relaunchable tr

/-- What becomes of a killed tile whose parent lives on, by the state right after the kill (R29, R192, R409). -/
def State.afterKill1 (s0 : State) (tops : List Tile) (s : State) (t : Tile) : State :=
  match s.tree? t.tree with
  | none => s
  | some tr =>
    match t.parent with
    | none => if tr.rcd.idem && decide (tr.reln < tr.rcd.retry) then s.signalWork (some tr.pkg) else s.rootReport tr 1
    | some p =>
      if s0.relaunches tr tops t p then
        (s.modKid p t.idx fun c => { c with st := .relaunch, hold := [] }).signalWork (some t.pkg)
      else if tr.portSet t.depth then
        -- R192: every member of the batch is reported FAILED
        ((((s.tile? p).bind Tile.batch).map Batch.kids).getD []).foldl (fun (s : State) c =>
          if c.st.reported.isNone then s.reportChild p c.idx 1 else s) s
      else s.reportChild p t.idx 1

def State.afterKill (s : State) (tops : List Tile) : State := tops.foldl (s.afterKill1 tops) s

/-- The kill of crews, all at once (R408). -/
def State.killCrews (s : State) (crews : List Nat) : State :=
  let ks := s.killClosure (s.tiles.length + 1) crews
  let ts := s.tiles.filter fun t => ks.contains t.crew
  let tops := ts.filter fun t => !ts.any fun p => t.parent == some p.id
  let gone := fun (gid : Nat) => s.allGroups.any fun g => g.id == gid && !g.priv && ks.contains g.crew
  let s := (s.cmds.filter fun c => ks.contains c.crew).foldl State.abandon s
  let s := s.dropWaiters gone
  let s := { s with streams := s.streams.map fun x => if ks.contains x.crew then { x with killed := true } else x }
  let s := ks.foldl State.freeExtents s
  let cs := s.crews.filter fun c => ks.contains c.id
  let s := cs.foldl (fun (s : State) c => s.modCore c.pkg c.core fun x =>
    { x with preq := x.preq &&& (2 ^ 64 - 1 - 2 ^ c.num), evq := x.evq.filter fun e => e.crew != c.num || e.code == 0x30 }) s
  let s := s.dropGroups fun g => !g.priv && ks.contains g.crew
  let s := { s with crews := s.crews.filter fun c => !ks.contains c.id, saved := s.saved.filter fun v => !ks.contains v.crew }
  let s := (s.sysops.filter fun o => match o.kind with
    | .halt c => ks.contains c
    | .save c _ => ks.contains c
    | .accesses _ => false).foldl (fun (s : State) o => s.sysReply o 0x80000002) s
  ((s.releaseTiles ts).afterKill tops).purgeHandles

end Sys2Proof.Machine
end

