-- ==== Sys2Proof/Machine/Fetch.lean ====
section
/-! DEFINITION. Instruction fetch (R213) and which split may issue (R37, R362, R401, R428). -/

namespace Sys2Proof.Machine

/-- What a fetch gives: the words of the instruction, words it does not have being zero, or the trap. -/
inductive Fetched where
  | words (w l1 l2 : Word)
  | trap (code : Nat)
  deriving DecidableEq, Repr

/-- One word of code at a virtual address: region 0, translated with execute rights (R213, R394). -/
def State.fetchWord (s : State) (pc : Nat) : (Word ⊕ Nat) × State :=
  match s.place s.g pc with
  | some (.home pkg off) =>
    if pc % 4 ≠ 0 then (.inr 0x05, s) else
    match s.translate pkg s.g.ctx off 4 with
    | (none, s) => (.inr 0x06, s)
    | (some pa, s) =>
      if s.poisonedAt (keyPkg pkg pa) 4 then (.inr 0x0A, s)
      else (.inl (BitVec.ofNat 32 (s.num (keyPkg pkg pa) 4)), s)
  | _ => (.inr 0x06, s)

/-- The instruction at the issuing split's PC. -/
def State.fetch (s : State) : Fetched × State :=
  let pc := s.g.pc
  match s.fetchWord pc with
  | (.inr c, s) => (.trap c, s)
  | (.inl w, s) =>
    if wordCount w = 1 then (.words w 0 0, s) else
    match s.fetchWord ((pc + 4) % 2 ^ 64) with
    | (.inr c, s) => (.trap c, s)
    | (.inl l1, s) =>
      if wordCount w = 2 then (.words w l1 0, s) else
      match s.fetchWord ((pc + 8) % 2 ^ 64) with
      | (.inr c, s) => (.trap c, s)
      | (.inl l2, s) => (.words w l1 l2, s)

/-- The split is ready, or tries its instruction again: held at issue, waiting on a port and not parked, or in a wait
that looks again at its condition; and its group waits for no spill or fill (R37, R63, R185, R187, R314). -/
def Group.splitReady (g : Group) (idx : Nat) : Bool :=
  (match g.split? idx with
   | some p => p.mask != 0 && (match p.wait with
     | .none => true
     | .held => true
     | .port _ false => true
     | .plink _ _ _ => true
     | .join => true
     | .joinall _ _ => true
     | .celget => true
     | .fence => true
     | .collw => true
     | .idle => true
     | .crewop => true
     | _ => false)
   | none => false) &&
  !(g.splits.any fun p => p.idx != idx && p.wait.ofGroup)

/-- The group in focus may issue from its split `cur`: its tile started, not stopped, its crew running or within its skid, its package not
tripped and in a state that issues, a privileged group's core without a slot fault (R362, R366, R401, R426, R428). -/
def State.canIssue (s : State) : Bool :=
  let g := s.g
  let p := s.pkg g.pkg
  g.id != 0 && ((s.tileOf g).map Tile.live).getD true && g.splitReady g.cur && g.stop.isNone && g.haltLeft != some 0 && !p.trip && decide (p.pstate ≤ 2) &&
  (if g.priv then !(s.core g.pkg g.core).slotFault
   else match s.crew? g.crew with
     | some c => (c.st == .run || c.st == .halting) && !s.setHeld c.id
     | none => false)

/-- What the split issues: an instruction, or the trap of its fetch or of an encoding that names none (R213, R226). -/
def State.issued (s : State) : (Instr ⊕ Nat) × State :=
  match s.fetch with
  | (.trap c, s) => (.inr c, s)
  | (.words w l1 l2, s) =>
    match decode s.g.priv w l1 l2 with
    | .ok i => (.inl i, s)
    | .error .priv => (.inr (if s.g.priv then 0x01 else 0x02), s)
    | .error .illegal => (.inr 0x01, s)

end Sys2Proof.Machine
end

