-- ==== Sys2Proof/Machine/Priv.lean ====
section
/-! DEFINITION. The privileged slot (R61, R63, R362 to R375, R400 to R404, R412): registers, events, crews halted and resumed, contexts, spills, translations and tickets. -/

namespace Sys2Proof.Machine

open Host (Outcome)

/-! ### Crews of the issuing core (R370) -/

/-- The crew of the issuing core that s[A] names, or FIELD; none when its number is FREE. -/
def State.crewNamed (s : State) (x : Nat) : Nat ⊕ Option Crew :=
  if x / 64 ≠ 0 then .inl 0x80000001 else .inr (s.crewAt s.g.pkg s.g.core x)

/-- The crews taken together with a crew by a request: its binding set, and same-domain tiles inside its tile (R412). -/
def State.takenWith (s : State) : Nat → List Nat → List Nat
  | 0, ks => ks
  | n + 1, ks =>
    let ts := s.tiles.filter fun t => ks.contains t.crew
    let inner := (s.tiles.filter fun t => ts.any fun p => t.parent == some p.id && t.dom == p.dom).map Tile.crew
    let beside := (ts.flatMap s.setSiblings).map Tile.crew
    s.takenWith n (ks ++ inner ++ beside ++ s.boundCrews ks).eraseDups

/-- Groups of a crew that are descheduled stop at once (R401, R412). -/
def State.stopWaiting (s : State) (crew : Nat) : State :=
  s.mapGroups fun g => if g.crew = crew ∧ !g.priv ∧ g.waiting then g.halt 2 else g

/-- A pre-emption request for a crew number; it takes the whole set of its crew (R412). -/
def State.requestPreempt (s : State) (pkg core num : Nat) : State :=
  let s := s.modCore pkg core fun c => { c with preq := c.preq ||| 2 ^ num }
  match s.crewAt pkg core num with
  | none => s
  | some c =>
    (s.takenWith (s.tiles.length + 1) [c.id]).foldl (fun (s : State) id =>
      match s.crew? id with
      | none => s
      | some c =>
        let s := s.modCore c.pkg c.core fun x => { x with preq := x.preq ||| 2 ^ c.num }
        let s := s.modCrew id fun c => { c with preqAt := c.preqAt.or (some s.time) }
        if c.st = .run then s.stopWaiting id else s) s

/-- An operation on the crew has not settled: one issued later waits for it (R370). -/
def State.crewBusy (s : State) (c : Crew) : Bool :=
  c.st == .busy || (c.st == .halting && s.sysops.any fun o => o.kind == .halt c.id)

/-- The scoreboarded reply of an operation of the privileged slot is to come (R370, R373). -/
def pendReply (s : State) (d : BitVec 6) (k : SysKind) : Res :=
  .done { s with g := s.g.post [(.s d.toNat, none)], sysops := s.sysops ++ [⟨s.g.id, s.g.nextSb, k⟩] }

/-- HALTCR: halts a running crew, and replies when all its groups have stopped (R370). -/
def execHaltcr (d a : BitVec 6) (n : Ann) (s : State) : Outcome State Fault Refusal :=
  issue (.haltcr d a n) true s fun s =>
    match s.crewNamed (s.g.sreg a.toNat).toNat with
    | .inl c => xreply s 1 d c
    | .inr none => xreply s 1 d 0x80000002
    | .inr (some c) =>
      match c.st with
      | .halted => xreply s 1 d 0
      | .busy => .wait s .crewop
      | .halting => pendReply s d (.halt c.id)
      | .run => pendReply (s.haltCrew c.id none) d (.halt c.id)

/-- The halted groups of a crew issue again, with their waits (R370, R401). -/
def State.resumeCrew (s : State) (c : Crew) : State :=
  let s := s.modCrew c.id fun c => { c with st := .run, event := none, restored := false }
  let s := s.mapGroups fun g => if g.crew = c.id ∧ !g.priv then { g with stop := none, haltLeft := none } else g
  if flag (s.core c.pkg c.core).preq c.num then s.stopWaiting c.id else s

def execResume (d a : BitVec 6) (n : Ann) (s : State) : Outcome State Fault Refusal :=
  issue (.resume d a n) true s fun s =>
    match s.crewNamed (s.g.sreg a.toNat).toNat with
    | .inl c => xreply s 1 d c
    | .inr none => xreply s 1 d 0x80000002
    | .inr (some c) =>
      if s.crewBusy c then .wait s .crewop
      else if c.st ≠ .halted ∨ (c.event.map Event.fatal).getD false then xreply s 1 d 0x80000002
      else xreply (s.resumeCrew c) 1 d 0

def execKillcr (d a : BitVec 6) (n : Ann) (s : State) : Outcome State Fault Refusal :=
  issue (.killcr d a n) true s fun s =>
    match s.crewNamed (s.g.sreg a.toNat).toNat with
    | .inl c => xreply s 1 d c
    | .inr none => xreply s 1 d 0x80000002
    | .inr (some c) =>
      if s.crewBusy c ∨ (s.killClosure (s.tiles.length + 1) [c.id]).any fun k => ((s.crew? k).map fun x => x.st == .busy).getD false then .wait s .crewop
      else xreply (s.killCrews [c.id]) 1 d 0

/-! ### Halts complete (R401, R402, R412) -/

/-- Results are all older than any latency once a crew is halted. -/
def Group.settled1 (g : Group) : Group := g.older 1000

/-- A crew has halted: the HALTCRs that wait for it reply OK (R370). -/
def State.haltReplies (s : State) (crew : Nat) : State :=
  (s.sysops.filter fun o => o.kind == .halt crew).foldl (fun (s : State) o => s.sysReply o 0) s

/-- Every group of a halting crew has stopped, the last ones within their skid: the crew is HALTED, and its event, or the
notice of a pre-emption whose request is then done, enters the core's queue. -/
def execHaltComplete (crew : Nat) (s : State) : Outcome State Fault Refusal :=
  .next (match s.crew? crew with
    | none => s
    | some c =>
      let live := (s.groupsOf crew).filter fun g => g.live != 0
      let asked := flag (s.core c.pkg c.core).preq c.num
      let allStopped := live.all fun g => g.stop.isSome
      if !(c.st = .halting ∨ (c.st = .run ∧ asked ∧ allStopped ∧ !live.isEmpty)) then s else
      let s := s.mapGroups fun g =>
        if g.crew = crew ∧ !g.priv ∧ g.live ≠ 0 then (if g.stop.isSome then g else g.halt 1).settled1 else g
      let s := s.haltReplies crew
      match c.event with
      | some e =>
        let skid := (((s.groupsOf crew).find? fun g => g.num == e.group).bind Group.stop).map Stop.skid |>.getD 0
        let e := { e with skid := skid }
        (s.modCrew crew fun c => { c with st := .halted, event := some e }).queueEvent c.pkg c.core e
      | none =>
        if !asked then s.modCrew crew fun c => { c with st := .halted } else
        let (a, s) := s.draw
        let (b, s) := s.draw
        let (k, s) := s.draw
        let e : Event := ⟨0x20, c.num, a % 16, 0, k % 9, b % 2 ^ 64, a / 16 % 64⟩
        let s := s.modCore c.pkg c.core fun x => { x with preq := x.preq &&& (2 ^ 64 - 1 - 2 ^ c.num) }
        (s.modCrew crew fun c => { c with st := .halted, event := some e, preqAt := none }).queueEvent c.pkg c.core e)

/-- The grace period of a request ends: the groups that have not stopped are halted by broadcast (R412). -/
def execGraceExpiry (crew : Nat) (s : State) : Outcome State Fault Refusal :=
  .next (match s.crew? crew with
    | none => s
    | some c =>
      let core := s.core c.pkg c.core
      match c.preqAt with
      | some t =>
        if !(s.pkg c.pkg).trip ∧ c.st = .run ∧ flag core.preq c.num ∧ t + 1000 * core.grace ≤ s.time then s.haltCrew crew none else s
      | none => s)

/-- A group held at issue by one instruction for 10 ms takes a precise trap there (R404). -/
def execWatchdog (gid split : Nat) (s : State) : Outcome State Fault Refusal :=
  .next (match s.group? gid with
    | none => s
    | some g =>
      match g.split? split with
      | none => s
      | some p =>
        let run := g.priv || ((s.crew? g.crew).map fun c => c.st == .run || c.st == .halting).getD false
        if !(s.pkg g.pkg).trip ∧ (p.wait = .held ∨ p.wait = .fence) ∧ p.since + 10 ^ 7 ≤ s.time ∧ g.stop.isNone ∧ run then s.trapAt gid split 0x0B 0 else s)

/-! ### Events and their return (R363, R366, R368, R403) -/

/-- ECAUSE of an event, bit [31] aside (R366). -/
def Event.cause (e : Event) : Word :=
  let arg := if e.code = 0x0C ∨ e.code = 0x0D then e.arg % 64 else 0
  BitVec.ofNat 32 (e.code % 256 + e.crew % 64 * 2 ^ 8 + e.group % 16 * 2 ^ 14 + arg * 2 ^ 18 + e.skid % 16 * 2 ^ 24)

/-- A privileged group starts at the entry address with every lane, its LFSR states set (R84, R363). -/
def Group.enter (g : Group) (pc : Nat) : Group :=
  { g.seedPriv with splits := [⟨0, pc, 2 ^ g.width - 1, .none, 0, 0⟩], parks := [], cur := 0 }

/-- The idle handler group takes the oldest event and starts (R363). -/
def execEventDelivery (pkg core : Nat) (s : State) : Outcome State Fault Refusal :=
  .next (
    let c := s.core pkg core
    match c.evq with
    | [] => s
    | e :: rest =>
      if c.cur.isSome ∨ c.slotFault ∨ !c.released then s else
      let s := s.modCore pkg core fun c => { c with evq := rest, cur := some e, ecause := e.cause, epc := e.pc, einfo := BitVec.ofNat 32 e.info }
      s.mapGroups fun g => if g.priv ∧ g.handler ∧ g.pkg = pkg ∧ g.core = core then g.enter c.hvec else g)

/-- A group held for a spill or fill whose service is done issues again (R63, R363). -/
def Group.served (g : Group) : Group :=
  if g.lanes.any fun l => l.needSpill g.alloc || l.needFill then g else
  { g with splits := g.splits.map fun p => match p.wait with
      | .spill => { p with wait := .none }
      | .fill => { p with wait := .none }
      | _ => p }

/-- The current event of a core is retired: a fatal one kills its crew if it is still halted with it, a spill or fill lets its
group issue again (R363, R368, R403). -/
def State.retireEvent (s : State) (pkg core : Nat) : State :=
  match (s.core pkg core).cur with
  | none => s
  | some e =>
    let s := s.modCore pkg core fun c => { c with cur := none, work := true }
    match s.crewAt pkg core e.crew with
    | none => s
    | some c =>
      if (e.code = 0x10 ∨ e.code = 0x11) ∧ c.event ≠ some e then
        s.mapGroups fun g => if g.crew = c.id ∧ g.num = e.group ∧ !g.priv then g.served else g
      else if c.event ≠ some e then s
      else if e.fatal ∧ c.st = .halted then s.killCrews [c.id]
      else s.modCrew c.id fun c => { c with event := none }

def execTret (n : Ann) (s : State) : Outcome State Fault Refusal :=
  issue (.tret n) true s fun s =>
    let g := s.g
    if !g.handler then .trap 0x01 0 g.lowLane
    else .jump ({ s with g := { g with splits := [], parks := [] } }.retireEvent g.pkg g.core)

/-- IDLE: returns at once when work was signalled since the last one, or waits for it (R368). -/
def execIdle (n : Ann) (s : State) : Outcome State Fault Refusal :=
  issue (.idle n) true s fun s =>
    let g := s.g
    if g.handler then .trap 0x01 0 g.lowLane
    else if (s.core g.pkg g.core).work then .done (s.modCore g.pkg g.core fun c => { c with work := false })
    else .wait s .idle

/-! ### Control and status registers (R364 to R367) -/

def Core.setSpill (c : Core) (n x : Nat) : Core :=
  let rest := c.spilla.filter fun p => p.1 != n
  { c with spilla := if x = 0 then rest else (n, x) :: rest }

/-- CREWST of a crew number (R366). -/
def State.crewst (s : State) (pkg core n : Nat) : Nat :=
  match s.crewAt pkg core n with
  | none => 0
  | some c =>
    (match c.st with | .run => 1 | .halting => 1 | .halted => 2 | .busy => 3) + c.ctx % 2 ^ 12 * 2 ^ 4 +
      ((s.groupsOf c.id).filter fun g => g.live != 0).length % 32 * 2 ^ 16

/-- The ownership entry of a cellar region (R169). -/
def State.celown (s : State) (pkg core r : Nat) : Nat :=
  match s.exts.find? fun e => e.pkg == pkg && e.core == core && decide (e.head ≤ r) && decide (r < e.head + e.n) with
  | none => 0
  | some e =>
    if e.head = r then
      e.head + e.key * 2 ^ 6 + e.ctx * 2 ^ 22 + 1 * 2 ^ 34 + (if e.pin then 2 ^ 36 else 0) + (e.n - 1) * 2 ^ 37 + e.lay * 2 ^ 43 +
        e.rows * 2 ^ 45 + e.cols * 2 ^ 56 + e.shnd * 2 ^ 64 + e.soff * 2 ^ 80 + e.gen * 2 ^ 112
    else e.head + e.ctx * 2 ^ 22 + 2 * 2 ^ 34

/-- A CSR as the issuing group reads it, with what the read does; none for an unassigned number. -/
def State.csrRead (s : State) (n : Nat) : Option (Nat × State) :=
  let g := s.g
  let c := s.core g.pkg g.core
  let p := s.pkg g.pkg
  let d := p.die (dieOf g.core)
  let lo := fun (x : Nat) => some (x % 2 ^ 32, s)
  let hi := fun (x : Nat) => some (x / 2 ^ 32 % 2 ^ 32, s)
  if 0x10 ≤ n ∧ n ≤ 0x4F then lo (s.crewst g.pkg g.core (n - 0x10))
  else if 0x80 ≤ n ∧ n ≤ 0xFF then (if n % 2 = 0 then lo else hi) (c.spill ((n - 0x80) / 2))
  else if 0x400 ≤ n ∧ n ≤ 0x4FF then lo (s.celown g.pkg g.core ((n - 0x400) / 4) / 2 ^ (32 * (n % 4)))
  else match n with
    | 0x0000 => lo g.core
    | 0x0001 => lo c.hvec
    | 0x0002 => hi c.hvec
    | 0x0003 => lo (if g.handler then 2 ^ 31 + c.ecause.toNat else 0)
    | 0x0004 => lo c.epc
    | 0x0005 => hi c.epc
    | 0x0006 => lo c.einfo.toNat
    | 0x0007 => lo (c.evq.length + if c.cur.isSome then 1 else 0)
    | 0x0008 => lo c.preq
    | 0x0009 => hi c.preq
    | 0x000A => lo c.grace
    | 0x000B => some (if g.ctxerr then 1 else 0, { s with g := { g with ctxerr := false } })
    | 0x1000 => lo (d.dmem + if d.busy then 2 ^ 31 else 0)
    | 0x2000 => lo g.pkg
    | 0x2001 => lo p.stag
    | 0x2002 => some (s.time % 2 ^ 32, { s with g := { g with timeh := some (s.time / 2 ^ 32) } })
    | 0x2003 => some (g.timeh.getD (s.time / 2 ^ 32) % 2 ^ 32, { s with g := { g with timeh := none } })
    | 0x2004 => lo (if s.extended then 1 else 0)
    | 0x2005 => lo p.pstate
    | 0x2006 => lo p.slice
    | 0x2008 => lo p.pctx
    | 0x2009 => hi p.pctx
    | _ => none

/-- The low or high word of a 64-bit register replaced. -/
def setHalf (old x : Nat) (high : Bool) : Nat :=
  if high then old % 2 ^ 32 + x % 2 ^ 32 * 2 ^ 32 else old / 2 ^ 32 * 2 ^ 32 + x % 2 ^ 32

/-- A write of DSPLIT: BUSY, the die cache written back and discarded, die memory undefined (R112). -/
def State.setDsplit (s : State) (pkg die dmem : Nat) : State :=
  let s := s.modDie pkg die fun d => { d with dmem := dmem, busy := true }
  (s.dropLines fun l => l.unit == 2 ^ 40 + pkg * 16 + die).spoil (keyDie pkg die 0) (2 ^ 28)

/-- A CSR written with a word; none where CSRW raises ILLEGAL. -/
def State.csrWrite (s : State) (n x : Nat) : Option State :=
  let g := s.g
  let core := fun (f : Core → Core) => some (s.modCore g.pkg g.core f)
  let pkg := fun (f : Package → Package) => some (s.modPkg g.pkg f)
  if 0x80 ≤ n ∧ n ≤ 0xFF then
    core fun c => let k := (n - 0x80) / 2; c.setSpill k (setHalf (c.spill k) x (n % 2 == 1))
  else match n with
    | 0x0001 => core fun c => { c with hvec := setHalf c.hvec x false }
    | 0x0002 => core fun c => { c with hvec := setHalf c.hvec x true }
    | 0x0008 => some ((bitsSet 32 x).foldl (fun (s : State) i => s.requestPreempt g.pkg g.core i) s)
    | 0x0009 => some ((bitsSet 32 x).foldl (fun (s : State) i => s.requestPreempt g.pkg g.core (32 + i)) s)
    | 0x000A => if x = 0 ∨ 65535 < x then none else core fun c => { c with grace := x }
    | 0x1000 => if 16 < x then none else some (s.setDsplit g.pkg (dieOf g.core) x)
    | 0x2006 => pkg fun p => { p with slice := x }
    | 0x2008 => pkg fun p => { p with pctx := setHalf p.pctx x false }
    | 0x2009 => pkg fun p => { p with pctx := setHalf p.pctx x true }
    | _ => none

/-- CSRR: the register into s[D], or ILLEGAL (R367). -/
def csrReadOp (s : State) (d : BitVec 6) (csr : Nat) : Res :=
  match s.csrRead csr with
  | some (x, s) => xreply s 1 d x
  | none => .trap 0x01 0 s.g.lowLane

/-- CSRW: s[A] into the register, or ILLEGAL (R367). -/
def csrWriteOp (s : State) (a : BitVec 6) (csr : Nat) : Res :=
  match s.csrWrite csr (s.g.sreg a.toNat).toNat with
  | some s => .done s
  | none => .trap 0x01 0 s.g.lowLane

def execCsrr (d : BitVec 6) (csr : Word) (n : Ann) (s : State) : Outcome State Fault Refusal :=
  issue (.csrr d csr n) true s fun s => csrReadOp s d csr.toNat

def execTimelRead (d : BitVec 6) (n : Ann) (s : State) : Outcome State Fault Refusal :=
  issue (.timelRead d n) true s fun s => csrReadOp s d 0x2002

def execCtxerrRead (d : BitVec 6) (n : Ann) (s : State) : Outcome State Fault Refusal :=
  issue (.ctxerrRead d n) true s fun s => csrReadOp s d 0x000B

def execCsrw (a : BitVec 6) (csr : Word) (n : Ann) (s : State) : Outcome State Fault Refusal :=
  issue (.csrw a csr n) true s fun s => csrWriteOp s a csr.toNat

def execPreqWrite (a : BitVec 6) (hi : BitVec 1) (n : Ann) (s : State) : Outcome State Fault Refusal :=
  issue (.preqWrite a hi n) true s fun s => csrWriteOp s a (0x0008 + hi.toNat)

def execDsplitWrite (a : BitVec 6) (n : Ann) (s : State) : Outcome State Fault Refusal :=
  issue (.dsplitWrite a n) true s fun s => csrWriteOp s a 0x1000

/-- The die's cache has been written back: BUSY clears (R112). -/
def execDsplitDone (pkg die : Nat) (s : State) : Outcome State Fault Refusal :=
  .next (s.modDie pkg die fun d => { d with busy := false })

/-! ### Spill and fill (R61, R63) -/

/-- A lane whose file now begins at a new mark: positions in the file keep their values, those below it are in the spill area,
and what enters the file unwritten is undefined. -/
def Lane.refile (l : Lane) (mark alloc seed : Nat) (back : List (Nat × Word)) : Lane :=
  let lo := 8 * mark
  let hi := lo + 64 * alloc
  let olds := (List.range (64 * alloc)).map fun j => 8 * l.mark + j
  let keep := ((olds.filter fun p => decide (lo ≤ p) && decide (p < hi)).map fun p => (p, l.at p)) ++
    (l.v.filter fun e => decide (8 * l.mark + 64 * alloc ≤ e.1) && decide (e.1 < hi)) ++ back
  { l with
    v := keep.foldl (fun m e => rput m e.1 e.2) []
    fill := some seed
    mark := mark }

/-- The spill of one lane: positions MARK × 8 to WB + 63 − A go to the spill area. -/
def State.spillLane (s : State) (gid base lane : Nat) : State :=
  match s.group? gid with
  | none => s
  | some g =>
    let l := g.lane lane
    if !l.needSpill g.alloc then s else
    let mark := (l.wb + 64 - 64 * g.alloc) / 8
    let ps := (List.range (8 * mark - 8 * l.mark)).map fun j => 8 * l.mark + j
    let s := ps.foldl (fun (s : State) p => s.setNum (spillKey g.pkg base g.num lane p) 4 (l.at p).toNat) s
    { s.modGroup gid fun g => g.modLane lane fun l => l.refile mark g.alloc s.free [] with free := s.free + 1 }

/-- The fill of one lane: positions WB to MARK × 8 − 1 come back. -/
def State.fillLane (s : State) (gid base lane : Nat) : State :=
  match s.group? gid with
  | none => s
  | some g =>
    let l := g.lane lane
    if !l.needFill then s else
    let mark := l.wb / 8
    let back := (List.range (8 * l.mark - 8 * mark)).map fun j =>
      let p := 8 * mark + j
      (p, BitVec.ofNat 32 (s.num (spillKey g.pkg base g.num lane p) 4))
    { s.modGroup gid fun g => g.modLane lane fun l => l.refile mark g.alloc s.free back with free := s.free + 1 }

/-- A scoreboarded result is still to land at a position of a lane that a spill takes out of the file: the transfer waits for it,
for the service leaves every register value unchanged (R63, R72). -/
def Group.spillPending (g : Group) : Bool :=
  g.sb.any fun e => e.writes.any fun tw => match tw.1 with
    | .v i pos => let l := g.lane i; l.needSpill g.alloc && decide (pos < l.wb + 64 - 64 * g.alloc)
    | _ => false

/-- The device transfers what a group's waiting split needs and queues the event; the group waits for its TRET. A spill beyond
4,096 registers, or without a spill area, is refused: the crew is halted with a fatal event (R61, R63). -/
def State.service (s : State) (gid split : Nat) (spill : Bool) : State :=
  match s.group? gid with
  | none => s
  | some g =>
    match g.split? split, s.crew? g.crew with
    | some p, some c =>
      let ls := List.range g.width
      let need := ls.filter fun i => if spill then (g.lane i).needSpill g.alloc else (g.lane i).needFill
      if p.wait ≠ (if spill then Wait.spill else Wait.fill) ∨ need.isEmpty then s else
      let base := (s.core c.pkg c.core).spill c.num
      let ev : Event := ⟨if spill then 0x10 else 0x11, c.num, g.num, 0, 0, p.pc, need.headD 0⟩
      if spill ∧ (base = 0 ∨ need.any fun i => decide (4096 < (g.lane i).wb + 64 - 64 * g.alloc)) then
        if c.event.isSome then s else s.haltCrew c.id (some ev)
      else if spill && g.spillPending then s
      else
        (ls.foldl (fun (s : State) i => if spill then s.spillLane gid base i else s.fillLane gid base i) s).queueEvent c.pkg c.core ev
    | _, _ => s

def execSpill (gid split : Nat) (s : State) : Outcome State Fault Refusal := .next (s.service gid split true)
def execFill (gid split : Nat) (s : State) : Outcome State Fault Refusal := .next (s.service gid split false)

/-! ### Contexts of halted crews (R371, R372) -/

/-- The halted group that a selector names, its crew and lane. -/
def State.ctxGroup (s : State) (x : Nat) : Option (Crew × Group × Nat) :=
  if x / 2 ^ 16 ≠ 0 then none else
  (s.crewAt s.g.pkg s.g.core (x % 64)).bind fun c =>
    if c.st ≠ .halted then none else
    ((s.groupsOf c.id).find? fun g => g.num == field x 9 6 && g.live != 0).bind fun g =>
      if g.width ≤ field x 15 10 then none else some (c, g, field x 15 10)

/-- The split whose PC a group records: the one that stopped it, or its lowest. -/
def Group.recorded (g : Group) : Nat :=
  match g.stop with
  | some r => if g.splits.any fun p => p.idx == g.cur && p.pc == r.pc then g.cur
              else g.splits.foldl (fun a p => min a p.idx) 4
  | none => g.cur

/-- A stack position of a halted lane: in the file, or in the spill area below the mark; none where the access is refused. -/
def State.stackPos (s : State) (c : Crew) (g : Group) (lane pos : Nat) : Option (Option Nat) :=
  let l := g.lane lane
  let base := (s.core c.pkg c.core).spill c.num
  if 8 * l.mark + 64 * g.alloc ≤ pos then none
  else if pos < 8 * l.mark then (if base = 0 then none else some (some (spillKey g.pkg base g.num lane pos)))
  else some none

/-- An item of a halted group, read (R372); none where the access is refused. -/
def State.ctxItem (s : State) (c : Crew) (g : Group) (lane item : Nat) : Option Nat :=
  let l := g.lane lane
  let stack := fun (pos : Nat) => (s.stackPos c g lane pos).map fun k => match k with
    | some key => s.num key 4
    | none => (if l.filling pos then g.freeWord lane pos else l.at pos).toNat
  let words := fun (pc mask k : Nat) => match k with
    | 0 => pc % 2 ^ 32 | 1 => pc / 2 ^ 32 % 2 ^ 32 | 2 => mask % 2 ^ 32 | _ => mask / 2 ^ 32 % 2 ^ 32
  let pc := (g.stop.map Stop.pc).getD 0
  if item < 0x40 then stack (l.wb + item)
  else if 0x1000 ≤ item ∧ item ≤ 0x21FF then stack (item - 0x1000)
  else if 0x200 ≤ item ∧ item ≤ 0x23F then some (if item = 0x200 then 0 else (rget 0 g.s (item - 0x200)).toNat)
  else if 0x248 ≤ item ∧ item ≤ 0x24F then some (rget 0 g.f (item - 0x248)).toNat
  else if 0x260 ≤ item ∧ item ≤ 0x26F then (g.split? ((item - 0x260) / 4)).map fun p => words p.pc p.mask (item % 4)
  else if 0x270 ≤ item ∧ item ≤ 0x29F then (g.parks[(item - 0x270) / 4]?).map fun p => words p.pc p.mask (item % 4)
  else match item with
    | 0x240 => some l.p.toNat
    | 0x250 => some g.mode.toNat
    | 0x251 => some (g.alloc * 2 ^ 24 + l.mark * 2 ^ 12 + l.wb / 8)
    | 0x252 => some l.origin.toNat
    | 0x253 => some l.lfsr.toNat
    | 0x254 => some (g.parks.length * 2 ^ 5 + g.splits.length * 2 ^ 2 + g.splits.foldl (fun a p => min a p.idx) 4)
    | 0x2A0 => some (pc % 2 ^ 32)
    | 0x2A1 => some (pc / 2 ^ 32 % 2 ^ 32)
    | 0x2A2 => some ((g.stop.map Stop.skid).getD 0)
    | _ => none

def execCtxrd (d a : BitVec 6) (item : Word) (n : Ann) (s : State) : Outcome State Fault Refusal :=
  issue (.ctxrd d a item n) true s fun s =>
    match (s.ctxGroup (s.g.sreg a.toNat).toNat).bind fun cgl => s.ctxItem cgl.1 cgl.2.1 cgl.2.2 item.toNat with
    | some x => xreply { s with g := { s.g with ctxerr := false } } 1 d x
    | none => xreply { s with g := { s.g with ctxerr := true } } 1 d 0

/-- The PC of a split of a halted group replaced; the recorded PC follows when it is that split's. -/
def Group.setPcOf (g : Group) (idx pc : Nat) : Group :=
  let rec_ := g.recorded
  let h := g.modSplit idx fun p => { p with pc := pc }
  if idx = rec_ then { h with cur := idx, stop := h.stop.map fun r => { r with pc := pc } } else h

/-- An item of a halted group, written (R372); none where the access is refused. -/
def State.ctxPut (s : State) (c : Crew) (g : Group) (lane item x : Nat) : Option State :=
  let l := g.lane lane
  let w := BitVec.ofNat 32 x
  let put := fun (f : Group → Group) => some (s.modGroup g.id f)
  let stack := fun (pos : Nat) => (s.stackPos c g lane pos).map fun k => match k with
    | some key => (s.setNum key 4 x).modGroup g.id fun g => g.modLane lane fun l => { l with spans := l.touch pos }
    | none => s.modGroup g.id fun g => g.modLane lane fun l => l.put pos w (g.freeWord lane pos)
  let setPc := fun (idx old : Nat) (high : Bool) =>
    if !high && x % 4 != 0 then none else put fun g => g.setPcOf idx (setHalf old x high)
  if item < 0x40 then stack (l.wb + item)
  else if 0x1000 ≤ item ∧ item ≤ 0x21FF then stack (item - 0x1000)
  else if 0x200 ≤ item ∧ item ≤ 0x23F then put fun g => g.setS 0 (item - 0x200) w
  else if 0x248 ≤ item ∧ item ≤ 0x24F then put fun g => g.setF 0 (item - 0x248) w
  else if 0x260 ≤ item ∧ item ≤ 0x26F then
    match g.split? ((item - 0x260) / 4), item % 4 with
    | some p, 0 => setPc p.idx p.pc false
    | some p, 1 => setPc p.idx p.pc true
    | _, _ => none
  else match item with
    | 0x240 => put fun g => g.modLane lane fun l => { l with p := BitVec.ofNat 8 (x % 256) ||| 1 }
    | 0x250 => if x / 2 ^ 25 ≠ 0 then none else put fun g => { g with mode := w }
    | 0x253 => if x = 0 then none else put fun g => g.modLane lane fun l => { l with lfsr := w }
    | 0x2A0 => setPc g.recorded ((g.stop.map Stop.pc).getD 0) false
    | 0x2A1 => setPc g.recorded ((g.stop.map Stop.pc).getD 0) true
    | _ => none

def execCtxwr (d a : BitVec 6) (item : Word) (n : Ann) (s : State) : Outcome State Fault Refusal :=
  issue (.ctxwr d a item n) true s fun s =>
    match (s.ctxGroup (s.g.sreg a.toNat).toNat).bind fun cgl =>
        s.ctxPut cgl.1 cgl.2.1 cgl.2.2 item.toNat (s.g.sreg d.toNat).toNat with
    | some s => .done { s with g := { s.g with ctxerr := false } }
    | none => .done { s with g := { s.g with ctxerr := true } }

/-! ### TLBINV, CINV, TKT (R373 to R375) -/

/-- The accesses under way that an inside translation of a range of a process serves: the package's own loads and stores, and the local
ranges of MST and MLDR; every other access translates at the moment it takes effect (R109, R196, R373). -/
def State.translated (s : State) (pkg ctx : Nat) (hit : Nat → Nat → Bool) : List Nat :=
  ((s.net.filter fun p => p.key.isSome && p.src == pkg && p.ctx == ctx && p.va / 2 ^ 60 == 0 && hit p.off p.size).map Packet.id) ++
  ((s.cmds.filter fun c => c.pkg == pkg && c.ctx == ctx && match c.kind with
    | .mst b ks _ _ _ => hit (leField b 0x10 8 % 2 ^ 40) ks.length
    | .mldr b ks _ _ _ _ => hit (leField b 0x10 8 % 2 ^ 40) ks.length
    | _ => false).map Cmd.id)

/-- TLBINV: matching translations leave every TLB of the package; it replies once the accesses that used one have taken effect. -/
def execTlbinv (d a b : BitVec 6) (n : Ann) (s : State) : Outcome State Fault Refusal :=
  issue (.tlbinv d a b n) true s fun s =>
    let va := s.g.s2 a.toNat
    let x := (s.g.sreg b.toNat).toNat
    let ctx := x / 2 ^ 20
    let off := va % 2 ^ 40
    let last := off + x % 2 ^ 20 * 65536
    if va % 65536 ≠ 0 then xreply s 1 d 0x80000001
    else
      let meets := fun (base len : Nat) => x % 2 ^ 20 == 0 || (decide (base < last) && decide (off < base + len))
      let hit := fun (t : Tlb) => t.pkg == s.g.pkg && t.ctx == ctx && meets t.base t.len
      let s := { s with tlb := s.tlb.filter fun t => !hit t }
      match s.translated s.g.pkg ctx meets with
      | [] => xreply s 1 d 0
      | ids => pendReply s d (.accesses ids)

/-- The package of a cache unit, and whether it is an L1. -/
def unitPkg (u : Nat) : Nat := if u < 2 ^ 40 then u / 2 ^ 13 else (u - 2 ^ 40) / 16
def unitIsL1 (u : Nat) : Bool := decide (u < 2 ^ 40)

def execCinv (a i : BitVec 6) (n : Ann) (s : State) : Outcome State Fault Refusal :=
  issue (.cinv a i n) true s fun s =>
    let g := s.g
    let mine := fun (l : Line) => unitPkg l.unit == g.pkg
    let line := fun (s : State) (k : Nat) => Res.done (s.discardLine (fun u => unitPkg u == g.pkg) k)
    let all := fun (p : Line → Bool) => Res.done ((s.dropLines p).leaveNone fun _ => true)
    match i.toNat with
    | 0 =>
      match s.place g (g.s2 a.toNat) with
      | some (.home pkg off) =>
        if pkg ≠ g.pkg then
          let k := keyRemote g.ctx pkg off / 64 * 64
          line s k
        else match s.translate pkg g.ctx off 0 with
          | (some pa, s) => line s (keyPkg pkg pa / 64 * 64)
          | (none, _) => .trap 0x06 0 g.lowLane
      | _ => .trap 0x06 0 g.lowLane
    | 1 => all fun l => mine l && unitIsL1 l.unit
    | 2 => all fun l => mine l && !unitIsL1 l.unit
    | 3 => all mine
    | _ => .trap 0x01 0 g.lowLane

/-- TKT: one ACQREL RMW at PKG scope on a counter of the issuing package (R375). -/
def execTkt (d a b : BitVec 6) (n : Ann) (s : State) : Outcome State Fault Refusal :=
  issue (.tkt d a b n) true s fun s =>
    let g := s.g
    let va := g.s2 a.toNat
    if s.relWaits 4 then .hold
    else match s.place g va with
      | some (.home pkg off) =>
        if pkg ≠ g.pkg then .trap 0x06 0 g.lowLane
        else if va % 8 ≠ 0 then .trap 0x05 0 g.lowLane
        else match s.translate pkg g.ctx off 3 with
          | (none, _) => .trap 0x06 0 g.lowLane
          | (some pa, s) =>
            let k := keyPkg pkg pa
            if s.poisonedAt k 8 then .trap 0x0A 0 g.lowLane
            else
              let old := s.num k 8
              let (t, _) := s.storeHome g.id s.next k (bytesOf 8 ((old + (g.sreg b.toNat).toNat) % 2 ^ 64))
              xreply ((t.passCaches g.pkg g.core k (t.bytes k 8)).acquire g 4) 1 d (old % 2 ^ 32)
      | _ => .trap 0x06 0 g.lowLane

/-! ### HMSG (R369) -/

/-- The places of a message: region-0 memory of its package, translated at home (R107, R109, R369); the code of a trap where there
are none. -/
def State.messageKeys (s : State) (g : Group) (va n : Nat) : (Nat ⊕ List Nat) × State :=
  match s.place g va with
  | some (.home pkg off) =>
    if !(s.pkg pkg).member then (.inl 0x06, s)
    else if !s.reaches g.pkg pkg then (.inl 0x0E, s)
    else match s.translateSpan pkg g.ctx off 1 n with
      | (some ks, s) => (.inr ks, s)
      | (none, s) => (.inl 0x06, s)
  | _ => (.inl 0x06, s)

/-- HMSG: the message is read and sent; the host acknowledges it, or no port reaches it (log entry 1). -/
def execHmsg (d a b : BitVec 6) (n : Ann) (s : State) : Outcome State Fault Refusal :=
  issue (.hmsg d a b n) true s fun s =>
    let g := s.g
    let va := g.s2 a.toNat
    let len := (g.sreg b.toNat).toNat
    if s.relWaits 4 then .hold
    else if len % 16 ≠ 0 ∨ len < 16 ∨ 4096 < len ∨ va % 16 ≠ 0 then xreply s 1 d 0x80000001
    else match s.messageKeys g va len with
      | (.inl c, _) => .trap c 0 g.lowLane
      | (.inr ks, s) =>
        if !s.poison.isEmpty && ks.any fun k => s.poisonedAt k 1 then .trap 0x0A 0 g.lowLane
        else
          let msg := ks.map s.byte
          let s := s.acquire g 4
          let (reached, s) := s.pick 2
          if reached = 1 then xreply (s.tell g.pkg 0x100 msg) 1 d 0
          else
            let c : Cmd :=
              { id := s.next, engine := engineId 9 g.pkg g.core, pkg := g.pkg, core := g.core, gid := g.id, num := g.num, pc := g.pc, crew := 0, tile := none,
                ctx := g.ctx, bar := none, reply := some s.g.nextSb, time := s.time, sent := true, batch := 0, src := [], dst := [],
                hnds := [], kind := .hmsg msg }
            .done { s with g := s.g.post [(.s d.toNat, none)], cmds := s.cmds ++ [c], next := s.next + 1 }

/-- No port has reached the host within 1 ms (R369). -/
def execHmsgTimeout (cmd : Nat) (s : State) : Outcome State Fault Refusal :=
  .next (match s.cmd? cmd with
    | none => s
    | some c =>
      match c.kind with
      | .hmsg _ => if c.time + 10 ^ 6 ≤ s.time then (s.dropCmd cmd).cmdReply c 0x80000007 else s
      | _ => s)

end Sys2Proof.Machine
end

