-- ==== Sys2Proof/Machine/Save.lean ====
section
/-! DEFINITION. SAVE and RSTR (R191, R370, R413 to R419): the save area written and read, a crew taken off its core and put back. -/

namespace Sys2Proof.Machine

open Host (Outcome)

/-! ### Addresses in a save area -/

/-- A window address of level memory (R107, R110). -/
def windowVa (lvl off : Nat) : Nat := 15 * 2 ^ 60 + lvl * 2 ^ 57 + off

/-- The window address of a key in level memory, by the tiles above a tile. -/
def State.keyVa (s : State) (tile : Option Nat) (k : Nat) : Nat :=
  match [1, 2, 3].findSome? fun lv => (s.ancestor lv 9 tile).bind fun t => if t.holds k then some (windowVa lv (k - t.home)) else none with
  | some va => va
  | none => 0

/-- The key of a window address. -/
def State.vaKey (s : State) (tile : Option Nat) (va : Nat) : Option Nat :=
  (s.ancestor (field va 59 57) 9 tile).bind fun t => if va % 2 ^ 32 < t.memb then some (t.home + va % 2 ^ 32) else none

/-- BARLOC: a window address, or, for an object in package memory, its package and physical address plus 1; how the field names
the object is the model's choice (log entry 24). -/
def State.barLoc (s : State) (tile : Option Nat) (obj : Nat) : Nat :=
  if keyKind obj = 0 then (obj + 1) % 2 ^ 64 else s.keyVa tile obj
def State.barOf (s : State) (tile : Option Nat) (x : Nat) : Option Nat :=
  if x = 0 then none else if x % 2 = 1 then some (x - 1) else s.vaKey tile x

/-- Widths as R20 codes them. -/
def widthCode (w : Nat) : Nat := match w with | 8 => 0 | 16 => 1 | 32 => 2 | _ => 3

def zeros (n : Nat) : List Byte := List.replicate n 0
/-- Bytes up to the next multiple of n. -/
def padTo (n : Nat) (b : List Byte) : List Byte := b ++ zeros (ceilDiv b.length n * n - b.length)

/-! ### Group blocks (R415 to R417) -/

/-- The stack positions whose registers a lane's data holds (R416). -/
def savedPositions (kind live alloc : Nat) (l : Lane) : List Nat :=
  if kind = 0 then
    ((List.range (l.wb - 8 * l.mark)).map fun j => 8 * l.mark + j) ++ (bitsSet 64 live).map fun x => l.wb + x
  else (List.range (64 * alloc)).map fun j => 8 * l.mark + j

/-- A lane entry (R415). -/
def Group.laneEntry (g : Group) (l : Lane) : List Byte :=
  let v := fun (q : List PortVal) (k : Nat) => bytesOf 4 ((q[k]?.map fun e => e.val.toNat).getD 0)
  bytesOf 4 (g.alloc * 2 ^ 24 + l.mark * 2 ^ 12 + l.wb / 8) ++ bytesOf 4 l.origin.toNat ++ bytesOf 4 l.lfsr.toNat ++
  bytesOf 1 l.p.toNat ++ bytesOf 1 l.inP.length ++ bytesOf 1 l.inM.length ++ zeros 1 ++
  v l.inP 0 ++ v l.inP 1 ++ v l.inM 0 ++ v l.inM 1

/-- Depth of a link port's queues as its descriptor gives it. -/
def linkDepth (core port : Nat) : Nat := if linkDomain core port = 4 then 32 else 8

def Group.linkData (g : Group) (port : Nat) : Bool := g.linkq.any fun q => q.port == port && !q.vals.isEmpty

/-- The core, crew number and group number of a link partner, on its core or saved (R191). -/
def State.partnerAt (s : State) (gid : Nat) : Nat × Nat × Nat :=
  match s.group? gid with
  | some h => (h.core, ((s.crew? h.crew).map Crew.num).getD 0, h.num)
  | none => ((s.savedGroup? gid).map fun v => (v.1.core, v.1.num, v.2.num)).getD (0, 0, 0)

/-- A port descriptor (R417). -/
def State.portDesc (s : State) (g : Group) (port : Nat) : List Byte :=
  let (core, crew, num) := ((g.link? port).map fun l => s.partnerAt l.partner).getD (0, 0, 0)
  let flags := (if (g.link? port).isSome then 1 else 0) + (if linkDomain g.core port = 4 then 2 else 0) +
    (if g.linkData port then 4 else 0) + if ((g.link? port).map Link.byPlink).getD false then 8 else 0
  bytesOf 1 flags ++ bytesOf 1 (linkDepth g.core port) ++ bytesOf 2 core ++ bytesOf 1 crew ++ bytesOf 1 num ++
  bytesOf 2 ((((g.link? port).filter Link.byPlink).map Link.tag).getD 0) ++ zeros 8

/-- The queue data of one link port. -/
def Group.queueData (g : Group) (port : Nat) : List Byte :=
  if !g.linkData port then [] else
  (List.range g.width).flatMap fun l =>
    let q := g.portQ port l
    bytesOf 4 q.length ++ (List.range (linkDepth g.core port)).flatMap fun k => bytesOf 4 ((q[k]?.map fun e => e.val.toNat).getD 0)

/-- The VTAKE that a group waits in: its destination. -/
def Group.vtakeDst (g : Group) : Option Nat :=
  g.splits.findSome? fun p => match p.wait with
    | .vtake _ d => some d
    | _ => none

/-- A group's block (R415), padded to 256 bytes. -/
def State.groupBlock (s : State) (g : Group) : List Byte :=
  let st := g.stop.getD ⟨g.nextPc, 0, 1, 2 ^ 64 - 1, 0, 0⟩
  let split := fun (i : Nat) => match g.split? i with
    | some p => bytesOf 8 p.pc ++ bytesOf 8 p.mask
    | none => zeros 16
  let park := fun (q : Nat) => match g.parks[q]? with
    | some p => bytesOf 8 p.pc ++ bytesOf 8 p.mask
    | none => zeros 16
  let tail := (g.lanes.flatMap g.laneEntry) ++
    (g.lanes.flatMap fun l => (savedPositions st.kind st.live g.alloc l).flatMap fun p => bytesOf 4 (l.at p).toNat) ++
    [2, 3, 4, 5].flatMap g.queueData
  let len := 0x300 + tail.length
  padTo 256 (
    bytesOf 1 g.num ++ bytesOf 1 st.kind ++ bytesOf 1 st.skid ++ bytesOf 1 (g.parks.length * 8 + g.splits.length) ++
    bytesOf 4 g.mode.toNat ++ bytesOf 8 st.pc ++ bytesOf 8 (if st.kind = 0 then st.live else 2 ^ 64 - 1) ++
    bytesOf 8 ((g.arr.map fun a => s.barLoc g.tile a.obj).getD 0) ++ bytesOf 1 (if (g.arr.map ArrRec.parity).getD false then 1 else 0) ++
    bytesOf 1 (if g.vtakeDst.isSome then 1 else 0) ++ bytesOf 1 (g.vtakeDst.getD 0) ++ zeros 1 ++
    bytesOf 4 st.range0 ++ bytesOf 4 st.range1 ++ bytesOf 4 len ++
    [0, 1, 2, 3].flatMap split ++ (List.range 12).flatMap park ++
    (List.range 64).flatMap (fun i => bytesOf 4 (rget 0 g.s i).toNat) ++ (List.range 8).flatMap (fun i => bytesOf 4 (rget 0 g.f i).toNat) ++
    [2, 3, 4, 5].flatMap (s.portDesc g) ++ zeros 112 ++ tail)

/-! ### The crew section (R418) -/

/-- An item with its header. -/
def crewItem (type : Nat) (body : List Byte) : List Byte :=
  let b := padTo 8 body
  bytesOf 4 type ++ bytesOf 4 (8 + b.length) ++ b

/-- Ranges of the CORE allocation that a save covers: window offset and length (R418). -/
def Tile.coreRanges (t : Tile) (barobj : Nat) (gs : List Group) : List (Nat × Nat) :=
  if t.dom ≠ 1 then []
  else if gs.all fun g => (g.stop.map Stop.kind) == some 0 then
    let rs := gs.flatMap fun g => match g.stop with
      | some r => [r.range0, r.range1]
      | none => []
    (0x40, 32 * barobj) :: rs.map fun r =>
      let off := r / 2 ^ 16 * 256
      (off, min (r % 2 ^ 16 * 256) (t.memb - off))
  else [(0, t.memb)]

/-- The crew section of a crew and its tile, by the state before the crew's waiters left the vats and the one after, whose memory it is
(R413, R418). -/
def State.crewSection (s0 s : State) (c : Crew) (t : Tile) (barobj : Nat) (gs : List Group) : List Byte :=
  let cmem := ((t.coreRanges barobj gs).filter fun r => r.2 != 0).flatMap fun r =>
    crewItem 1 (bytesOf 4 r.1 ++ zeros 4 ++ s.bytes (t.home + r.1) r.2)
  let paths := s.bars.flatMap fun b => (b.kids.filter fun k => t.holds k || t.holds b.obj).map fun k => (b.obj, k)
  let barpath := if paths.isEmpty then [] else
    crewItem 2 (paths.flatMap fun p => bytesOf 8 (s.barLoc (some t.id) p.1) ++ bytesOf 8 (s.barLoc (some t.id) p.2))
  let mine := fun (w : Nat × Nat × Nat) => gs.find? fun g => g.id == w.1
  let vatw := s0.vats.flatMap fun v =>
    let ws := v.waiters.filterMap fun w => (mine w).map fun g => bytesOf 2 (g.num + w.2.2 * 2 ^ 8)
    if ws.isEmpty then [] else crewItem 3 (bytesOf 8 (s.keyVa (some t.id) v.vat) ++ ws.flatten)
  let streams := (s.streams.filter fun x => x.crew == c.id).flatMap fun x =>
    crewItem 4 (bytesOf 8 (windowVa (refLevel x.progRef) (refOffset x.progRef)) ++ bytesOf 8 (s.keyVa (some t.id) x.vat) ++
      bytesOf 4 x.barRef ++ bytesOf 4 x.n ++ bytesOf 8 (foldStatus 0 x.fold))
  let tsigs := c.tsigs.flatMap fun x => crewItem 5 (bytesOf 8 x.time ++ bytesOf 4 x.ref ++ zeros 4)
  let es := s.exts.filter fun e => e.pkg == c.pkg && e.core == c.core && (e.crew == c.id || e.users.contains c.id)
  let cellar := if es.isEmpty then [] else crewItem 6 (es.flatMap fun e =>
    bytesOf 8 (e.head + e.key * 2 ^ 6 + (if e.pin then 2 ^ 22 else 0) + if e.shnd ≠ 0 then 2 ^ 23 else 0))
  padTo 256 (cmem ++ barpath ++ vatw ++ streams ++ tsigs ++ cellar ++ zeros 8)

/-- The whole save area (R414). -/
def State.saveArea (s : State) (c : Crew) (t : Tile) (tr : Tree) : List Byte :=
  let gs := (s.groupsOf c.id).filter fun g => g.live != 0
  let blocks := (List.range 16).map fun n => ((gs.find? fun g => g.num == n).map s.groupBlock).getD []
  let offs := (List.range 16).map fun n => if (blocks.getD n []).isEmpty then 0
    else 256 + (blocks.take n).foldl (fun a b => a + b.length) 0
  let body := blocks.flatten
  let sec := s.crewSection (s.dropWaiters fun gid => gs.any fun g => g.id == gid) c t (tr.level t.depth).barobj gs
  let g := c.guard
  let bound := gs.any fun g => !g.links.isEmpty
  bytesOf 2 1 ++ bytesOf 1 gs.length ++ bytesOf 1 (widthCode c.width) ++ bytesOf 2 c.ctx ++ bytesOf 1 c.regs ++
  bytesOf 1 ((if bound || tr.portSet t.depth then 1 else 0) + if g.isSome then 2 else 0) ++ bytesOf 8 tr.rcd.addr ++ bytesOf 4 c.lgen ++ bytesOf 2 t.idx ++
  bytesOf 2 c.core ++ bytesOf 1 t.depth ++ bytesOf 1 t.reln ++ zeros 2 ++ bytesOf 4 (if t.dom = 1 then t.memb else 0) ++
  bytesOf 8 s.time ++ bytesOf 4 (256 + body.length) ++ bytesOf 4 (256 + body.length + sec.length) ++
  bytesOf 8 ((s.core c.pkg c.core).spill c.num) ++ zeros 8 ++ offs.flatMap (bytesOf 4) ++
  bytesOf 8 ((g.map GuardRec.pc).getD 0) ++ bytesOf 4 ((g.map GuardRec.offset).getD 0) ++ bytesOf 2 ((g.map GuardRec.bank).getD 0) ++
  bytesOf 1 ((g.map GuardRec.group).getD 0) ++ bytesOf 1 ((g.map GuardRec.level).getD 0) ++ bytesOf 4 ((g.map GuardRec.count).getD 0) ++
  zeros 108 ++ body ++ sec

/-! ### SAVE (R370, R413) -/

/-- What a save waits for: port values landed, stores done, commands arrived, streams told to stop ended, results landed, faults
reported (R413). -/
def State.saveWaits (s : State) (c : Crew) : Bool :=
  let gs := s.groupsOf c.id
  let flying := fun (q : List PortVal) => q.any fun v => !v.landed
  (gs.any fun g => !g.sq.isEmpty || !g.unacked.isEmpty || !g.readPend.isEmpty || !g.sb.isEmpty ||
    s.underWay g.id || s.pushing g.id || (g.linkq.any fun q => flying q.vals) || g.lanes.any fun l => flying l.inP || flying l.inM) ||
  (s.cmds.any fun x => x.crew == c.id) || (s.streams.any fun x => x.crew == c.id && x.stopping) || s.imprecise.any fun r => r.crewId == c.id && decide (r.kind ≤ 4)

/-- The crews of a set with a crew that are not halted (R370). -/
def State.setUnhalted (s : State) (c : Crew) : Bool :=
  (s.takenWith (s.tiles.length + 1) [c.id]).any fun id => ((s.crew? id).map fun x => x.st != .halted && x.st != .busy).getD false

/-- A key of memory that moves with its tile. -/
def movedKey (a b n k : Nat) : Nat := if a ≤ k ∧ k < a + n then k - a + b else k
def movedSpans (a b n : Nat) (sp : List (Nat × Nat)) : List (Nat × Nat) := sp.map fun q => (movedKey a b n q.1, q.2)

/-- A group's waits, record and commands name memory that has moved. -/
def Group.moved (a b n : Nat) (g : Group) : Group :=
  let m := movedKey a b n
  { g with
    arr := g.arr.map fun (r : ArrRec) => { r with obj := m r.obj }
    splits := g.splits.map fun (p : Split) => match p.wait with
      | .barrier o d q => { p with wait := .barrier (m o) d q }
      | .vtake v d => { p with wait := .vtake (m v) d }
      | _ => p
    unretired := g.unretired.map fun (u : Unretired) =>
      { u with src := movedSpans a b n u.src, dst := movedSpans a b n u.dst, phases := u.phases.map fun q => (m q.1, q.2) } }

/-- What the device holds about n bytes of memory follows them to another place: barrier objects, vats, ranges of commands. -/
def State.moved (s : State) (a b n : Nat) : State :=
  let m := movedKey a b n
  let who := fun (w : Arriver) => match w with
    | .child k => Arriver.child (m k)
    | _ => w
  { s with
    bars := s.bars.map fun (d : BarDev) => { d with obj := m d.obj, kids := d.kids.map m, queue := d.queue.map fun (q : Fold × Arriver) => (q.1, who q.2) }
    liveBars := s.liveBars.map m
    wildBars := s.wildBars.map m
    vats := s.vats.map fun (v : VatDev) => { v with vat := m v.vat }
    cmds := s.cmds.map fun (c : Cmd) => { c with src := movedSpans a b n c.src, dst := movedSpans a b n c.dst }
    taint := s.taint.map fun (q : Nat × Nat) => (q.1, m q.2)
    mixed := s.mixed.map fun (q : Nat × Nat × Byte) => (q.1, m q.2.1, q.2.2) }.mapGroups fun g => g.moved a b n

/-- The live barrier objects among n bytes of memory go with them; what else the bytes held stays behind. -/
def State.carryBars (s : State) (a b n : Nat) : State :=
  (s.liveBars.filter fun o => decide (a ≤ o) && decide (o < a + n)).foldl (fun (s : State) o =>
    (s.setBytes (movedKey a b n o) (s.bytes o 32)).setBytes o (List.replicate 32 Config.unwritten)) s

/-- Memory that moves with all that the device holds about it. -/
def State.carry (s : State) (a b n : Nat) : State := (s.carryBars a b n).moved a b n

/-- The core memory of a tile leaves the core: what inner tiles of it hold stays until they leave too, each keeping its place in the
pool (R22, R412). -/
def State.carryOff (s : State) (t : Tile) : State :=
  let away := savedHome t.id
  let inner := s.tiles.filter fun x => x.parent == some t.id && x.dom == 1 && !x.away
  let s := inner.foldl (fun (s : State) x =>
    (s.carry (away + (x.home - t.home)) x.home x.memb).modTile x.id fun x => { x with va := x.home - t.home + 1 }) (s.carry t.home away t.memb)
  let o := (t.parent.bind s.tile?).bind fun p => if p.dom = 1 ∧ !p.away then some (t.home - p.home) else none
  s.modTile t.id fun t => { t with home := away, va := (o.map (· + 1)).getD t.va }

/-- What the device keeps of a group that leaves its core (R166, R191, R309, R312, R355). -/
def Group.kept (g : Group) : SavedGroup :=
  { num := g.num, gid := g.id, tile := g.tile, links := g.links,
    parked := g.splits.filter fun p => match p.wait with
      | .barrier _ _ _ => true
      | .vtake _ _ => true
      | _ => false
    arr := g.arr, tracked := (g.arr.map ArrRec.queued).getD false, unretired := g.unretired, spans := g.lanes.map Lane.spans,
    colls := g.colls }

/-- A crew leaves its core: its groups, streams, waiters and core memory go with it; its tiles remain in their trees, and flips still
reach its linked objects (R309, R312). -/
def State.takeOff (s : State) (c : Crew) (t : Tile) : State :=
  let gids := (s.groupsOf c.id).map Group.id
  let s := s.dropWaiters fun gid => gids.contains gid
  let s := if t.dom = 1 then s.carryOff t else s
  let sv : Saved :=
    { crew := c.id, pkg := c.pkg, core := c.core, num := c.num, ctx := c.ctx, lgen := c.lgen, tile := t.id,
      groups := ((s.groupsOf c.id).filter fun g => g.live != 0).map Group.kept
      streams := (s.streams.filter fun x => x.crew == c.id).map fun x => (x.progRef, x.num, x.pc) }
  let s := s.dropGroups fun g => g.crew == c.id && !g.priv
  let s := { s with
    crews := s.crews.filter fun x => x.id != c.id
    streams := s.streams.filter fun x => x.crew != c.id
    saved := sv :: s.saved }
  s.modCore c.pkg c.core fun x => { x with preq := x.preq &&& (2 ^ 64 - 1 - 2 ^ c.num) }

/-- A save whose waits are over: its reply, and the crew off its core unless its area is not to be written (R370). -/
def State.finishSave (s : State) (g : Group) (c : Crew) (va : Nat) : Nat × State :=
  let free := fun (s : State) => s.modCrew c.id fun c => { c with st := .halted }
  match c.tile.bind s.tile?, (c.tile.bind s.tile?).bind s.treeOf with
  | some t, some tr =>
    let area := s.saveArea c t tr
    match s.localKeys g va area.length 2 with
    | (none, s) => (0x80000003, free s)
    | (some ks, s) =>
      let s := (ks.zip area).foldl (fun (s : State) kb => s.groupStore g.id s.next kb.1 kb.2) s
      (0, s.takeOff c t)
  | _, _ => (0x80000002, free s)

/-- SAVE: refused, done at once, or its reply to come with the crew BUSY until then (R370, R413). -/
def execSave (d a b : BitVec 6) (n : Ann) (s : State) : Outcome State Fault Refusal :=
  issue (.save d a b n) true s fun s =>
    let g := s.g
    let va := g.s2 b.toNat
    match s.crewNamed (g.sreg a.toNat).toNat with
    | .inl c => xreply s 1 d c
    | .inr oc =>
      if va % 256 ≠ 0 then xreply s 1 d 0x80000001
      else match oc with
        | none => xreply s 1 d 0x80000002
        | some c =>
          if s.crewBusy c then .wait s .crewop
          else if c.st ≠ .halted then xreply s 1 d 0x80000002
          else if s.setUnhalted c then
            match s.localKeys g va 256 2 with
            | (none, s) => xreply s 1 d 0x80000003
            | (some _, s) => xreply s 1 d 0x80000004
          else if s.saveWaits c then pendReply (s.modCrew c.id fun c => { c with st := .busy }) d (.save c.id va)
          else
            let (w, s) := s.finishSave g c va
            xreply s 1 d w

/-! ### Pending replies (R72, R370, R373) -/

/-- A pending operation settles once what it waits for is over; a HALTCR does when its crew halts. -/
def State.settle (s : State) (o : SysOp) : State :=
  match o.kind with
  | .halt _ => s
  | .accesses ids => if (s.net.any fun p => ids.contains p.id) || s.cmds.any fun c => ids.contains c.id then s else s.sysReply o 0
  | .save crew va =>
    match s.crew? crew with
    | none => s.sysReply o 0x80000002
    | some c =>
      if s.saveWaits c then s else
      let (w, s) := s.finishSave ((s.group? o.gid).getD { Group.empty with pkg := c.pkg, core := c.core }) c va
      s.sysReply o w

/-- A scoreboarded result whose values are known lands (R72); the reply of a pending operation becomes known when that settles. -/
def execScoreboardLand (gid sb : Nat) (s : State) : Outcome State Fault Refusal :=
  .next (match s.sysops.find? fun o => o.gid == gid && o.sb == sb with
    | some o => s.settle o
    | none => s.modGroup gid fun g => g.landed sb)

/-! ### RSTR (R419) -/

/-- Positions and words in order from a byte offset. -/
def wordsAt (b : List Byte) (o n : Nat) : List Word := (List.range n).map fun j => BitVec.ofNat 32 (leField b (o + 4 * j) 4)

/-- Port values read back; they have landed, and each was a release's (log entry 24). -/
def queueOf (ws : List Word) : List PortVal := ws.map fun w => ⟨w, true, true, [], false⟩

/-- A lane from its entry and its register data at an offset; the lane, and where the next lane's data begins. -/
def laneFrom (e b : List Byte) (o kind live alloc seed : Nat) : Lane × Nat :=
  let stack := leField e 0 4
  let l : Lane :=
    { Lane.start seed (leField e 4 4) (leField e 8 4) with
      wb := stack % 2 ^ 12 * 8, mark := stack / 2 ^ 12 % 2 ^ 12, p := BitVec.ofNat 8 (leField e 0x0C 1) ||| 1,
      inP := queueOf (wordsAt e 0x10 (min 2 (leField e 0x0D 1))), inM := queueOf (wordsAt e 0x18 (min 2 (leField e 0x0E 1))) }
  let ps := savedPositions kind live alloc l
  let v := (ps.zip (wordsAt b o ps.length)).foldl (fun m e => rput m e.1 e.2) []
  ({ l with v := v }, o + 4 * ps.length)

/-- The lanes of a block, in order. -/
def lanesFrom (b : List Byte) (width kind live alloc seed : Nat) : List Lane × Nat :=
  (List.range width).foldl (fun (a : List Lane × Nat) i =>
    let (l, o) := laneFrom ((b.drop (0x300 + 32 * i)).take 32) b a.2 kind live alloc (seed + i)
    (a.1 ++ [l], o)) ([], 0x300 + 32 * width)

/-- The link queues of a block from an offset. -/
def linkqFrom (b : List Byte) (core width o : Nat) : List LinkQueue × Nat :=
  ([2, 3, 4, 5].filter fun p => flag (leField b (0x250 + 16 * (p - 2)) 1) 2).foldl (fun (a : List LinkQueue × Nat) p =>
    let dep := linkDepth core p
    let qs := (List.range width).map fun l =>
      let q := a.2 + l * (4 + 4 * dep)
      (⟨p, l, queueOf (wordsAt b (q + 4) (min dep (leField b q 4)))⟩ : LinkQueue)
    (a.1 ++ qs.filter fun q => !q.vals.isEmpty, a.2 + width * (4 + 4 * dep))) ([], o)

/-- A group from its block: stopped as it was, its waits to be looked at again. -/
def State.groupFrom (s : State) (sv : Saved) (c : Crew) (t : Tile) (b : List Byte) : Group :=
  let kind := leField b 1 1
  let live := leField b 0x10 8
  let num := leField b 0 1
  let known := sv.groups.find? fun x => x.num == num
  let (lanes, o) := lanesFrom b c.width kind live c.regs s.free
  let (linkq, _) := linkqFrom b sv.core c.width o
  let splits := ([0, 1, 2, 3].map fun i => (⟨i, leField b (0x30 + 16 * i) 8, leField b (0x38 + 16 * i) 8, .none, 0, 0⟩ : Split)).filter
    fun p => p.mask != 0
  let parks := ((List.range (field (leField b 3 1) 6 3)).map fun q =>
    (⟨leField b (0x70 + 16 * q) 8, leField b (0x78 + 16 * q) 8⟩ : Park)).filter fun p => p.mask != 0
  let s1 := fun (n : Nat) => (List.range 64).foldl (fun m i =>
    let w := BitVec.ofNat 32 (leField b (n + 4 * i) 4); if w = 0 ∨ i = 0 then m else rput m i w) ([] : RegMap)
  let f1 := (List.range 8).foldl (fun m i => let w := BitVec.ofNat 32 (leField b (0x230 + 4 * i) 4); if w = 0 then m else rput m i w) ([] : RegMap)
  let arr := (s.barOf (some t.id) (leField b 0x18 8)).map fun o => (⟨o, flag (leField b 0x20 1) 0, false⟩ : ArrRec)
  let spans := (known.map SavedGroup.spans).getD []
  { Group.empty with
    id := (known.map SavedGroup.gid).getD s.next
    pkg := c.pkg
    core := c.core
    crew := c.id
    num := num
    width := c.width
    alloc := c.regs
    ctx := c.ctx
    tile := (known.bind SavedGroup.tile).or (some t.id)
    age := s.next
    lanes := ((List.range lanes.length).zip lanes).map fun il => { il.2 with spans := spans.getD il.1 [] }
    s := s1 0x130
    f := f1
    mode := BitVec.ofNat 32 (leField b 4 4)
    splits := splits
    parks := parks
    cur := (splits.head?.map Split.idx).getD 0
    arr := if (known.map SavedGroup.tracked).getD false then known.bind SavedGroup.arr else arr
    unretired := (known.map SavedGroup.unretired).getD []
    colls := (known.map SavedGroup.colls).getD []
    stop := some ⟨leField b 8 8, leField b 2 1, kind, live, leField b 0x24 4, leField b 0x28 4⟩
    links := (known.map SavedGroup.links).getD []
    linkq := linkq }

/-- The blocks of an area by group number. -/
def areaBlocks (b : List Byte) : List (Nat × List Byte) :=
  ((List.range 16).filter fun n => leField b (0x40 + 4 * n) 4 != 0).map fun n =>
    let o := leField b (0x40 + 4 * n) 4
    (n, (b.drop o).take (leField b (o + 0x2C) 4))

/-- The items of a crew section, by fuel: type and body. -/
def crewItems : Nat → List Byte → Option (List (Nat × List Byte))
  | 0, _ => none
  | k + 1, b =>
    let type := leField b 0 1
    let len := leField b 4 4
    if b.length < 8 ∨ leField b 1 3 ≠ 0 ∨ 6 < type then none
    else if type = 0 then some []
    else if len < 8 ∨ len % 8 ≠ 0 ∨ b.length < len then none
    else (crewItems k (b.drop len)).map fun r => (type, (b.drop 8).take (len - 8)) :: r

/-- The res0 bits of an item's body are zero (R418). -/
def itemOk (type : Nat) (body : List Byte) : Bool :=
  match type with
  | 1 => zeroAt body 4 4
  | 5 => zeroAt body 12 4
  | _ => true

/-- The checks of R419 on an area; its crew section's items when it passes. -/
def areaCheck (b : List Byte) : Option (List (Nat × List Byte)) :=
  let total := leField b 0x2C 4
  let xoff := leField b 0x28 4
  let bs := areaBlocks b
  let width := 8 * 2 ^ leField b 3 1
  let fits := fun (n : Nat) (k : List Byte) =>
    let o := leField b (0x40 + 4 * n) 4
    o % 256 == 0 && decide (256 ≤ o) && decide (o + k.length ≤ total) && decide (0x300 + 32 * width ≤ k.length) && leField k 0 1 == n &&
    decide (leField k 1 1 < 3) && decide (leField k 2 1 < 9) && decide (leField k 3 1 < 128) && decide (leField k 0x20 1 < 2) &&
    decide (leField k 0x21 1 < 2) && leField k 0x23 1 == 0 && zeroAt k 0x290 112 &&
    ([0, 1, 2, 3].all fun p => decide (leField k (0x250 + 16 * p) 1 < 16) && zeroAt k (0x258 + 16 * p) 8) &&
    (List.range width).all fun i => leField k (0x30F + 32 * i) 1 == 0
  if leField b 0 2 ≠ 1 ∨ 3 < leField b 3 1 ∨ 4095 < leField b 4 2 ∨ 15 < leField b 6 1 ∨ 3 < leField b 7 1 ∨ 7 < leField b 0x18 1 ∨
      leField b 0x1A 2 ≠ 0 ∨ leField b 0x38 8 ≠ 0 ∨ 7 < leField b 0x8F 1 ∨ !zeroAt b 0x94 108 ∨ leField b 2 1 ≠ bs.length ∨
      total ≠ b.length ∨ xoff % 256 ≠ 0 ∨ total < xoff ∨ xoff < 256 ∨ !bs.all fun nk => fits nk.1 nk.2 then none
  else (crewItems 4096 (b.drop xoff)).filter fun items => items.all fun it => itemOk it.1 it.2

/-- The core may take the crew: the unit of its tile, the core it left when extents hold it there, and link partners across
links of the same class (R191, R419). -/
def State.coreFits (s : State) (sv : Saved) (t : Tile) (items : List (Nat × List Byte)) (core : Nat) : Bool :=
  let held := (items.any fun it => it.1 == 6 && (List.range (it.2.length / 8)).any fun j => !flag (leField it.2 (8 * j) 8) 23) ||
    s.exts.any fun e => e.pkg == sv.pkg && e.core == sv.core && (e.crew == sv.crew || e.users.contains sv.crew)
  let unit := match t.dom with
    | 2 => cluOf core == cluOf sv.core
    | 3 => dieOf core == dieOf sv.core
    | _ => true
  unit && (!held || core == sv.core) &&
  sv.groups.all fun g => g.links.all fun l =>
    (linkCore core l.port).isSome && linkDomain core l.port == linkDomain sv.core l.port &&
    match s.group? l.partner with
    | some h => linkCore core l.port == some h.core
    | none => true

/-- The split of a restored group that waited at a vat: the one kept, or its first (R413, R418). -/
def Saved.vatSplit (sv : Saved) (g : Group) : Option Nat :=
  ((sv.groups.find? fun k => k.gid == g.id).bind fun k => (k.parked.find? fun p => match p.wait with
    | .vtake _ _ => (g.split? p.idx).isSome
    | _ => false).map Split.idx).or (g.splits.head?.map Split.idx)

/-- What the items of a crew section put back: core memory, return paths, vat waiters, streams, signals. -/
def State.putItem (s : State) (sv : Saved) (c : Crew) (t : Tile) (gs : List Group) (it : Nat × List Byte) : State :=
  let b := it.2
  match it.1 with
  | 1 => if t.dom = 1 then s.setBytes (t.home + leField b 0 4) ((b.drop 8).take (t.memb - leField b 0 4)) else s
  | 2 => (List.range (b.length / 16)).foldl (fun (s : State) j =>
      match s.barOf (some t.id) (leField b (16 * j) 8), s.barOf (some t.id) (leField b (16 * j + 8) 8) with
      | some p, some k => s.modBarDev p fun d => { d with kids := if d.kids.contains k then d.kids else d.kids ++ [k] }
      | _, _ => s) s
  | 3 =>
    match s.vaKey (some t.id) (leField b 0 8) with
    | none => s
    | some vat => (List.range ((b.length - 8) / 2)).foldl (fun (s : State) j =>
        let x := leField b (8 + 2 * j) 2
        let g := gs.find? fun g => g.num == x % 16
        match g.bind fun g => (sv.vatSplit g).map fun i => (g.id, i, x / 2 ^ 8 % 64) with
        | some w =>
          if x = 0 ∧ (s.vatDev vat).waiters.any fun v => v.1 == w.1 then s else
          let s := s.setWaiters vat ((s.vatDev vat).waiters ++ [w])
          let s := s.modGroup w.1 fun g => g.modSplit w.2.1 fun p => { p with wait := .vtake vat w.2.2 }
          s.setVatField vat 0x16 2 (s.vatField vat 0x16 2 + 1)
        | none => s) s
  | 4 =>
    let va := leField b 0 8
    let lv := field va 59 57
    match s.vaKey (some t.id) va, s.vaKey (some t.id) (leField b 8 8), s.ancestor lv 9 (some t.id) with
    | some pk, some vat, some w =>
      let p := s.bytes pk 64
      let ref := lv * 2 ^ 30 + va % 2 ^ 30
      let by_ := ((sv.streams.find? fun q => q.1 == ref).map Prod.snd).getD (0, 0)
      match s.refBarrier c.ctx (some t.id) (leField b 16 4) with
      | none => s
      | some bar =>
        let x : Stream :=
          { id := s.next, engine := streamEngine w, pkg := c.pkg, ctx := c.ctx, crew := c.id, num := by_.1, pc := by_.2, tile := t.id, wtile := w.id,
            drain := vatDrain (s.vatCtl vat), prog := p, progRef := ref, vat := vat, bar := bar, barRef := leField b 16 4,
            hnd := s.handle? c.pkg c.ctx (leField p 0 2), n := leField b 20 4, fold := statusFold (leField b 24 8), stopping := false,
            killed := false }
        { s with streams := s.streams ++ [x], next := s.next + 1 }
    | _, _, _ => s
  | 5 =>
    let time := leField b 0 8
    s.modCrew c.id fun c => { c with tsigs := c.tsigs ++ [⟨time, leField b 8 4, decide (time ≤ s.time)⟩] }
  | _ => s

/-- A restored split that waited at a barrier waits again under its group's record: for the phase it names, which may have
completed meanwhile, for its own arrival to fold, or for the next flip (R309, R311, R312). -/
def State.rewait (s : State) (a b n : Nat) (v : SavedGroup) : State :=
  v.parked.foldl (fun (s : State) p =>
    match p.wait, s.group? v.gid with
    | .barrier o d q, some g =>
      if ((g.split? p.idx).map Split.pc) ≠ some p.pc then s else
      let o := movedKey a b n o
      let mine := (g.arr.filter fun r => r.obj == o)
      let q := (mine.map ArrRec.queued).getD q
      let s := s.modGroup v.gid fun g => g.modSplit p.idx fun x => { x with wait := .barrier o d q }
      if !q && (mine.map fun r => barPh (s.barWord o 0) != r.parity).getD false then
        s.endBarWait true v.gid p.idx o d (s.barWord o 3)
      else s
    | _, _ => s) s

/-- The crew of an area is put on a core under a number, HALTED, with a new launch generation (R410, R419). -/
def State.putBack (s : State) (sv : Saved) (t : Tile) (b : List Byte) (items : List (Nat × List Byte)) (core num slot : Nat)
    (blocks : List (Nat × Nat)) (home : Nat) : State :=
  let (gen, s) := s.nextLgen sv.pkg core
  let guard := if flag (leField b 7 1) 1 then
    some (⟨0, leField b 0x8E 1, leField b 0x80 8, leField b 0x8F 1, leField b 0x88 4, leField b 0x8C 2, leField b 0x90 4⟩ : GuardRec) else none
  let c : Crew :=
    { id := sv.crew, pkg := sv.pkg, core := core, num := num, ctx := leField b 4 2, st := .halted, tile := some sv.tile, slot := slot,
      blocks := blocks, regs := leField b 6 1, width := 8 * 2 ^ leField b 3 1, lgen := gen, guard := guard, tsigs := [], event := none,
      preqAt := none, restored := true }
  let s := { s with crews := s.crews ++ [c], saved := s.saved.filter fun v => v.crew != sv.crew }
  let s := s.modCore sv.pkg core fun x => x.setSpill num (leField b 0x30 8)
  let s := if t.dom = 1 then
      (s.modTile t.id fun t => { t with home := home, va := 0 }).spoil home t.memb
    else s
  let move := fun (x : Tile) => if x.crew = sv.crew then { x with core := core } else x
  let s := { s with tiles := s.tiles.map move }
  let t := (s.tile? t.id).getD t
  -- core memory first: what follows reads it
  let s := (items.filter fun it => it.1 == 1).foldl (fun (s : State) it => s.putItem sv c t [] it) s
  let off := savedHome t.id
  let s := if t.dom = 1 then s.carryBars off home t.memb else s
  let (gs, s) := (areaBlocks b).foldl (fun (a : List Group × State) nb =>
    let g := a.2.groupFrom sv c t nb.2
    (a.1 ++ [g], { a.2.addGroup g with free := a.2.free + 64, next := a.2.next + 1 })) (([] : List Group), s)
  let s := if t.dom = 1 then s.moved off home t.memb else s
  let s := (items.filter fun it => it.1 != 1).foldl (fun (s : State) it => s.putItem sv c t gs it) s
  sv.groups.foldl (fun (s : State) v => s.rewait off (if t.dom = 1 then home else off) t.memb v) s

/-- Where the core memory of a saved tile goes: its place in its parent's pool, or free core memory. -/
def State.coreSeat (s : State) (t : Tile) (pkg core : Nat) : Option Nat :=
  if t.dom ≠ 1 then some 0
  else if t.va ≠ 0 then
    match t.parent.bind s.tile? with
    | some p => if p.away ∨ p.core ≠ core then none else some (p.home + (t.va - 1))
    | none => none
  else
    let k := levelKey pkg core 1
    let used := (s.tiles.filter fun x => x.dom == 1 && decide (k ≤ x.home) && decide (x.home < k + s.levelSize pkg core 1)).map
      fun x => (x.home - k, x.memb)
    (fitSpan 0 (s.levelSize pkg core 1) t.memb used).map fun o => k + o

/-- RSTR with an area whose bytes have been read. -/
def rstrArea (s : State) (d : BitVec 6) (num : Nat) (b : List Byte) : Res :=
  let g := s.g
  match areaCheck b with
  | none => xreply s 1 d 0x80000006
  | some items =>
    match s.saved.find? fun v => v.pkg == g.pkg && v.core == leField b 0x16 2 && v.lgen == leField b 0x10 4 && v.ctx == leField b 4 2 with
    | none => xreply s 1 d 0x80000006
    | some sv =>
      match s.tile? sv.tile with
      | none => xreply s 1 d 0x80000006
      | some t =>
        if !s.coreFits sv t items g.core then xreply s 1 d 0x80000005
        else
          let proto : Crew :=
            { id := sv.crew, pkg := sv.pkg, core := g.core, num := num, ctx := sv.ctx, st := .halted, tile := some t.id, slot := 0, blocks := [],
              regs := leField b 6 1, width := 8 * 2 ^ leField b 3 1, lgen := 0, guard := none, tsigs := [], event := none,
              preqAt := none, restored := true }
          match s.placeCrew proto (leField b 6 1) (leField b 2 1), s.coreSeat t g.pkg g.core with
          | some (slot, blocks), some home => xreply (s.putBack sv t b items g.core num slot blocks home) 1 d 0
          | _, _ => xreply s 1 d 0x80000005

/-- RSTR (R370, R419). -/
def execRstr (d a b : BitVec 6) (n : Ann) (s : State) : Outcome State Fault Refusal :=
  issue (.rstr d a b n) true s fun s =>
    let g := s.g
    let va := g.s2 b.toNat
    let x := (g.sreg a.toNat).toNat
    match s.crewNamed x with
    | .inl c => xreply s 1 d c
    | .inr oc =>
      if va % 256 ≠ 0 then xreply s 1 d 0x80000001
      else match oc with
        | some c => if s.crewBusy c then .wait s .crewop else xreply s 1 d 0x80000002
        | none =>
          match s.localKeys g va 256 1 with
          | (none, s) => xreply s 1 d 0x80000003
          | (some hs, s) =>
            let h := hs.map s.byte
            let total := leField h 0x2C 4
            if total < 256 ∨ 2 ^ 24 < total then xreply s 1 d 0x80000006
            else match s.localKeys g va total 1 with
              | (none, s) => xreply s 1 d 0x80000003
              | (some ks, s) => rstrArea s d x (ks.map s.byte)

end Sys2Proof.Machine
end

