-- ==== Sys2Proof/Machine/Queue.lean ====
section
/-! DEFINITION. Queues (R19 to R21, R320, R376 to R386): descriptors, kicks, launch records, packets and their start. -/

namespace Sys2Proof.Machine

open Host (Outcome)

/-! ### Descriptors (R376 to R378) -/

def State.queueKey (s : State) (pkg q : Nat) : Nat := keyPkg pkg ((s.pkg pkg).pctx + 64 * q)
def State.qField (s : State) (pkg q off len : Nat) : Nat := s.num (s.queueKey pkg q + off) len
def State.setQField (s : State) (pkg q off len x : Nat) : State := s.setNum (s.queueKey pkg q + off) len x

def State.qState (s : State) (pkg q : Nat) : Nat := s.qField pkg q 0x0E 1
def State.qCtx (s : State) (pkg q : Nat) : Nat := s.qField pkg q 0x0A 2 % 2 ^ 12
def State.qSlot (s : State) (pkg q : Nat) : Nat := s.qField pkg q 0x0C 2 % 2 ^ 9
def State.qRing (s : State) (pkg q : Nat) : Nat := 2 ^ (s.qField pkg q 0x08 1 % 2 ^ 5)
def State.qPrio (s : State) (pkg q : Nat) : Nat := s.qField pkg q 0x09 1 % 2 ^ 3
def State.qRidx (s : State) (pkg q : Nat) : Nat := s.qField pkg q 0x10 8
def State.qWidx (s : State) (pkg q : Nat) : Nat := s.qField pkg q 0x18 8
def State.qClaim (s : State) (pkg q : Nat) : Nat := s.qField pkg q 0x30 8

/-- A queue enters ERROR and the error is reported (R378, R407). -/
def State.queueError (s : State) (pkg q err tag : Nat) : State :=
  let ridx := s.qRidx pkg q
  let r : Imprecise :=
    { kind := 5, code := err, pkg := pkg, core := 0, crewId := 0, crew := 0, gid := 0, group := 0, ctx := s.qCtx pkg q,
      lgen := 0, pc := 0, addr := ridx, target := 0, queue := q, tag := tag }
  let s := ((s.setQField pkg q 0x0E 1 2).setQField pkg q 0x0F 1 err).setQField pkg q 0x28 8 ridx
  { s with imprecise := s.imprecise ++ [r] }

/-! ### Packets (R382) -/

def pktType (b : List Byte) : Nat := leField b 0 1
def pktTag (b : List Byte) : Nat := leField b 4 4
/-- The packet waits for every earlier one (R382, R383). -/
def pktFenced (b : List Byte) : Bool := flag (leField b 1 1) 0 || pktType b == 4

/-- Fields of each body: offset and size. -/
def pktFields (ty : Nat) : List (Nat × Nat) :=
  match ty with
  | 1 => [(8, 16)]
  | 2 => [(8, 16), (0x18, 1), (0x1A, 2), (0x20, 8)]
  | 3 => [(8, 2), (0x10, 24)]
  | 4 => [(8, 2), (0x0C, 4), (0x10, 16)]
  | 5 => [(0x10, 8)]
  | _ => []

/-- The error of a malformed packet, or 0: its type, then its res0 bits, with them the reserved codes of its fields. -/
def pktErr (b : List Byte) : Nat :=
  let ty := pktType b
  let listed := fun (o : Nat) => (pktFields ty).any fun f => decide (f.1 ≤ o) && decide (o < f.1 + f.2)
  if 5 < ty then 1
  else if leField b 1 1 / 2 != 0 || leField b 2 2 != 0 || (List.range 120).any fun j => !listed (8 + j) && leField b (8 + j) 1 != 0 then 2
  else if (ty == 3 && (decide (1 < leField b 8 1) || (leField b 8 1 == 0 && decide (3 < leField b 9 1)))) ||
      (ty == 4 && (decide (1 < leField b 8 1) || decide (1 < leField b 9 1) || (leField b 8 1 == 1 && leField b 9 1 == 1))) ||
      (ty == 2 && decide (3 < leField b 0x18 1)) then 2
  else 0

/-- The device on behalf of a process: no group. -/
def deviceFor (pkg ctx : Nat) : Group := { Group.empty with pkg := pkg, ctx := ctx }

/-- Packet n of a queue; none when its slot does not translate. A poisoned one counts as having a res0 bit set (R411). -/
def State.packetAt (s : State) (pkg q n : Nat) : Option (List Byte) × State :=
  let old := s.imprecise.length
  match s.readFor (deviceFor pkg (s.qCtx pkg q)) (s.qField pkg q 0 8 + 128 * (n % s.qRing pkg q)) 128 with
  | (some b, s) => (some (if s.imprecise.length = old then b else List.replicate 128 0xFF), s)
  | (none, s) => (none, s)

/-- Packets of a queue that have started and not completed. -/
def State.started (s : State) (pkg q : Nat) : List QPacket := s.qpkts.filter fun x => x.pkg == pkg && x.queue == q

/-- The agents of a package run (R368, R426, R428, R430). -/
def State.agentsRun (s : State) (pkg : Nat) : Bool :=
  match s.pkg? pkg with
  | some p => !p.trip && decide (p.pstate ≤ 2) && p.service != 0
  | none => false

/-- The head of a queue may be read: enabled, filled and claimed, and no started WAIT, SIGNAL or fenced packet is uncompleted
(R383, R385). -/
def State.headReady (s : State) (pkg q : Nat) : Bool :=
  decide (q < 4096) && s.agentsRun pkg && s.qState pkg q == 1 && decide (s.qRidx pkg q < s.qWidx pkg q) &&
  decide (s.qRidx pkg q < s.qClaim pkg q) &&
  !(s.started pkg q).any fun x => pktType x.bytes == 3 || pktFenced x.bytes

/-- The packet's fence is satisfied. -/
def State.fenceMet (s : State) (pkg q : Nat) (b : List Byte) : Bool := !pktFenced b || (s.started pkg q).isEmpty

/-- The packet at the head starts: RIDX advances and is copied to RMIRROR; one that completes later is kept (R381, R383). -/
def State.startPacket (s : State) (pkg q : Nat) (keep : List QPacket) : State :=
  let n := (s.qRidx pkg q + 1) % 2 ^ 64
  let s := s.setQField pkg q 0x10 8 n
  let s := { s with qpkts := s.qpkts ++ keep }
  let m := s.qField pkg q 0x20 8
  if m = 0 then s else s.deviceStore pkg (s.qCtx pkg q) m n

/-- The record of a started packet. -/
def State.asStarted (s : State) (pkg q : Nat) (b : List Byte) (written : Bool) (obj : Option Nat) : QPacket :=
  { pkg := pkg, queue := q, index := s.qRidx pkg q, bytes := b, written := written, obj := obj }

/-- An agent serves the head of a queue when it is a packet of type ty: a malformed one makes ERROR. -/
def State.serve (s : State) (pkg q ty : Nat) (f : State → List Byte → State) : State :=
  if !s.headReady pkg q then s else
  match s.packetAt pkg q (s.qRidx pkg q) with
  | (none, t) => t.queueError pkg q 5 0
  | (some b, t) =>
    if pktErr b ≠ 0 then t.queueError pkg q (pktErr b) (pktTag b)
    else if pktType b = ty ∧ s.fenceMet pkg q b then f t b
    else s

/-! ### Launch records (R19 to R21) -/

/-- One entry of a level table (R20). -/
def levelOf (b : List Byte) (o : Nat) : Level :=
  { dom := leField b o 1 % 8, width := 8 * 2 ^ (leField b (o + 1) 1 % 4), crew := leField b (o + 2) 1, regs := leField b (o + 3) 1 % 16
    fanout := leField b (o + 4) 2, barobj := leField b (o + 6) 2, shape0 := leField b (o + 8) 2, shape1 := leField b (o + 0x0A) 2
    shape2 := leField b (o + 0x0C) 2, place := leField b (o + 0x0E) 1 % 4, memb := leField b (o + 0x10) 4
    ckey := leField b (o + 0x14) 2, py := leField b (o + 0x16) 1, px := leField b (o + 0x17) 1, ph := leField b (o + 0x18) 1
    pw := leField b (o + 0x19) 1, stag := leField b (o + 0x1C) 4 }

/-- A res0 bit of an entry is set. -/
def levelRes0 (b : List Byte) (o : Nat) : Bool :=
  leField b o 1 / 8 != 0 || leField b (o + 1) 1 / 4 != 0 || leField b (o + 3) 1 / 16 != 0 || leField b (o + 0x0E) 1 / 4 != 0 ||
  leField b (o + 0x0F) 1 != 0 || leField b (o + 0x1A) 2 != 0

/-- The crew of an entry, with the GRP children of the next one, does not fit an empty slot (R21, R35). -/
def crewTooBig (l : Level) (next : Option Level) : Bool :=
  let blocks := 64 / l.width
  match next.filter fun n => n.dom == 0 && l.dom == 1 with
  | some n =>
    decide (16 < l.crew + l.fanout) ||
    !((packMost l.regs n.regs blocks l.crew).map fun k => decide (l.fanout ≤ k)).getD false
  | none => decide (16 < l.crew) || decide (blocks * (8 / l.regs) < l.crew)

/-- An entry is invalid, given the one before it and the one after it (R21). -/
def levelBad (prev : Option Level) (l : Level) (next : Option Level) : Bool :=
  decide (5 < l.dom) || (prev.isNone && l.dom == 0) || (prev.map fun p => decide (p.dom < l.dom)).getD false ||
  (l.dom == 0 && (next.isSome || (prev.map fun p => p.dom != 1 || p.width != l.width).getD true)) ||
  l.crew == 0 || decide ((if l.dom = 0 then 1 else if l.dom = 1 then 16 else 4) < l.crew) ||
  l.regs == 0 || decide (8 < l.regs) || decide ((if l.dom = 0 then 0 else 1024) < l.barobj) ||
  (if next.isSome then l.fanout == 0 else l.fanout != 0) ||
  (l.dom != 0 && (l.memb % 64 != 0 || decide (l.memb < 128 + 32 * l.barobj))) || l.memb % 64 != 0 ||
  crewTooBig l next

/-- Some entry of a level table is invalid. -/
def levelsBad : Option Level → List Level → Bool
  | _, [] => false
  | prev, l :: t => levelBad prev l t.head? || levelsBad (some l) t

/-- A launch record from its bytes; none when it is invalid (R21). -/
def recordOf (addr : Nat) (b : List Byte) (depths : Nat) : Option LaunchRec :=
  let flags := leField b 3 1
  let res0 := flags / 4 != 0 || leField b 4 1 / 8 != 0 || leField b 5 3 != 0 || leField b 0x28 8 != 0 || leField b 0x30 8 != 0 ||
    leField b 0x38 8 != 0 || (List.range depths).any fun d => levelRes0 b (0x40 + 32 * d)
  let levels := (List.range depths).map fun d => levelOf b (0x40 + 32 * d)
  if res0 || leField b 8 8 % 4 != 0 || levelsBad none levels then none
  else some
    { addr := addr, idem := flag flags 0, timed := flag flags 1, retry := leField b 4 1 % 8, entry := leField b 8 8
      t0 := leField b 0x10 8, args := leField b 0x18 8, portmap := leField b 0x20 8, levels := levels }

/-- The record at an address of a process: RECORD or ADDRESS of R378 when it cannot be used. -/
def State.readRecord (s : State) (pkg ctx va : Nat) : (Nat ⊕ LaunchRec) × State :=
  let g := deviceFor pkg ctx
  if va % 64 ≠ 0 then (.inl 3, s) else
  match s.readFor g va 64 with
  | (none, s) => (.inl 5, s)
  | (some h, s) =>
    let depths := leField h 2 1
    if leField h 0 2 ≠ 1 ∨ depths = 0 ∨ 8 < depths then (.inl 3, s)
    else match s.readFor g va (64 + 32 * depths) with
      | (none, s) => (.inl 5, s)
      | (some b, s) => match recordOf va b depths with
        | some r => (.inr r, s)
        | none => (.inl 3, s)

/-- A report area of n reports that the device may write, or none. -/
def State.reportOk (s : State) (pkg ctx va n : Nat) : Bool × State :=
  if va = 0 then (true, s)
  else if va % 8 ≠ 0 then (false, s)
  else (List.range n).foldl (fun (a : Bool × State) p =>
    match a.2.homeAt pkg ctx (va + 8 * p) 2 with
    | (k, s) => (a.1 && k.isSome, s)) (true, s)

/-- Record and report of a LAUNCH or GANG packet, or the error of R378. -/
def State.launchArgs (s : State) (pkg ctx : Nat) (b : List Byte) (parts : Nat) : (Nat ⊕ LaunchRec) × State :=
  match s.readRecord pkg ctx (leField b 8 8) with
  | (.inl e, s) => (.inl e, s)
  | (.inr r, s) =>
    match s.reportOk pkg ctx (leField b 0x10 8) parts with
    | (false, s) => (.inl 5, s)
    | (true, s) =>
      if ((r.levels.head?.map fun l => decide (4 ≤ l.dom)).getD false) && (s.levelPool pkg ctx).isNone then (.inl 5, s)
      else (.inr r, s)

/-! ### Heads and priorities (R385, R386) -/

/-- The packages of a process's pod partition: members in which its context is LIVE. -/
def State.partition (s : State) (ctx : Nat) : List Nat := (s.pkgs.filter fun p => p.member && s.ctxLive p.num ctx).map Package.num

/-- The root of a LAUNCH packet admitted on a core, and the packet started; none while a resource is not free (R383). -/
def State.launchRoot (s : State) (pkg q core : Nat) (b : List Byte) (r : LaunchRec) : Option State :=
  let ctx := s.qCtx pkg q
  let tr : Tree :=
    { id := s.next, pkg := pkg, ctx := ctx, rcd := r, queue := q, index := s.qRidx pkg q, tag := pktTag b,
      report := leField b 0x10 8, gang := 0, part := 0, late := false, tries := 0, dies := List.range 9,
      members := s.partition ctx, reln := 0 }
  (({ s with trees := s.trees ++ [tr], next := s.next + 1 }).startRoot tr 0 core).map fun (t : State) =>
    t.startPacket pkg q [s.asStarted pkg q b false none]

/-- The record of a LAUNCH at the head of a queue that may be admitted now. -/
def State.launchHead (s : State) (pkg q : Nat) : Option (List Byte × LaunchRec) :=
  if !s.headReady pkg q then none else
  (s.packetAt pkg q (s.qRidx pkg q)).1.bind fun b =>
    if pktErr b ≠ 0 ∨ pktType b ≠ 1 ∨ !s.fenceMet pkg q b then none
    else match (s.launchArgs pkg (s.qCtx pkg q) b 1).1 with
      | .inr r => if r.timed ∧ s.time < r.t0 then none else some (b, r)
      | .inl _ => none

/-- Since when a gang of the packet at the head of a queue has been reserving its parts. -/
def State.gangSince (s : State) (pkg q : Nat) : Option Nat :=
  (s.gangs.find? fun g => g.pkg == pkg && g.queue == q && g.index == s.qRidx pkg q && decide (g.st < 3)).map Gang.claim

/-- The heads of the kicked queues as they stand: since when each can be admitted (R386), a GANG from its claim on. -/
def State.noteHeads (s : State) : State :=
  { s with heads := s.heads.map fun h =>
      let n := s.qRidx h.pkg h.queue
      let since := if (s.launchHead h.pkg h.queue).isNone then s.gangSince h.pkg h.queue
                   else if h.index = n then h.since.or (some s.time) else some s.time
      { h with index := n, since := since } }

/-- Effective priority of a head (R386). -/
def State.effPrio (s : State) (h : QHead) : Nat := min 7 (s.qPrio h.pkg h.queue + (s.time - h.since.getD s.time) / 10 ^ 6)

/-- Head a goes before head b. -/
def State.goesBefore (s : State) (a b : QHead) : Bool :=
  let x := s.effPrio a
  let y := s.effPrio b
  decide (y < x) || (x == y && (decide (a.since.getD 0 < b.since.getD 0) || (a.since == b.since && decide (a.queue < b.queue))))

/-- The LAUNCH at the head of a queue finds a core with room. -/
def State.launchFits (s : State) (pkg q : Nat) : Bool :=
  match s.launchHead pkg q with
  | some (b, r) => (List.range Config.cores).any fun c => (s.launchRoot pkg q c b r).isSome
  | none => false

/-- Another head of the package is to be admitted first: one that goes before this and fits, or has waited for 1 ms (R386). -/
def State.outranked (s : State) (pkg q : Nat) : Bool :=
  match s.heads.find? fun h => h.pkg == pkg && h.queue == q with
  | none => false
  | some h => s.heads.any fun o => o.pkg == pkg && o.queue != q && o.since.isSome && s.goesBefore o h &&
      (decide (o.since.getD 0 + 10 ^ 6 ≤ s.time) || s.launchFits pkg o.queue)

/-- A child or a relaunch of a running tree can be admitted to a core, and goes first (R385). -/
def State.childFirst (s : State) (pkg core : Nat) : Bool :=
  s.tiles.any fun t => match t.batch, s.treeOf t with
    | some b, some tr => b.kids.any fun c =>
        let again := c.st == .relaunch
        (again || (c.st == .waiting && t.live && s.mayStart tr t b c (s.crewGone t.crew) false)) &&
        s.policyCore tr t c.idx == some (pkg, core) && (s.startKid tr t c again).isSome
    | _, _ => false

/-! ### Kicks (R320, R379, R380) -/

/-- A kick of value w takes effect on a queue. -/
def State.kick (s : State) (pkg q w : Nat) : State :=
  let ridx := s.qRidx pkg q
  if ridx + s.qRing pkg q < w then s.queueError pkg q 4 0
  else
    let widx := max (s.qWidx pkg q) w
    let s := s.setQField pkg q 0x18 8 widx
    let known := s.heads.any fun h => h.pkg == pkg && h.queue == q
    let s := if known then s else { s with heads := s.heads ++ [⟨pkg, q, ridx, none⟩] }
    let s := s.noteHeads
    if ridx < widx then s.signalWork (some pkg) else s

/-- The queue that owns a kick register: one in ERROR still records its kicks (R378, R379). -/
def State.kickOwner (s : State) (pkg ctx slot : Nat) : Option Nat :=
  (List.range 4096).find? fun q => (s.qState pkg q == 1 || s.qState pkg q == 2) && s.qCtx pkg q == ctx && s.qSlot pkg q == slot

/-- A write of a kick register: dropped and counted when no queue owns it. -/
def State.kickReg (s : State) (pkg ctx slot w : Nat) : State :=
  match s.kickOwner pkg ctx slot with
  | some q => s.kick pkg q w
  | none =>
    let r : Imprecise :=
      { kind := 6, code := 0, pkg := pkg, core := 0, crewId := 0, crew := 0, gid := 0, group := 0, ctx := ctx, lgen := 0, pc := 0,
        addr := 8 * slot, target := 0, queue := 0, tag := 0 }
    { s with imprecise := s.imprecise ++ [r] }

/-- The package takes RDMA traffic (R426). -/
def State.takesRdma (s : State) (pkg : Nat) : Bool :=
  match s.pkg? pkg with
  | some p => decide (p.pstate < 4) && p.service != 0
  | none => false

/-- A host's 8-byte RDMA write to register `slot` of a process's kick page. -/
def execKick (pkg ctx slot w : Nat) (s : State) : Outcome State Fault Refusal :=
  .next (if s.takesRdma pkg ∧ ctx < 4096 ∧ slot < 512 ∧ w < 2 ^ 64 then s.kickReg pkg ctx slot w else s)

def execQpush (y : BitVec 1) (d a b : BitVec 6) (s : State) : Outcome State Fault Refusal :=
  issue (.qpush y d a b) true s fun s =>
    let g := s.g
    let x := (g.sreg a.toNat).toNat
    if s.relWaits 4 then .hold
    else if x / 2 ^ 12 ≠ 0 then xreply s y d 0x80000010
    else if s.qCtx g.pkg x ≠ g.ctx then xreply s y d 0x80000020
    else xreply (s.kickReg g.pkg g.ctx (s.qSlot g.pkg x) (g.s2 b.toNat)) y d 0

/-! ### NOP, TIMESTAMP, WAIT, SIGNAL (R383) -/

def execNopPacket (pkg q : Nat) (s : State) : Outcome State Fault Refusal :=
  .next (s.serve pkg q 0 fun s _ => s.startPacket pkg q [])

/-- The key of an aligned 64-bit word of a packet's process with the rights needed. -/
def State.pktWord (s : State) (pkg q va need : Nat) : Option Nat × State :=
  if va % 8 ≠ 0 then (none, s) else s.homeAt pkg (s.qCtx pkg q) va need

def execTimestampPacket (pkg q : Nat) (s : State) : Outcome State Fault Refusal :=
  .next (s.serve pkg q 5 fun s b =>
    match s.pktWord pkg q (leField b 0x10 8) 2 with
    | (none, s) => s.queueError pkg q 5 (pktTag b)
    | (some k, s) => (s.storeHome 0 s.next k (bytesOf 8 s.time)).1.startPacket pkg q [])

/-- The condition of a VALUE WAIT on the word loaded. -/
def waitHolds (b : List Byte) (x : Nat) : Bool :=
  let v := x &&& leField b 0x20 8
  let y := leField b 0x18 8
  match leField b 9 1 with
  | 0 => v == y
  | 1 => v != y
  | 2 => decide (y ≤ v)
  | _ => decide (v < y)

def execWaitPacket (pkg q : Nat) (s : State) : Outcome State Fault Refusal :=
  .next (s.serve pkg q 3 fun s b =>
    let va := leField b 0x10 8
    if leField b 8 1 = 0 then
      match s.pktWord pkg q va 1 with
      | (none, s) => s.queueError pkg q 5 (pktTag b)
      | (some k, s) =>
        if waitHolds b (s.num k 8) then s.startPacket pkg q [] else s.startPacket pkg q [s.asStarted pkg q b false none]
    else
      match (if va % 32 = 0 then s.homeAt pkg (s.qCtx pkg q) va 3 else (none, s)) with
      | (none, s) => s.queueError pkg q 5 (pktTag b)
      | (some k, s) => s.startPacket pkg q [s.asStarted pkg q b false (some k)])

/-- A started VALUE WAIT reads its word again. -/
def execWaitPacketPoll (pkg q idx : Nat) (s : State) : Outcome State Fault Refusal :=
  .next (match s.qpkts.find? fun x => x.pkg == pkg && x.queue == q && x.index == idx && pktType x.bytes == 3 && x.obj.isNone with
    | none => s
    | some x =>
      match s.pktWord pkg q (leField x.bytes 0x10 8) 1 with
      | (some k, t) => if waitHolds x.bytes (t.num k 8) then (t.packetDone pkg q idx).noteHeads else t
      | (none, t) => t)

/-- The write of a SIGNAL: a store, an atomic add, or a word written to the host under its key. -/
def State.signalWrite (s : State) (pkg q : Nat) (b : List Byte) : State :=
  let va := leField b 0x10 8
  let x := leField b 0x18 8
  if leField b 8 1 = 1 then
    let key := leField b 0x0C 4
    { s with hostWords := (key, va, x) :: s.hostWords.filter fun w => !(w.1 == key && w.2.1 == va) }
  else match s.pktWord pkg q va (2 + leField b 9 1) with
    | (some k, s) => (s.storeHome 0 s.next k (bytesOf 8 (if leField b 9 1 = 1 then (s.num k 8 + x) % 2 ^ 64 else x))).1
    | (none, s) => s

/-- A SIGNAL starts once every earlier packet has completed; its write goes out then or a little later. -/
def execSignalPacket (pkg q : Nat) (s : State) : Outcome State Fault Refusal :=
  .next (s.serve pkg q 4 fun s b =>
    let ok := if leField b 8 1 = 1 then (some 0, s) else s.pktWord pkg q (leField b 0x10 8) (2 + leField b 9 1)
    match ok with
    | (none, s) => s.queueError pkg q 5 (pktTag b)
    | (some _, s) =>
      let (later, s) := s.pick 2
      if later = 1 then s.startPacket pkg q [s.asStarted pkg q b false none]
      else (s.signalWrite pkg q b).startPacket pkg q [s.asStarted pkg q b true none])

/-- A SIGNAL's write is done, or it has been acknowledged and the packet completes. -/
def execSignalAck (pkg q idx : Nat) (s : State) : Outcome State Fault Refusal :=
  .next (match s.qpkts.find? fun x => x.pkg == pkg && x.queue == q && x.index == idx && pktType x.bytes == 4 with
    | none => s
    | some x =>
      let (more, t) := if x.written then (0, s) else (s.signalWrite pkg q x.bytes).pick 2
      if more = 1 then
        { t with qpkts := t.qpkts.map fun (y : QPacket) =>
            if y.pkg = pkg ∧ y.queue = q ∧ y.index = idx then { y with written := true } else y }
      else (t.packetDone pkg q idx).noteHeads)

/-! ### LAUNCH (R383, R385, R386) -/

/-- A LAUNCH packet validates its record and its root is admitted on a core: not before T0 when TIMED, after children that
need the core, and in the order of priorities. -/
def execLaunchPacket (pkg q core : Nat) (s : State) : Outcome State Fault Refusal :=
  .next (s.noteHeads.serve pkg q 1 fun s b =>
    match s.launchArgs pkg (s.qCtx pkg q) b 1 with
    | (.inl e, s) => s.queueError pkg q e (pktTag b)
    | (.inr r, s) =>
      if (r.timed ∧ s.time < r.t0) ∨ s.childFirst pkg core ∨ s.outranked pkg q then s
      else (s.launchRoot pkg q core b r).getD s)

end Sys2Proof.Machine
end

