-- ==== Sys2Proof/Machine/Gang.lean ====
section
/-! DEFINITION. Gangs (R384, R387 to R389): GANG packets, the reservation between the coordinator and the part agents, and the start of the parts. -/

namespace Sys2Proof.Machine

open Host (Outcome)

/-! ### Parts (R387) -/

/-- The part number under which a POD gang's own root is reserved and started, beside its members' children. -/
def rootPart : Nat := 2 ^ 16

/-- The dies of each part of a gang inside one package, in part order. -/
def partDies (kind mask : Nat) : List (List Nat) :=
  match kind with
  | 0 => [List.range 9]
  | 1 => (bitsSet 3 mask).map fun r => [3 * r, 3 * r + 1, 3 * r + 2]
  | 2 => (bitsSet 9 mask).map fun d => [d]
  | _ => []

/-- The member list of a POD gang, or the error of R378 (R194, R387). -/
def State.gangMembers (s : State) (pkg ctx va : Nat) : (Nat ⊕ List Nat) × State :=
  let g := deviceFor pkg ctx
  if va % 8 ≠ 0 then (.inl 5, s) else
  match s.readFor g va 8 with
  | (none, s) => (.inl 5, s)
  | (some h, s) =>
    let n := leField h 0 2
    if n < 2 ∨ 4096 < n ∨ leField h 4 4 ≠ 0 then (.inl 6, s)
    else match s.readFor g (va + 8) (2 * n) with
      | (none, s) => (.inl 5, s)
      | (some b, s) =>
        let ms := (List.range n).map fun r => leField b (2 * r) 2
        let part := s.partition ctx
        if ms.eraseDups.length ≠ n ∨ ms.any fun m => !part.contains m then (.inl 6, s) else (.inr ms, s)

/-- The partition that a GANG packet names is rejected (R387, R430). -/
def State.partitionBad (s : State) (pkg kind mask : Nat) (r : LaunchRec) (members : List Nat) : Bool :=
  let root := (r.levels.head?.map Level.dom).getD 0
  let dies := (partDies kind mask).flatMap id
  (match kind with
   | 0 => mask != 1 || root != 4
   | 1 => mask == 0 || decide (8 ≤ mask) || root != 4
   | 2 => mask == 0 || decide (512 ≤ mask) || root != 3
   | _ => mask != 0 || root != 5 || match r.levels with
     | l :: k :: _ => k.dom != 4 || decide (l.fanout < members.length) || decide (l.shape0 * l.shape1 * l.shape2 < members.length)
     | _ => true) ||
  ((kind == 1 || kind == 2) && dies.any fun d => ((s.pkg pkg).die d).st != .ready)

/-- A part before anything has reached it: RESERVE is under way. -/
def GangPart.fresh (part pkg : Nat) (dies : List Nat) : GangPart :=
  { part := part, pkg := pkg, dies := dies, st := 0, timer := 0, start := 0, core := 0, inbox := [(.reserve, 0)], outbox := [],
    ok := false, hold := none, late := false, word := 0 }

/-- A GANG packet is claimed: the coordinator sends RESERVE to every part (R388, R389). -/
def execGangPacket (pkg q : Nat) (s : State) : Outcome State Fault Refusal :=
  .next (s.serve pkg q 2 fun s b =>
    let ctx := s.qCtx pkg q
    let kind := leField b 0x18 1
    let mask := leField b 0x1A 2
    if s.gangs.any fun g => g.pkg == pkg && g.queue == q && g.index == s.qRidx pkg q then s
    else
      let (ms, s) := if kind = 3 then s.gangMembers pkg ctx (leField b 0x20 8) else (.inr [], s)
      let parts := match ms with
        | .inr l => if kind = 3 then l.length else (partDies kind mask).length
        | .inl _ => 0
      match s.launchArgs pkg ctx b parts, ms with
      | (.inl e, s), _ => s.queueError pkg q e (pktTag b)
      | (.inr _, s), .inl e => s.queueError pkg q e (pktTag b)
      | (.inr r, s), .inr members =>
        if s.partitionBad pkg kind mask r members then s.queueError pkg q 6 (pktTag b)
        else
          let ps := if kind = 3 then
              (((List.range members.length).zip members).map fun km => GangPart.fresh km.1 km.2 (List.range 9)) ++
                [GangPart.fresh rootPart pkg (List.range 9)]
            else ((List.range parts).zip (partDies kind mask)).map fun kd => GangPart.fresh kd.1 pkg kd.2
          let g : Gang :=
            { id := s.next, pkg := pkg, queue := q, index := s.qRidx pkg q, tag := pktTag b, report := leField b 0x10 8, kind := kind,
              ctx := ctx, batch := 0, rcd := r, claim := s.time, st := 1, attempt := 0, timer := s.time, start := 0,
              members := members, parts := ps }
          { s with gangs := s.gangs ++ [g], next := s.next + 1 })

/-! ### Messages -/

def State.gang? (s : State) (id : Nat) : Option Gang := s.gangs.find? fun g => g.id == id
def State.modGang (s : State) (id : Nat) (f : Gang → Gang) : State :=
  { s with gangs := s.gangs.map fun (g : Gang) => if g.id = id then f g else g }
def Gang.part? (g : Gang) (n : Nat) : Option GangPart := g.parts.find? fun p => p.part == n
def Gang.modPart (g : Gang) (n : Nat) (f : GangPart → GangPart) : Gang :=
  { g with parts := g.parts.map fun (p : GangPart) => if p.part = n then f p else p }
def State.modPart (s : State) (id n : Nat) (f : GangPart → GangPart) : State := s.modGang id fun g => g.modPart n f

/-- A message to every part. -/
def Gang.sendAll (g : Gang) (m : GangMsg) : Gang :=
  { g with parts := g.parts.map fun (p : GangPart) => { p with inbox := p.inbox ++ [(m, g.attempt)] } }

/-- The gang and part at which the next message to the part is m, with the attempt it belongs to. -/
def State.atPart (s : State) (id n : Nat) (m : GangMsg) : Option (Gang × GangPart × Nat) :=
  (s.gang? id).bind fun g => (g.part? n).bind fun p =>
    if !s.agentsRun p.pkg then none else
    match p.inbox with
    | x :: _ => if x.1 = m then some (g, p, x.2) else none
    | [] => none

/-- The gang and part from which the next message to the coordinator is m, with the attempt it belongs to. -/
def State.atCoordinator (s : State) (id n : Nat) (m : GangMsg) : Option (Gang × GangPart × Nat) :=
  (s.gang? id).bind fun g => (g.part? n).bind fun p =>
    if !s.agentsRun g.pkg then none else
    match p.outbox with
    | x :: _ => if x.1 = m then some (g, p, x.2) else none
    | [] => none

def GangPart.taken (p : GangPart) : GangPart := { p with inbox := p.inbox.drop 1 }
def GangPart.heard (p : GangPart) : GangPart := { p with outbox := p.outbox.drop 1 }
def GangPart.answer (p : GangPart) (m : GangMsg) (a : Nat) : GangPart := { p with outbox := p.outbox ++ [(m, a)] }
/-- The part frees its holding (R389). -/
def GangPart.free (p : GangPart) : GangPart := { p with st := 0, hold := none }

/-- The rollback of an attempt: RELEASE to every part, then the backoff (R389). -/
def Gang.rollback (g : Gang) (now : Nat) : Gang :=
  let g := g.sendAll .release
  { g with st := 2, timer := now, parts := g.parts.map fun (p : GangPart) => { p with ok := false } }

/-- Of two gangs the older one (R388). -/
def Gang.older (a b : Gang) : Bool :=
  decide (a.claim < b.claim) || (a.claim == b.claim && (decide (a.pkg < b.pkg) || (a.pkg == b.pkg && decide (a.queue < b.queue))))

/-! ### The part (R389) -/

/-- The level whose tile a part starts: the root's, or for a member of a POD gang its child's. -/
def Gang.partLevel (g : Gang) (p : GangPart) : Level :=
  Tree.level ⟨0, 0, 0, g.rcd, 0, 0, 0, 0, 0, 0, false, 0, [], [], 0⟩ (if g.kind = 3 ∧ p.part ≠ rootPart then 1 else 0)

/-- What a holding for a part would reserve on a core; none while a resource is not free, or is kept for a child or relaunch
(R385) or, in the package of a gang that is still reserving, for a head that goes before its packet (R386). -/
def State.holdAt (s : State) (g : Gang) (p : GangPart) (core : Nat) : Option Held :=
  let l := g.partLevel p
  if !(s.core p.pkg core).admits ∨ !p.dies.contains (dieOf core) ∨ s.childFirst p.pkg core ∨
    (g.st = 1 ∧ p.pkg = g.pkg ∧ s.noteHeads.outranked g.pkg g.queue) then none else
  (s.seatTile g.ctx p.pkg core l.dom l.memb none).bind fun seat =>
    let proto := Held.crew ⟨p.pkg, core, 0, [], l.width, g.ctx, l.dom, seat.home, seat.va, l.memb⟩
    (s.placeCrew proto l.regs l.crew).map fun sb => ⟨p.pkg, core, sb.1, sb.2, l.width, g.ctx, l.dom, seat.home, seat.va, l.memb⟩

/-- Some core has room for a part. -/
def State.canHold (s : State) (g : Gang) (p : GangPart) : Bool := (List.range Config.cores).any fun c => (s.holdAt g p c).isSome

/-- RESERVE reaches a part: held on a core when the resources are free, taken over from a younger gang, or answered NO. -/
def execReserve (gang part core : Nat) (s : State) : Outcome State Fault Refusal :=
  .next (match s.atPart gang part .reserve with
    | none => s
    | some (g, p, a) =>
      let no := s.modPart gang part fun p => p.taken.answer .no a
      let hold := fun (t : State) =>
        match t.holdAt g p core with
        | some h => t.modPart gang part fun p => { p.taken.answer .held a with st := 1, timer := t.time, core := core, hold := some h }
        | none => if t.canHold g p then s else no
      if p.st ≠ 0 then no
      else match s.gangs.find? fun x => x.id != gang && x.parts.any fun r => r.st == 1 && r.pkg == p.pkg && r.dies == p.dies with
        | none => hold s
        | some x =>
          if g.older x then
            hold (s.modGang x.id fun x => { x with parts := x.parts.map fun (r : GangPart) =>
              if r.st = 1 ∧ r.pkg = p.pkg ∧ r.dies = p.dies then r.free.answer .no x.attempt else r })
          else no)

def execRelease (gang part : Nat) (s : State) : Outcome State Fault Refusal :=
  .next (match s.atPart gang part .release with
    | none => s
    | some (_, p, _) => s.modPart gang part fun q => if p.st = 1 then q.taken.free else q.taken)

/-- A holding that no COMMIT has used for 120 µs is freed. -/
def execHoldTimerExpiry (gang part : Nat) (s : State) : Outcome State Fault Refusal :=
  .next (match (s.gang? gang).bind fun g => g.part? part with
    | none => s
    | some p => if p.st = 1 ∧ p.timer + 120000 ≤ s.time then s.modPart gang part GangPart.free else s)

/-- A part that cannot start reports FAILED; without a POD gang's root no part can. -/
def State.partFails (s : State) (g : Gang) (part : Nat) : State :=
  if part = rootPart then
    (g.parts.map GangPart.part).foldl (fun (s : State) n =>
      (s.modPart g.id n fun p => { p with late := true }).gangPartDone g.id n 1 0) s
  else match s.tiles.find? fun t => t.parent.isNone && (t.batch.map Batch.id) == some g.batch && g.batch != 0 with
    | some t => s.reportChild t.id part 1
    | none => s.gangPartDone g.id part 1 0

/-- COMMIT(T) reaches a part: a held one starts at T, a free one at once with LATE, or not at all. -/
def execCommit (gang part : Nat) (s : State) : Outcome State Fault Refusal :=
  .next (match s.atPart gang part .commit with
    | none => s
    | some (g, p, _) =>
      let s := s.modPart gang part GangPart.taken
      if p.st = 1 then s.modPart gang part fun p => { p with st := 2, start := g.start, late := decide (g.start < s.time) }
      else if p.st ≠ 0 then s
      else
        let (k, s) := s.pick Config.cores
        match (List.range Config.cores).findSome? fun j => s.holdAt g p ((k + j) % Config.cores) with
        | some h => s.modPart gang part fun p => { p with st := 2, start := s.time, late := true, core := h.core, hold := some h }
        | none => (s.modPart gang part fun p => { p with late := true }).partFails g part)

/-- A committed part starts its root at T: its tile takes the place that was held (R387). -/
def execGangPartStart (gang part : Nat) (s : State) : Outcome State Fault Refusal :=
  .next (match s.gang? gang with
    | none => s
    | some g =>
      match g.part? part with
      | none => s
      | some p =>
        if p.st ≠ 2 ∨ s.time < p.start ∨ !s.agentsRun p.pkg then s else
        let t := s.modPart gang part fun p => { p with st := if part = rootPart then 4 else 3, hold := none }
        let tr : Tree :=
          { id := t.next, pkg := p.pkg, ctx := g.ctx, rcd := g.rcd, queue := g.queue, index := g.index, tag := g.tag,
            report := g.report, gang := gang, part := part, late := p.late, tries := g.attempt, dies := p.dies,
            members := g.members, reln := 0 }
        if g.kind = 3 ∧ part ≠ rootPart then
          match t.trees.find? fun x => x.gang == gang, t.tiles.find? fun x => x.parent.isNone && (x.batch.map Batch.id) == some g.batch with
          | some tr, some root =>
            match root.batch.bind fun b => b.kid? part with
            | some c => if c.st = .waiting then (t.startKidAt tr root c false (p.pkg, p.core)).getD s else t
            | none => t
          | _, _ => s
        else
          match ({ t with trees := t.trees ++ [tr], next := t.next + 1 }).startRoot tr 0 p.core with
          | some u => u.gangBatch tr g.start
          | none => s)

/-! ### The coordinator (R389) -/

/-- HELD reaches the coordinator: with the last one it chooses T, sends COMMIT(T) to every part, and the packet has started. -/
def execHeld (gang part : Nat) (s : State) : Outcome State Fault Refusal :=
  .next (match s.atCoordinator gang part .held with
    | none => s
    | some (g, _, a) =>
      if g.st ≠ 1 ∨ a ≠ g.attempt then s.modPart gang part GangPart.heard
      else if g.timer + 100000 < s.time then s
      else
        let g := g.modPart part fun p => { p.heard with ok := true }
        let s := s.modGang gang fun _ => g
        if g.parts.any fun p => !p.ok then s
        else if !s.headReady g.pkg g.queue ∨ s.qRidx g.pkg g.queue ≠ g.index then s.modGang gang fun g => g.rollback s.time
        else
          let soon := s.time + if g.kind = 3 then 100000 else 10000
          let start := if g.rcd.timed then max g.rcd.t0 soon else soon
          let b := (s.packetAt g.pkg g.queue g.index).1.getD [2]
          (s.modGang gang fun g => { g.sendAll .commit with st := 3, start := start }).startPacket g.pkg g.queue
            [s.asStarted g.pkg g.queue b false none])

def execGangNo (gang part : Nat) (s : State) : Outcome State Fault Refusal :=
  .next (match s.atCoordinator gang part .no with
    | none => s
    | some (g, _, a) =>
      let s := s.modPart gang part GangPart.heard
      if g.st = 1 ∧ a = g.attempt then s.modGang gang fun g => g.rollback s.time else s)

def execReserveTimerExpiry (gang : Nat) (s : State) : Outcome State Fault Refusal :=
  .next (match s.gang? gang with
    | none => s
    | some g => if g.st = 1 ∧ g.timer + 100000 ≤ s.time then s.modGang gang fun g => g.rollback s.time else s)

/-- After attempt a the coordinator waits 100 µs × 2^min(a, 4) and reserves again; a packet that its queue no longer has at its
head is given up. -/
def execBackoffExpiry (gang : Nat) (s : State) : Outcome State Fault Refusal :=
  .next (match s.gang? gang with
    | none => s
    | some g =>
      if g.st ≠ 2 ∨ s.time < g.timer + 100000 * 2 ^ min g.attempt 4 ∨ !s.agentsRun g.pkg then s
      else if s.qRidx g.pkg g.queue ≠ g.index then { s with gangs := s.gangs.filter fun x => x.id != gang }
      else s.modGang gang fun g => ({ g with attempt := g.attempt + 1, st := 1, timer := s.time }).sendAll .reserve)

end Sys2Proof.Machine
end

