-- ==== Sys2Proof/Machine/Host.lean ====
section
/-! DEFINITION. The host and bring-up (R362, R365, R411, R423 to R434): RDMA, management commands, power states, thermal trips, dies and stacks, resets, soft errors. -/

namespace Sys2Proof.Machine

open Host (Outcome)

/-! ### RDMA (R423, R424, R426)

Messages to the host carry a kind of the model's own: 1 service change, 2 slot fault, 3 THERMAL, 4 NAK, 5 data of a READ,
6 acknowledged WRITE, 7 reply, 0x100 HMSG. -/

/-- The keys of a span of a pinned region that the host reaches; none where it is answered with a NAK. -/
def State.rdmaKeys (s : State) (pkg ctx hnd need off n : Nat) : Option (List Nat) :=
  if !s.takesRdma pkg then none
  else (s.regionSpan pkg ctx hnd need off n).map fun r => (List.range n).map fun j => s.regionKey pkg r (off + j)

/-- A WRITE lands byte by byte at its home slices and is then acknowledged. -/
def execRdmaWrite (pkg ctx hnd off : Nat) (data : List Byte) (s : State) : Outcome State Fault Refusal :=
  .next (match s.rdmaKeys pkg ctx hnd 2 off data.length with
    | none => s.tell pkg 4 []
    | some ks => ((ks.zip data).foldl (fun (s : State) kb => (s.storeHome 0 s.next kb.1 [kb.2]).1) s).tell pkg 6 [])

/-- A READ reads at the home slice; poisoned data is not delivered. -/
def execRdmaRead (pkg ctx hnd off len : Nat) (s : State) : Outcome State Fault Refusal :=
  .next (match s.rdmaKeys pkg ctx hnd 1 off len with
    | none => s.tell pkg 4 []
    | some ks => if ks.any fun k => s.poisonedAt k 1 then s.tell pkg 4 [] else s.tell pkg 5 (ks.map s.byte))

/-- Atomics, unreliable transports and other versions: a NAK and no effect. -/
def execRdmaNak (pkg kind : Nat) (s : State) : Outcome State Fault Refusal := .next (s.tell pkg 4 (bytesOf 4 kind))

/-! ### Everything a package loses (R426) -/

/-- Power leaves a package: its on-chip state and its memory are gone. -/
def State.wipe (s : State) (pkg : Nat) : State :=
  let here := fun (k : Nat) => keyPkgOf k == pkg
  let s := s.dropGroups fun g => g.id != 0 && g.pkg == pkg
  { s with
    mem := s.mem.drop here
    undef := s.undef.filter fun u => !here u.1
    cores := s.cores.filter fun c => c.pkg != pkg
    crews := s.crews.filter fun c => c.pkg != pkg
    tiles := s.tiles.filter fun t => t.pkg != pkg
    trees := s.trees.filter fun t => t.pkg != pkg
    exts := s.exts.filter fun e => e.pkg != pkg
    bars := s.bars.filter fun b => !here b.obj
    liveBars := s.liveBars.filter fun k => !here k
    wildBars := s.wildBars.filter fun k => !here k
    taint := s.taint.filter fun q => !here q.2
    mixed := s.mixed.filter fun q => !here q.2.1
    sysops := s.sysops.filter fun o => (s.group? o.gid).isSome
    handles := s.handles.filter fun h => h.pkg != pkg
    cmds := s.cmds.filter fun c => c.pkg != pkg
    streams := s.streams.filter fun x => x.pkg != pkg
    vats := s.vats.filter fun v => !here v.vat
    lines := s.lines.filter fun l => unitPkg l.unit != pkg
    pend := s.pend.filter fun p => unitPkg p.1 != pkg
    tlb := s.tlb.filter fun t => t.pkg != pkg
    poison := s.poison.filter fun k => !here k
    net := s.net.filter fun p => p.src != pkg
    resp := s.resp.filter fun r => r.pkt.src != pkg
    imprecise := s.imprecise.filter fun r => r.pkg != pkg
    qpkts := s.qpkts.filter fun q => q.pkg != pkg
    heads := s.heads.filter fun h => h.pkg != pkg
    gangs := s.gangs.filter fun g => g.pkg != pkg
    saved := s.saved.filter fun v => v.pkg != pkg }

/-! ### Service and the release of cores (R365, R430, R431) -/

/-- READY stacks of a package, ascending. -/
def Package.readyStacks (p : Package) : List Nat := (List.range 12).filter fun k => p.hbm.getD k .untrained == .ready
def Package.readyDies (p : Package) : List Nat := (List.range 9).filter fun d => (p.die d).st == .ready

/-- The service state by R430: 0 NONE, 1 REDUCED, 2 FULL. -/
def Package.serviceNow (p : Package) : Nat :=
  if p.readyDies.length < 1 ∨ p.readyStacks.length < 2 then 0
  else if p.readyDies.length = 9 ∧ p.readyStacks.length = 12 ∧ (p.readyStacks.all fun k => p.inService.contains k) ∧ p.thermal then 2
  else 1

/-- A privileged group of a core as it starts at the release: the agent group at the entry, the handler group idle (R362). -/
def privGroup (id pkg core hvec seed : Nat) (handler : Bool) : Group :=
  let g := (Group.start id pkg core 0 0 8 2 true handler 0 none 0 0 hvec seed).seedPriv
  if handler then { g with splits := [] } else g

/-- The boot controller releases a core with the entry that the firmware wrote; with none it takes a slot fault (R365). -/
def State.releaseCore (s : State) (pkg core : Nat) : State :=
  if (s.core pkg core).released then s else
  let hvec := 4 * Config.bootVector pkg core % 2 ^ 64
  let s := s.modCore pkg core fun c => { c with released := true, hvec := hvec }
  let s := { (s.addGroup (privGroup s.next pkg core hvec s.free false)).addGroup
      (privGroup (s.next + 1) pkg core hvec (s.free + 8) true) with next := s.next + 2, free := s.free + 16 }
  if hvec = 0 then let (code, s) := s.pick 256; s.slotFault pkg core code 0 else s

/-- The cores of the READY dies are released, once the service has left NONE. -/
def State.releaseDies (s : State) (pkg : Nat) : State :=
  if (s.pkg pkg).service = 0 then s
  else ((s.pkg pkg).readyDies.flatMap fun d => (List.range 128).map fun j => 128 * d + j).foldl (fun (s : State) c => s.releaseCore pkg c) s

/-- The firmware's writes to package memory as the service leaves NONE: PCTX, and context 0 LIVE; the rest of what it writes is
open (R365, log entry 12). -/
def State.firmwareWrites (s : State) (pkg : Nat) : State :=
  let s := (s.modPkg pkg fun p => { p with pctx := Config.bootPctx pkg % 2 ^ 48 }).spoil (keyPkg pkg 0) (2 ^ 48)
  s.setNum (keyPkg pkg ((s.pkg pkg).pctx + 0x40000)) 1 1

/-- The service follows the states of dies and stacks; each change is told to the host. Leaving NONE brings the READY stacks
into service. -/
def State.updateService (s : State) (pkg : Nat) : State :=
  let p := s.pkg pkg
  let leaves := p.service == 0 && p.serviceNow != 0
  let s := if leaves then s.modPkg pkg fun p => { p with inService := p.readyStacks } else s
  let now := (s.pkg pkg).serviceNow
  let s := if now = p.service then s
           else (s.modPkg pkg fun p => { p with service := now }).tell pkg 1 (bytesOf 4 1 ++ bytesOf 4 now ++ List.replicate 56 0)
  (if leaves then s.firmwareWrites pkg else s).releaseDies pkg

/-! ### Bring-up (R429, R430, R433) -/

/-- The stacks of a die: two at a corner die, one at an edge die, none at the centre; numbered by die. -/
def dieStacks (die : Nat) : List Nat :=
  match die with
  | 0 => [0, 1] | 1 => [2] | 2 => [3, 4] | 3 => [5] | 5 => [6] | 6 => [7, 8] | 7 => [9] | 8 => [10, 11] | _ => []

/-- A die in TRAINING whose stacks have left TRAINING and whose links are up becomes READY. -/
def State.checkDie (s : State) (pkg die : Nat) : State :=
  let p := s.pkg pkg
  let d := p.die die
  let trained := (dieStacks die).all fun k => let t := p.hbm.getD k .untrained; t == .ready || t == .failed
  if d.st = .training ∧ d.links ∧ trained then s.modDie pkg die fun d => { d with st := .ready } else s

/-- A package that has power. -/
def State.powered (s : State) (pkg : Nat) : Bool :=
  match s.pkg? pkg with
  | some p => p.pstate != 7
  | none => false

/-- A module of the pod is powered on: the ROMs of its dies start. The fabric mode bounds its number (R193). -/
def execPowerOn (pkg : Nat) (s : State) : Outcome State Fault Refusal :=
  .next (if (s.pkg? pkg).isSome ∨ (if s.extended then 4096 else 1024) ≤ pkg then s
    else { s with pkgs := (s.pkgs.filter fun p => decide (p.num < pkg)) ++ [Package.reset pkg] ++ s.pkgs.filter fun p => decide (pkg < p.num) })

def execFirmwareLoaded (pkg die : Nat) (image : List Byte) (s : State) : Outcome State Fault Refusal :=
  .next (s.modDie pkg die fun d => if s.powered pkg ∧ d.st = .rom then { d with st := .verify, fwBytes := image } else d)

/-- System software sets the fabric mode while no package's service is FULL and no process is LIVE (R193, R432, log entry 103). -/
def State.setFabricMode (s : State) (ext : Bool) : State :=
  let free := fun (p : Package) => p.service == 0 || (p.service == 1 && !(List.range 4095).any fun c => s.ctxLive p.num (c + 1))
  if (s.pkgs.all fun p => free p && (ext || decide (p.num < 1024))) then { s with extended := ext } else s

/-- The ROM accepts the image, so that the die and its stacks train, or the die has FAILED; with an image the software of the pod
asks for the extended fabric mode or not (log entry 103). -/
def execFirmwareVerified (pkg die : Nat) (s : State) : Outcome State Fault Refusal :=
  .next (
    let d := (s.pkg pkg).die die
    if !s.powered pkg ∨ d.st ≠ .verify then s
    else if !Config.imageAccepted die d.fwBytes then s.modDie pkg die fun d => { d with st := .failed }
    else
      let s := (s.setFabricMode (Config.extendedAsked pkg d.fwBytes)).modDie pkg die fun d => { d with st := .training, fw := some (Config.imageVersion d.fwBytes, Config.sha384 d.fwBytes) }
      let train := fun (p : Package) => { p with hbm := (dieStacks die).foldl (fun l k => setNth l k .training) p.hbm }
      ((s.modPkg pkg train).checkDie pkg die).updateService pkg)

def execStackTrainingDone (pkg stack : Nat) (pass : Bool) (s : State) : Outcome State Fault Refusal :=
  .next (if !s.powered pkg ∨ (s.pkg pkg).hbm.getD stack .untrained ≠ .training then s
    else
      let s := s.modPkg pkg fun p => { p with hbm := setNth p.hbm stack (if pass then .ready else .failed) }
      ((List.range 9).foldl (fun (s : State) d => s.checkDie pkg d) s).updateService pkg)

def execDieLinksUp (pkg die : Nat) (s : State) : Outcome State Fault Refusal :=
  .next (if !s.powered pkg ∨ ((s.pkg pkg).die die).st = .failed then s
    else ((s.modDie pkg die fun d => { d with links := true }).checkDie pkg die).updateService pkg)

def execThermalCalibrationDone (pkg : Nat) (s : State) : Outcome State Fault Refusal :=
  .next (if !s.powered pkg then s else (s.modPkg pkg fun p => { p with thermal := true }).updateService pkg)

/-! ### Management commands (R425) -/

/-- An octet string, most significant octet first (R434). -/
def octets (n x : Nat) : List Byte := (bytesOf n x).reverse

/-- The device's reply to a command. -/
def State.answer (s : State) (pkg : Nat) (msg : List Byte) (status : Nat) (body : List Byte) : State :=
  let n := body.length
  let head := bytesOf 1 (leField msg 0 1) ++ zeros 1 ++ bytesOf 2 (leField msg 2 2) ++ bytesOf 4 status ++ bytesOf 4 n
  s.tell pkg 7 (if n ≤ 52 then head ++ body ++ zeros (52 - n) else head ++ zeros 52 ++ body ++ zeros ((64 - n % 64) % 64))

/-- The frame of a command: its CMD, its res0 bits beyond `args` bytes of arguments, then what it does: a status, or the state
and reply body. An unknown CMD is answered FIELD; which of the seven events carries it does not matter. -/
def State.command (s : State) (pkg : Nat) (msg : List Byte) (cmd args : Nat) (f : State → Nat ⊕ (State × List Byte)) : State :=
  let c := leField msg 0 1
  if !s.powered pkg ∨ msg.length ≠ 64 then s
  else if c = 0 ∨ 7 < c then s.answer pkg msg 1 []
  else if c ≠ cmd then s
  else if leField msg 1 1 ≠ 0 ∨ (msg.drop (4 + args)).any fun b => b != 0 then s.answer pkg msg 1 []
  else match f s with
    | .inl st => s.answer pkg msg st []
    | .inr r => r.1.answer pkg msg 0 r.2

def dieCode (d : DieSt) : Nat := match d with | .rom => 0 | .verify => 1 | .training => 2 | .ready => 3 | .failed => 4
def stackCode (t : StackSt) : Nat := match t with | .untrained => 0 | .training => 1 | .ready => 2 | .failed => 3

/-- QUERY: service, PSTATE, dies, stacks, trip flag, a byte each (log entry 25). -/
def execQuery (pkg : Nat) (msg : List Byte) (s : State) : Outcome State Fault Refusal :=
  .next (s.command pkg msg 1 0 fun s =>
    let p := s.pkg pkg
    .inr (s, bytesOf 1 p.service ++ bytesOf 1 p.pstate ++ (p.dies.map fun d => BitVec.ofNat 8 (dieCode d.st)) ++
      (p.hbm.map fun t => BitVec.ofNat 8 (stackCode t)) ++ bytesOf 1 (if p.trip then 1 else 0)))

/-- The states from which a power state is accepted (R426). -/
def powerAccepted (cur new : Nat) (noCrew : Bool) : Bool :=
  match new with
  | 3 => (decide (cur ≤ 2) && noCrew) || cur == 4
  | 4 => cur == 3
  | 7 => cur == 3 || cur == 4
  | _ => decide (cur ≤ 3)

def execSetp (pkg : Nat) (msg : List Byte) (s : State) : Outcome State Fault Refusal :=
  .next (s.command pkg msg 2 4 fun s =>
    let x := leField msg 4 4
    if 4 < x ∧ x ≠ 7 then .inl 1
    else if !powerAccepted (s.pkg pkg).pstate x (!s.crews.any fun c => c.pkg == pkg) then .inl 2
    else if x = 7 then
      let s := ((s.modPkg pkg fun p => { p with pstate := 7 }).endsAbsent pkg).wipe pkg
      .inr (s.modPkg pkg fun p => { Package.reset pkg with member := p.member, reachable := p.reachable, pstate := 7 }, [])
    else
      let s := s.modPkg pkg fun p => { p with pstate := x }
      .inr (if x = 4 then s.endsAbsent pkg else s, []))

def execSetfloor (pkg : Nat) (msg : List Byte) (s : State) : Outcome State Fault Refusal :=
  .next (s.command pkg msg 3 4 fun s =>
    let x := leField msg 4 4
    if 1000000 < x then .inl 1 else .inr (s.modPkg pkg fun p => { p with stag := x }, []))

/-- The timers of R188, R404 and R412 go on after a trip that lasted d ns. -/
def State.shiftTimers (s : State) (pkg d : Nat) : State :=
  let s := s.mapGroups fun g => if g.pkg = pkg then { g with splits := g.splits.map fun p => { p with since := p.since + d } } else g
  { s with crews := s.crews.map fun (c : Crew) => if c.pkg = pkg then { c with preqAt := c.preqAt.map fun t => t + d } else c }

/-- CLEARTRIP: accepted while every junction is below 95 °C, which the model leaves open (log entry 1). -/
def execCleartrip (pkg : Nat) (msg : List Byte) (s : State) : Outcome State Fault Refusal :=
  .next (
    let (hot, s) := s.pick 2
    s.command pkg msg 4 0 fun s =>
      if hot = 1 then .inl 2
      else
        let p := s.pkg pkg
        let s := if p.trip then s.shiftTimers pkg (s.time - p.tripAt) else s
        .inr (s.modPkg pkg fun p => { p with trip := false }, []))

/-- The die that ATTEST and IDKEY name, with its identity; FIELD or NOTREADY. -/
def State.namedDie (s : State) (pkg : Nat) (msg : List Byte) : Nat ⊕ (Die × Nat) :=
  let k := leField msg 4 4
  if 8 < k then .inl 1
  else
    let d := (s.pkg pkg).die k
    if d.st ≠ .ready then .inl 3 else .inr (d, 16 * pkg + k)

/-- The signed part of a report (R434). -/
def State.attestBody (s : State) (pkg : Nat) (d : Die) (id : Nat) (nonce : List Byte) : List Byte :=
  let p := s.pkg pkg
  let cfg := bytesOf 4 (if s.extended then 1 else 0) ++ bytesOf 4 p.pstate ++ bytesOf 4 p.stag ++
    bytesOf 4 (d.dmem + if d.busy then 2 ^ 31 else 0)
  bytesOf 2 1 ++ bytesOf 1 (id % 16) ++ bytesOf 1 (dieCode d.st) ++ bytesOf 4 ((d.fw.map Prod.fst).getD 0) ++ bytesOf 8 s.time ++
  octets 16 (Config.serial id) ++ nonce ++ octets 48 ((d.fw.map Prod.snd).getD 0) ++ octets 48 (Config.sha384 cfg)

def execAttest (pkg : Nat) (msg : List Byte) (s : State) : Outcome State Fault Refusal :=
  .next (s.command pkg msg 5 36 fun s =>
    match s.namedDie pkg msg with
    | .inl e => .inl e
    | .inr (d, id) =>
      let b := s.attestBody pkg d id ((msg.drop 8).take 32)
      .inr (s, b ++ octets 48 (Config.signR id b) ++ octets 48 (Config.signS id b)))

def execIdkey (pkg : Nat) (msg : List Byte) (s : State) : Outcome State Fault Refusal :=
  .next (s.command pkg msg 6 4 fun s =>
    match s.namedDie pkg msg with
    | .inl e => .inl e
    | .inr (_, id) => .inr (s, bytesOf 1 4 ++ octets 48 (Config.publicX id) ++ octets 48 (Config.publicY id)))

/-- JOINMEM: BUSY while a process of its own, context 0 apart, is LIVE (log entry 26); else every READY stack enters service
and memory is hashed anew. -/
def execJoinmem (pkg : Nat) (msg : List Byte) (s : State) : Outcome State Fault Refusal :=
  .next (s.command pkg msg 7 0 fun s =>
    if (List.range 4095).any fun c => s.ctxLive pkg (c + 1) then .inl 2
    else
      let s := (s.modPkg pkg fun p => { p with inService := p.readyStacks }).spoil (keyPkg pkg 0) (2 ^ 48)
      let ks := (s.pkg pkg).inService
      .inr (s.updateService pkg, bytesOf 4 (ks.foldl (fun a k => a + 2 ^ k) 0)))

/-! ### Trips and resets (R362, R365, R426, R428) -/

/-- A junction at 105 °C: every core stops issue, and the host is told. -/
def execThermalTrip (pkg : Nat) (s : State) : Outcome State Fault Refusal :=
  .next (if !s.powered pkg ∨ (s.pkg pkg).trip then s
    else (s.modPkg pkg fun p => { p with trip := true, tripAt := s.time }).tell pkg 3 (bytesOf 4 3 ++ zeros 60))

/-- A host reset of a core: its registers are reset, a slot fault is cleared, its privileged groups start anew as at the
release; crews and undelivered events stay (log entry 27). -/
def execCoreReset (pkg core : Nat) (s : State) : Outcome State Fault Refusal :=
  .next (
    let c := s.core pkg core
    if !s.powered pkg ∨ !c.released then s
    else
      let s := s.dropGroups fun g => g.priv && g.pkg == pkg && g.core == core && g.id != 0
      let s := s.modCore pkg core fun c => { Core.reset pkg core with evq := c.cur.toList ++ c.evq, lgen := c.lgen }
      let s := { s with crews := s.crews.map fun (c : Crew) => if c.pkg = pkg ∧ c.core = core then { c with preqAt := none } else c }
      s.releaseCore pkg core)

/-- Die reset: the reset value of DSPLIT; die memory is undefined under its new share (R112, R365). -/
def execDieReset (pkg die : Nat) (s : State) : Outcome State Fault Refusal :=
  .next (if !s.powered pkg ∨ 9 ≤ die then s
    else (s.setDsplit pkg die 0).modDie pkg die fun d => { d with busy := false })

/-- Package reset: the reset values of SLICE and PCTX. -/
def execPackageReset (pkg : Nat) (s : State) : Outcome State Fault Refusal :=
  .next (if !s.powered pkg then s else s.modPkg pkg fun p => { p with slice := 0, pctx := 0 })

/-- The module loses power and gets it again: everything is as at power-on. -/
def execPowerCycle (pkg : Nat) (s : State) : Outcome State Fault Refusal :=
  .next (if (s.pkg? pkg).isNone then s else (((s.modPkg pkg fun p => { p with pstate := 7 }).endsAbsent pkg).wipe pkg).modPkg pkg fun p => { Package.reset pkg with member := p.member })

/-! ### Soft errors (R411) -/

/-- A soft error: a corrected one shows only in the arrival of the engine command that met it (kind 4); an uncorrectable one
poisons a memory word (0), a v register (1), an s or f register (2), a predicate (3) or a value queued at a port (5). -/
def execSoftError (kind addr idx : Nat) (corrected : Bool) (s : State) : Outcome State Fault Refusal :=
  .next (
    if corrected then
      if kind = 4 ∧ ((s.cmds.any fun c => c.id == addr) ∨ (s.streams.any fun x => x.id == addr)) then { s with corrected := addr :: s.corrected }
      else s
    else match kind with
      | 0 => if s.poison.contains (eccWord addr) then s else { s with poison := eccWord addr :: s.poison }
      | 1 => s.modGroup addr fun g => g.modLane (idx / 8192) fun l => { l with poison := idx % 8192 :: l.poison }
      | 2 => s.modGroup addr fun g => if idx % 72 = 0 then g else { g with bad := idx % 72 :: g.bad }
      | 3 => s.modGroup addr fun g => g.modLane (idx / 8) fun l => { l with poison := (2 ^ 20 + idx % 8) :: l.poison }
      | 5 => s.modGroup addr fun g => g.setPortQ (idx / 64) (idx % 64) (match g.portQ (idx / 64) (idx % 64) with
          | v :: t => { v with bad := true } :: t
          | [] => [])
      | _ => s)

end Sys2Proof.Machine
end

