-- ==== Sys2Proof/Machine/LaneOps.lean ====
section
/-! DEFINITION. Cross-lane instructions (R259 to R264) and the REGROUP rendezvous (R45 to R48, R265). -/

namespace Sys2Proof.Machine

open Host (Outcome)

/-- SHFL: the source lane is v[B] mod width; one outside the split's mask gives the lane's own A (R260). -/
def execShfl (d a b : BitVec 6) (n : Ann) (s : State) : Outcome State Fault Refusal :=
  issueG (.shfl d a b n) true s fun g =>
    g.post (g.targets g.actives d.toNat fun l =>
      let j := (g.v l b.toNat).toNat % g.width
      some (if flag g.mask j then g.v j a.toNat else g.v l a.toNat))

def execVote (d : BitVec 6) (a : BitVec 3) (n : Ann) (s : State) : Outcome State Fault Refusal :=
  issueG (.vote d a n) true s fun g => g.postS2 d.toNat (maskOf (g.actives.filter fun l => g.p l a.toNat))

/-- Types of an operation of R262: 0 ADD, 1 MIN, 2 MAX, 3 AND, 4 OR, 5 XOR. -/
def laneLegal (op et : Nat) : Bool := atomInt et || ((et == 14 || et == 15) && decide (op < 3))

/-- A lane's value by the input rules of its row (R262). -/
def laneIn (op et : Nat) (ftz : Bool) (x : Nat) : Nat :=
  match fmtOf et with
  | some f => if f.isNan x then f.nanCode else if op = 0 then f.flush ftz x else x
  | none => x

/-- One step of a combination (R262). -/
def laneOp (op et : Nat) (satM ftz : Bool) (x y : Nat) : Nat :=
  match fmtOf et with
  | some f =>
    match op with
    | 0 => f.flush ftz (f.round .rne false 0 ((f.decode x).add (f.decode y))).code
    | 1 => (f.round .rne false 0 (xMinMax false (f.decode x) (f.decode y))).code
    | _ => (f.round .rne false 0 (xMinMax true (f.decode x) (f.decode y))).code
  | none =>
    match op with
    | 0 => bring et satM (etVal et x + etVal et y)
    | 1 => if etVal et x ≤ etVal et y then x else y
    | 2 => if etVal et y ≤ etVal et x then x else y
    | 3 => x &&& y
    | 4 => x ||| y
    | _ => x ^^^ y

/-- The identities of R262. -/
def laneId (op et : Nat) : Nat :=
  match fmtOf et, op with
  | some _, 0 => 0
  | some f, 1 => f.infCode
  | some f, _ => f.sgn true + f.infCode
  | none, 0 => 0
  | none, 1 => wrap (etBits et) (etHigh et)
  | none, 2 => wrap (etBits et) (etLow et)
  | none, 3 => 2 ^ etBits et - 1
  | none, _ => 0

/-- The running combination over values: each prefix, inclusive (R262). -/
def laneScan (f : Nat → Nat → Nat) : Option Nat → List Nat → List Nat
  | _, [] => []
  | none, x :: t => x :: laneScan f (some x) t
  | some a, x :: t => f a x :: laneScan f (some (f a x)) t

def execLred (d a i : BitVec 6) (n : Ann) (s : State) : Outcome State Fault Refusal :=
  let op := i.toNat % 8
  issueG (.lred d a i n) (laneLegal op s.g.et && pairsEven s [d, a]) s fun g =>
    let xs := g.actives.map fun l => laneIn op g.et g.ftz (g.elem g.et l a.toNat)
    let r := ((laneScan (laneOp op g.et g.satM g.ftz) none xs).getLast?).getD (laneId op g.et)
    if wideEt g.et then g.postS2 d.toNat r else g.postS d.toNat (BitVec.ofNat 32 r)

def execLscan (d a i : BitVec 6) (n : Ann) (s : State) : Outcome State Fault Refusal :=
  let op := i.toNat % 8
  let excl := flag i.toNat 3
  issueG (.lscan d a i n) (laneLegal op s.g.et && pairsEven s [d, a]) s fun g =>
    let ls := g.actives
    let xs := ls.map fun l => laneIn op g.et g.ftz (g.elem g.et l a.toNat)
    let inc := laneScan (laneOp op g.et g.satM g.ftz) none xs
    let out := if excl then laneId op g.et :: inc else inc
    g.post (g.elemTargets ls g.et d.toNat fun l => out.getD (ls.findIdx fun k => k == l) 0)

/-- MATCH: the lowest active lane with an equal word (R263). -/
def execMatchV (d a : BitVec 6) (n : Ann) (s : State) : Outcome State Fault Refusal :=
  issueG (.matchV d a n) true s fun g =>
    g.post (g.targets g.actives d.toNat fun l =>
      some (BitVec.ofNat 32 ((g.actives.find? fun j => g.v j a.toNat == g.v l a.toNat).getD l)))

/-- COMPACT: active lanes' values to the front of the split, zeros behind; its destinations are not guarded (R264). -/
def execCompact (d a : BitVec 6) (n : Ann) (s : State) : Outcome State Fault Refusal :=
  issueG (.compact d a n) true s fun g =>
    let ms := g.lanesIn
    let ss := g.actives
    g.post (g.targets ms d.toNat fun l =>
      match ss[ms.findIdx fun k => k == l]? with
      | some k => some (g.v k a.toNat)
      | none => some 0)

/-! ### REGROUP -/

/-- Lane j of the receiver after a fusion: the named window registers, p, origin, LFSR state and lane-port queues of the
source lane; the rest of its stack is undefined, with a fresh seed (R46, R85, R190), and what a command holds is (R166). -/
def fuseLane (old src : Lane) (bm seed : Nat) (read : Nat → Word) : Lane :=
  { old with
    v := ((bitsSet 64 bm).filter fun x => !old.held (old.wb + x)).foldl (fun m x => rput m (old.wb + x) (read x)) []
    fill := some seed
    p := src.p
    origin := src.origin
    lfsr := src.lfsr
    inP := src.inP
    inM := src.inM
    earlyV := []
    earlyP := []
    spans := old.spans.map fun x => { x with touched := x.pos }
    poison := (bitsSet 64 bm).filterMap fun x => if src.poison.contains (src.wb + x) then some (old.wb + x) else none }

/-- The receiver g after fusing with donor h (R46). -/
def fuse (g h : Group) (bm seed : Nat) : Group :=
  let rcv := bitsSet g.width g.live
  let don := bitsSet h.width h.live
  let srcs : List (Group × Nat) := rcv.map (fun i => (g, i)) ++ don.map fun i => (h, i)
  let k := srcs.length
  { g with
    lanes := (List.range g.lanes.length).map fun j =>
      match srcs[j]? with
      | some (q, i) => fuseLane (g.lane j) (q.lane i) bm (seed + j) fun x => q.v i x
      | none => g.lane j
    splits := g.splits.map fun p => { p with mask := 2 ^ k - 1 } }

/-- The issuing group fails: true in its predicate destination in every live lane, scoreboarded (R47). -/
def Group.regroupFailed (g : Group) (pd : Nat) : Group :=
  g.post ((bitsSet g.width g.live).map fun i => (Target.p i pd, some 1))

def execRegroup (d : BitVec 3) (a b : BitVec 6) (n : Ann) (s : State) : Outcome State Fault Refusal :=
  issue (.regroup d a b n) true s fun s =>
    let g := s.g
    let partner := (g.sreg a.toNat).toNat
    let bm := g.s2 b.toNat
    let fail := Res.done { s with g := g.regroupFailed d.toNat }
    if !g.sb.isEmpty then .hold
    else if g.splits.length != 1 || !g.parks.isEmpty then fail
    else
      match s.groups.find? fun h => !g.priv && !h.priv && h.crew == g.crew && h.num == partner && h.live != 0 with
      | none => fail
      | some h =>
        if partner = g.num ∨ h.width ≠ g.width then fail
        else
          match h.regroupWait with
          | none => .wait s (.regroup partner bm d.toNat)
          | some (p', bm', pd') =>
            if p' ≠ g.num then .wait s (.regroup partner bm d.toNat)
            else if (s.bindSet g.id).length != 1 || (s.bindSet h.id).length != 1 || bm != bm' ||
                decide (g.width < (bitsSet g.width g.live ++ bitsSet h.width h.live).length) then
              .done (({ s with g := g.regroupFailed d.toNat }).modGroup h.id fun h => h.failRegroup pd')
            else if g.num < h.num then
              -- the issuer receives: the partner exits
              let g' := fuse g h bm s.free
              let g' := g'.post ((bitsSet g'.width g'.live).map fun i => (Target.p i d.toNat, some 0))
              .done (({ s with g := g', free := s.free + 64 }).groupExit h.id)
            else
              -- the waiting partner receives: the issuer exits
              let h' := fuse h g bm s.free
              let h' := h'.eachLane (bitsSet h'.width h'.live) fun l q => q.setP 0 l pd' false
              let h' := { h' with splits := h'.splits.map fun p => { p with pc := (p.pc + 4) % 2 ^ 64, wait := .none, age := 0 } }
              .jump (({ s with free := s.free + 64 }.modGroup h.id fun _ => h').groupExit g.id)

end Sys2Proof.Machine
end

