-- ==== Sys2Proof/Machine/Quant.lean ====
section
/-! DEFINITION. Quantisation and planes: QBLK, QCVT, PLSPLIT, PLJOIN (R284 to R289). -/

namespace Sys2Proof.Machine

open Host (Outcome)

/-- Types of the values that QBLK and QCVT take (R285, R287). -/
def quantEt (et : Nat) : Bool := et == 12 || et == 13 || et == 14

/-- The scale descriptor in f[(FR + 1) mod 8], when valid, with a block length and no more than `width` (R99, R285). -/
def State.qscale (g : Group) : Option Scale :=
  match Scale.parse (g.freg ((g.fr + 1) % 8)).toNat g.width with
  | some sc => if sc.sf = 0 then none else some sc
  | none => none

/-- The largest finite magnitude of a narrow format as m × 2^e: under SP = 3 the positive end (R94, R286). -/
def FCode.maxVal (f : FCode) : XR :=
  if f.sp = 3 then .fin false (2 ^ (f.w - 1) - 1) (-f.bias)
  else .fin false (f.magVal f.maxMag).1 (f.magVal f.maxMag).2

/-- The ratio of two non-negative finite values, numerator and denominator. -/
def ratioOf (a b : XR) : Nat × Nat :=
  match a, b with
  | .fin _ m e, .fin _ n f => scaleRat m n (e - f)
  | _, _ => (0, 1)

/-- The least UE4M3 code from c on whose value is at least num/den, or 0x7E (R286). -/
def ue4m3Up (num den : Nat) : Nat → Nat → Nat
  | 0, _ => 0x7E
  | fuel + 1, c =>
    match Scale.value 2 c with
    | .fin _ m e => let (x, y) := scaleRat m 1 e; if num * y ≤ x * den then c else ue4m3Up num den fuel (c + 1)
    | _ => 0x7E

/-- The scale code of a block (R286). A quotient by an fmax of 0 exceeds every limit. -/
def blockScale (sf : Nat) (fmax : XR) (xs : List XR) : Nat :=
  let bad := xs.any fun x => x.isNan || x.isInf
  let amax := xs.foldl (fun a x => if XR.cmp a x.abs == .lt then x.abs else a) (XR.zero false)
  let (num, den) := ratioOf amax fmax
  match sf with
  | 1 =>
    if bad then 0xFF else if amax.isZero then 0x7F else if fmax.isZero then 254
    else
      let k := ratLog2 num den
      let (p, q) := scaleRat 1 1 k
      let x := if num * q ≤ p * den then k else k + 1
      (max (-127) (min 127 x) + 127).toNat
  | 2 => if bad then 0x7F else if amax.isZero then 0x38 else if fmax.isZero then 0x7E else ue4m3Up num den 0x7E 1
  | _ =>
    if bad then 0x7FC0 else if amax.isZero then 0x3F80 else if fmax.isZero then 0x7F7F
    else max 1 (min 0x7F7F (bf16.roundMag .ru false 0 false (.rat num den)).code)

/-- A value that lane j offers to a cross-lane quantise instruction: +0 outside the split's mask (R284). -/
def Group.quantIn (g : Group) (f : FFmt) (j x : Nat) : XR :=
  if flag g.mask j && decide (j < g.width) then f.decode (f.flush g.ftz (g.elem g.et j x)) else XR.zero false

/-- The table of QBLK (R285): entries, or what stops the read. -/
inductive PermRes where
  | perm (p : List Nat) (s : State)
  | trap (code : Nat)
  | hold

def State.qperm (s : State) (off : Nat) : PermRes :=
  let g := s.g
  if off % 2 = 1 then .trap 0x05 else
  match s.windowTile g 1 with
  | none => .trap 0x06
  | some t =>
    let n := 2 * g.width
    let key := t.home + off
    if s.queuedAt g (2 ^ 80 + key) n || g.acqPending || s.tsoPending g.id s.next then .hold else
    let bad := fun j => decide (t.memb ≤ off + j) || s.guardKey (key + j)
    if (List.range n).any fun j => !bad j && s.poisonedAt (key + j) 1 then .trap 0x0A
    else
      let bs := (List.range n).map fun j => if bad j then 0 else s.groupByte g s.next (key + j) (s.byte (key + j))
      let s := if (List.range n).any bad then s.recordGuard g.crew g.num g.pc 1 off key else s
      .perm ((List.range g.width).map fun p => leField bs (2 * p) 2) s

def execQblk (d a b : BitVec 6) (n : Ann) (s : State) : Outcome State Fault Refusal :=
  issue (.qblk d a b n) (quantEt s.g.et && (s.fcode s.g).isSome && (State.qscale s.g).isSome) s fun s =>
    let g := s.g
    match fmtOf g.et, s.fcode g, State.qscale g with
    | some f, some fc, some sc =>
      let write := fun (t : State) (perm : List Nat) =>
        let js := perm.map fun p => p % g.width
        let xs := js.map fun j => g.quantIn f j a.toNat
        let scales := (List.range (g.width / sc.len)).map fun k =>
          blockScale sc.sf fc.maxVal ((xs.drop (k * sc.len)).take sc.len)
        let word := fun i => sc.sf * 2 ^ 22 + js.getD i 0 * 2 ^ 16 + scales.getD (i / sc.len) 0
        Res.done { t with g := t.g.eachLane g.actives fun i h => h.setV 6 i d.toNat (BitVec.ofNat 32 (word i)) }
      if b = 0 ∨ g.actives.isEmpty then write s (List.range g.width)
      else match s.qperm (g.sreg b.toNat).toNat with
        | .perm p t => write t p
        | .trap c => .trap c 0 (g.actives.headD 0)
        | .hold => .hold
    | _, _, _ => .done s

/-- The quotient of QCVT, rounded to the narrow format (R287). -/
def quotCode (fc : FCode) (rm : RM) (satM : Bool) (r : Nat) (x sv : XR) : Nat :=
  match x, sv with
  | .nan, _ => (fc.round rm satM r .nan).code
  | _, .nan => (fc.round rm satM r .nan).code
  | .inf _, .inf _ => (fc.round rm satM r .nan).code
  | .inf s, .fin t _ _ => (fc.round rm satM r (.inf (s != t))).code
  | .fin s _ _, .inf t => (fc.round rm satM r (.fin (s != t) 0 0)).code
  | .fin s m e, .fin t k f =>
    if k = 0 then (fc.round rm satM r (if m = 0 then .nan else .inf (s != t))).code
    else if m = 0 then (fc.round rm satM r (.fin (s != t) 0 0)).code
    else let (num, den) := scaleRat m k (e - f); (fc.roundRat rm satM r (s != t) num den).code

def execQcvt (d a b : BitVec 6) (n : Ann) (s : State) : Outcome State Fault Refusal :=
  issue (.qcvt d a b n) (quantEt s.g.et && (s.fcode s.g).isSome && rmLegal s) s fun s =>
    let g := s.g
    match fmtOf g.et, s.fcode g, RM.ofCode g.rm with
    | some f, some fc, some rm =>
      let one := fun (l : Nat) (h : Group) =>
        let w := (g.v l b.toNat).toNat
        let sf := field w 23 22
        let sv := Scale.value sf (if sf = 3 then w % 2 ^ 16 else w % 2 ^ 8)
        let (r, h) := h.drawLfsr rm l
        h.setV 6 l d.toNat (BitVec.ofNat 32 (quotCode fc rm g.satM r (g.quantIn f (field w 21 16) a.toNat) sv))
      .done { s with g := g.eachLane g.actives one }
    | _, _, _ => .done s

/-- A word that lane c offers to a plane instruction: zero bits outside the split's mask (R284). -/
def Group.planeIn (g : Group) (c x : Nat) : Nat :=
  if flag g.mask c && decide (c < g.width) then (g.v c x).toNat else 0

/-- PLSPLIT: one plane of the codes packed into plane registers (R288). -/
def execPlsplit (d a : BitVec 6) (i : BitVec 2) (n : Ann) (s : State) : Outcome State Fault Refusal :=
  issue (.plsplit d a i n)
    (s.g.et == 16 && ((s.fcode s.g).map fun fc => decide (i.toNat < (FCode.planes fc.w).length)).getD false) s fun s =>
    let g := s.g
    match s.fcode g with
    | some fc =>
      let b := (FCode.planes fc.w).getD i.toNat 1
      let k := 32 / b
      let word := fun (l : Nat) => (List.range k).foldl (fun r t =>
        let c := l * k + t
        if c < g.width then r + FCode.planeBits fc.w i.toNat (g.planeIn c a.toNat % 2 ^ fc.w) * 2 ^ (b * t) else r) 0
      .done { s with g := g.eachLane g.actives fun l h => h.setV 6 l d.toNat (BitVec.ofNat 32 (word l)) }
    | none => .done s

/-- The width of the plane that a partial code of c joined bits takes next (R289). -/
def nextPlane (ps : List Nat) (c acc : Nat) : Option Nat :=
  match ps with
  | [] => none
  | b :: t => if c = acc then some b else nextPlane t c (acc + b)

/-- PLJOIN: one more plane joined into a partial code (R289). -/
def execPljoin (d a b : BitVec 6) (n : Ann) (s : State) : Outcome State Fault Refusal :=
  issue (.pljoin d a b n) (s.g.et == 16 && (s.fcode s.g).isSome) s fun s =>
    let g := s.g
    match s.fcode g with
    | some fc =>
      let one := fun (l : Nat) (h : Group) =>
        let x := (g.v l a.toNat).toNat
        let c := field x 31 28
        match nextPlane (FCode.planes fc.w) c 0 with
        | some w =>
          let k := 32 / w
          let bits := g.planeIn (l / k) b.toNat / 2 ^ (w * (l % k)) % 2 ^ w
          let c' := if c + w = fc.w then 0 else c + w
          h.setV 6 l d.toNat (BitVec.ofNat 32 (c' * 2 ^ 28 + (x % 256 * 2 ^ w + bits) % 256))
        | none => h.setV 6 l d.toNat (g.v l a.toNat)
      .done { s with g := g.eachLane g.actives one }
    | none => .done s

end Sys2Proof.Machine
end

