-- ==== Sys2Proof/Machine/Scalar.lean ====
section
/-! DEFINITION. Scalar and predicate instructions (R256 to R258). -/

namespace Sys2Proof.Machine

open Host (Outcome)

/-- One scalar result (R256). -/
def scalar (i : Instr) (s : State) (d : BitVec 6) (f : Group → Word) : Outcome State Fault Refusal :=
  issueG i true s fun g => g.setS latInt d.toNat (f g)

def execSadd (d a b : BitVec 6) (n : Ann) (s : State) : Outcome State Fault Refusal :=
  scalar (.sadd d a b n) s d fun g => g.sreg a.toNat + g.sreg b.toNat

def execSsub (d a b : BitVec 6) (n : Ann) (s : State) : Outcome State Fault Refusal :=
  scalar (.ssub d a b n) s d fun g => g.sreg a.toNat - g.sreg b.toNat

def execSmul (d a b : BitVec 6) (n : Ann) (s : State) : Outcome State Fault Refusal :=
  scalar (.smul d a b n) s d fun g => g.sreg a.toNat * g.sreg b.toNat

def execSand (d a b : BitVec 6) (n : Ann) (s : State) : Outcome State Fault Refusal :=
  scalar (.sand d a b n) s d fun g => g.sreg a.toNat &&& g.sreg b.toNat

def execSor (d a b : BitVec 6) (n : Ann) (s : State) : Outcome State Fault Refusal :=
  scalar (.sor d a b n) s d fun g => g.sreg a.toNat ||| g.sreg b.toNat

def execSxor (d a b : BitVec 6) (n : Ann) (s : State) : Outcome State Fault Refusal :=
  scalar (.sxor d a b n) s d fun g => g.sreg a.toNat ^^^ g.sreg b.toNat

def execSshl (d a b : BitVec 6) (n : Ann) (s : State) : Outcome State Fault Refusal :=
  scalar (.sshl d a b n) s d fun g => shl32 (g.sreg a.toNat) (g.sreg b.toNat).toNat

def execSshr (d a b : BitVec 6) (n : Ann) (s : State) : Outcome State Fault Refusal :=
  scalar (.sshr d a b n) s d fun g => shr32 (g.sreg a.toNat) (g.sreg b.toNat).toNat

def execSmovSS (d a : BitVec 6) (n : Ann) (s : State) : Outcome State Fault Refusal :=
  scalar (.smovSS d a n) s d fun g => g.sreg a.toNat

/-- SMOV into an f register, unchecked (R52, R256). -/
def execSmovFS (d : BitVec 3) (a : BitVec 6) (n : Ann) (s : State) : Outcome State Fault Refusal :=
  issueG (.smovFS d a n) true s fun g => g.setF latInt d.toNat (g.sreg a.toNat)

def execSmovSF (d : BitVec 6) (a : BitVec 3) (n : Ann) (s : State) : Outcome State Fault Refusal :=
  scalar (.smovSF d a n) s d fun g => g.freg a.toNat

def execSlitS (d : BitVec 6) (x : Word) (n : Ann) (s : State) : Outcome State Fault Refusal :=
  scalar (.slitS d x n) s d fun _ => x

def execSlitF (d : BitVec 3) (x : Word) (n : Ann) (s : State) : Outcome State Fault Refusal :=
  issueG (.slitF d x n) true s fun g => g.setF latInt d.toNat x

/-- SCMP: a compare of S32 values into the predicate of every lane of the issuing split (R257). -/
def execScmp (d : BitVec 3) (a b : BitVec 6) (fn : BitVec 4) (n : Ann) (s : State) : Outcome State Fault Refusal :=
  issueG (.scmp d a b fn n) true s fun g =>
    g.eachLane g.lanesIn fun l h =>
      h.setP latInt l d.toNat (condInt fn.toNat (g.sreg a.toNat).toInt (g.sreg b.toNat).toInt)

/-- One predicate result per active lane (R258). -/
def predOp (i : Instr) (s : State) (d : BitVec 3) (f : Group → Nat → Bool) : Outcome State Fault Refusal :=
  issueG i true s fun g => g.eachLane g.actives fun l h => h.setP latInt l d.toNat (f g l)

def execPand (d a b : BitVec 3) (n : Ann) (s : State) : Outcome State Fault Refusal :=
  predOp (.pand d a b n) s d fun g l => g.p l a.toNat && g.p l b.toNat

def execPor (d a b : BitVec 3) (n : Ann) (s : State) : Outcome State Fault Refusal :=
  predOp (.por d a b n) s d fun g l => g.p l a.toNat || g.p l b.toNat

def execPxor (d a b : BitVec 3) (n : Ann) (s : State) : Outcome State Fault Refusal :=
  predOp (.pxor d a b n) s d fun g l => g.p l a.toNat != g.p l b.toNat

def execPnot (d a : BitVec 3) (n : Ann) (s : State) : Outcome State Fault Refusal :=
  predOp (.pnot d a n) s d fun g l => !g.p l a.toNat

def execPmov (d a : BitVec 3) (n : Ann) (s : State) : Outcome State Fault Refusal :=
  predOp (.pmov d a n) s d fun g l => g.p l a.toNat

end Sys2Proof.Machine
end

