-- ==== Sys2Proof/Machine/Dispatch.lean ====
section
/-! DEFINITION. exec: one arm per constructor of Instr, each one call of its meaning. -/

namespace Sys2Proof.Machine

open Host (Outcome)

def exec (i : Instr) (s : State) : Host.Outcome State Fault Refusal :=
  match i with
  | .nop n => Sys2Proof.Machine.execNop n s
  | .yield n => Sys2Proof.Machine.execYield n s
  | .setm imm => Sys2Proof.Machine.execSetm imm s
  | .setmh imm => Sys2Proof.Machine.execSetmh imm s
  | .getm d n => Sys2Proof.Machine.execGetm d n s
  | .gets d a n => Sys2Proof.Machine.execGets d a n s
  | .braJ o n => Sys2Proof.Machine.execBraJ o n s
  | .braL pn p off n => Sys2Proof.Machine.execBraL pn p off n s
  | .brx a n => Sys2Proof.Machine.execBrx a n s
  | .call n off ann => Sys2Proof.Machine.execCall n off ann s
  | .callx d a n => Sys2Proof.Machine.execCallx d a n s
  | .ret d n => Sys2Proof.Machine.execRet d n s
  | .exit n => Sys2Proof.Machine.execExit n s
  | .trap imm n => Sys2Proof.Machine.execTrap imm n s
  | .brk imm n => Sys2Proof.Machine.execBrk imm n s
  | .wait file a n => Sys2Proof.Machine.execWait file a n s
  | .sleep a n => Sys2Proof.Machine.execSleep a n s
  | .phint r0 r1 lo hi n => Sys2Proof.Machine.execPhint r0 r1 lo hi n s
  | .iadd d a b n => Sys2Proof.Machine.execIadd d a b n s
  | .isub d a b n => Sys2Proof.Machine.execIsub d a b n s
  | .iaddc d a b p pn n => Sys2Proof.Machine.execIaddc d a b p pn n s
  | .imul d a b n => Sys2Proof.Machine.execImul d a b n s
  | .imulh d a b n => Sys2Proof.Machine.execImulh d a b n s
  | .imad d a b n => Sys2Proof.Machine.execImad d a b n s
  | .ineg d a n => Sys2Proof.Machine.execIneg d a n s
  | .iabs d a n => Sys2Proof.Machine.execIabs d a n s
  | .imin d a b n => Sys2Proof.Machine.execImin d a b n s
  | .imax d a b n => Sys2Proof.Machine.execImax d a b n s
  | .and d a b n => Sys2Proof.Machine.execAnd d a b n s
  | .or d a b n => Sys2Proof.Machine.execOr d a b n s
  | .xor d a b n => Sys2Proof.Machine.execXor d a b n s
  | .andn d a b n => Sys2Proof.Machine.execAndn d a b n s
  | .not d a n => Sys2Proof.Machine.execNot d a n s
  | .shlR d a b n => Sys2Proof.Machine.execShlR d a b n s
  | .shrR d a b n => Sys2Proof.Machine.execShrR d a b n s
  | .shaR d a b n => Sys2Proof.Machine.execShaR d a b n s
  | .rolR d a b n => Sys2Proof.Machine.execRolR d a b n s
  | .shlI d a imm n => Sys2Proof.Machine.execShlI d a imm n s
  | .shrI d a imm n => Sys2Proof.Machine.execShrI d a imm n s
  | .shaI d a imm n => Sys2Proof.Machine.execShaI d a imm n s
  | .rolI d a imm n => Sys2Proof.Machine.execRolI d a imm n s
  | .fsh d a imm n => Sys2Proof.Machine.execFsh d a imm n s
  | .popc d a n => Sys2Proof.Machine.execPopc d a n s
  | .clz d a n => Sys2Proof.Machine.execClz d a n s
  | .brev d a n => Sys2Proof.Machine.execBrev d a n s
  | .bfx d a pos len n => Sys2Proof.Machine.execBfx d a pos len n s
  | .bfi d a b pos len n => Sys2Proof.Machine.execBfi d a b pos len n s
  | .bperm d a b n => Sys2Proof.Machine.execBperm d a b n s
  | .sel d a b p pn n => Sys2Proof.Machine.execSel d a b p pn n s
  | .icmp d a b fn n => Sys2Proof.Machine.execIcmp d a b fn n s
  | .iaddi d a imm n => Sys2Proof.Machine.execIaddi d a imm n s
  | .mov d a n => Sys2Proof.Machine.execMov d a n s
  | .movi d imm n => Sys2Proof.Machine.execMovi d imm n s
  | .lit d x n => Sys2Proof.Machine.execLit d x n s
  | .movs d a n => Sys2Proof.Machine.execMovs d a n s
  | .movv d a imm n => Sys2Proof.Machine.execMovv d a imm n s
  | .lea d a b n => Sys2Proof.Machine.execLea d a b n s
  | .sadd d a b n => Sys2Proof.Machine.execSadd d a b n s
  | .ssub d a b n => Sys2Proof.Machine.execSsub d a b n s
  | .smul d a b n => Sys2Proof.Machine.execSmul d a b n s
  | .sand d a b n => Sys2Proof.Machine.execSand d a b n s
  | .sor d a b n => Sys2Proof.Machine.execSor d a b n s
  | .sxor d a b n => Sys2Proof.Machine.execSxor d a b n s
  | .sshl d a b n => Sys2Proof.Machine.execSshl d a b n s
  | .sshr d a b n => Sys2Proof.Machine.execSshr d a b n s
  | .scmp d a b fn n => Sys2Proof.Machine.execScmp d a b fn n s
  | .smovSS d a n => Sys2Proof.Machine.execSmovSS d a n s
  | .smovFS d a n => Sys2Proof.Machine.execSmovFS d a n s
  | .smovSF d a n => Sys2Proof.Machine.execSmovSF d a n s
  | .slitS d x n => Sys2Proof.Machine.execSlitS d x n s
  | .slitF d x n => Sys2Proof.Machine.execSlitF d x n s
  | .pand d a b n => Sys2Proof.Machine.execPand d a b n s
  | .por d a b n => Sys2Proof.Machine.execPor d a b n s
  | .pxor d a b n => Sys2Proof.Machine.execPxor d a b n s
  | .pnot d a n => Sys2Proof.Machine.execPnot d a n s
  | .pmov d a n => Sys2Proof.Machine.execPmov d a n s
  | .shfl d a b n => Sys2Proof.Machine.execShfl d a b n s
  | .vote d a n => Sys2Proof.Machine.execVote d a n s
  | .lred d a imm n => Sys2Proof.Machine.execLred d a imm n s
  | .lscan d a imm n => Sys2Proof.Machine.execLscan d a imm n s
  | .matchV d a n => Sys2Proof.Machine.execMatchV d a n s
  | .compact d a n => Sys2Proof.Machine.execCompact d a n s
  | .regroup d a b n => Sys2Proof.Machine.execRegroup d a b n s
  | .fadd d a b n => Sys2Proof.Machine.execFadd d a b n s
  | .fsub d a b n => Sys2Proof.Machine.execFsub d a b n s
  | .fmul d a b n => Sys2Proof.Machine.execFmul d a b n s
  | .ffma d a b n => Sys2Proof.Machine.execFfma d a b n s
  | .fmin d a b n => Sys2Proof.Machine.execFmin d a b n s
  | .fmax d a b n => Sys2Proof.Machine.execFmax d a b n s
  | .fminn d a b n => Sys2Proof.Machine.execFminn d a b n s
  | .fmaxn d a b n => Sys2Proof.Machine.execFmaxn d a b n s
  | .fabs d a n => Sys2Proof.Machine.execFabs d a n s
  | .fneg d a n => Sys2Proof.Machine.execFneg d a n s
  | .fcmp d a b fn n => Sys2Proof.Machine.execFcmp d a b fn n s
  | .frcp d a n => Sys2Proof.Machine.execFrcp d a n s
  | .frsq d a n => Sys2Proof.Machine.execFrsq d a n s
  | .fsqrt d a n => Sys2Proof.Machine.execFsqrt d a n s
  | .fex2 d a n => Sys2Proof.Machine.execFex2 d a n s
  | .flg2 d a n => Sys2Proof.Machine.execFlg2 d a n s
  | .fsin d a n => Sys2Proof.Machine.execFsin d a n s
  | .fcos d a n => Sys2Proof.Machine.execFcos d a n s
  | .ftanh d a n => Sys2Proof.Machine.execFtanh d a n s
  | .fscl d a b n => Sys2Proof.Machine.execFscl d a b n s
  | .frnd d a n => Sys2Proof.Machine.execFrnd d a n s
  | .fcls d a n => Sys2Proof.Machine.execFcls d a n s
  | .fcvt d a imm n => Sys2Proof.Machine.execFcvt d a imm n s
  | .icvt d a imm n => Sys2Proof.Machine.execIcvt d a imm n s
  | .tsum d a b n => Sys2Proof.Machine.execTsum d a b n s
  | .tprd d a b n => Sys2Proof.Machine.execTprd d a b n s
  | .cmul d a b n => Sys2Proof.Machine.execCmul d a b n s
  | .cfma d a b n => Sys2Proof.Machine.execCfma d a b n s
  | .dot2 d a b n => Sys2Proof.Machine.execDot2 d a b n s
  | .h2add d a b n => Sys2Proof.Machine.execH2add d a b n s
  | .h2mul d a b n => Sys2Proof.Machine.execH2mul d a b n s
  | .h2fma d a b n => Sys2Proof.Machine.execH2fma d a b n s
  | .qblk d a b n => Sys2Proof.Machine.execQblk d a b n s
  | .qcvt d a b n => Sys2Proof.Machine.execQcvt d a b n s
  | .plsplit d a imm n => Sys2Proof.Machine.execPlsplit d a imm n s
  | .pljoin d a b n => Sys2Proof.Machine.execPljoin d a b n s
  | .ldI d a imm n => Sys2Proof.Machine.execLdI d a imm n s
  | .ldL d a off n => Sys2Proof.Machine.execLdL d a off n s
  | .stI d a imm n => Sys2Proof.Machine.execStI d a imm n s
  | .stL d a off n => Sys2Proof.Machine.execStL d a off n s
  | .ldl d a b n => Sys2Proof.Machine.execLdl d a b n s
  | .stl d a b n => Sys2Proof.Machine.execStl d a b n s
  | .atom d a b fn n => Sys2Proof.Machine.execAtom d a b fn n s
  | .atomc d a b n => Sys2Proof.Machine.execAtomc d a b n s
  | .red a b fn n => Sys2Proof.Machine.execRed a b fn n s
  | .fence n => Sys2Proof.Machine.execFence n s
  | .cctl a imm n => Sys2Proof.Machine.execCctl a imm n s
  | .lalloc d a imm n => Sys2Proof.Machine.execLalloc d a imm n s
  | .lfree d a imm n => Sys2Proof.Machine.execLfree d a imm n s
  | .tlmake d a n => Sys2Proof.Machine.execTlmake d a n s
  | .tldrop d a n => Sys2Proof.Machine.execTldrop d a n s
  | .tlqry d a imm n => Sys2Proof.Machine.execTlqry d a imm n s
  | .binit d a imm n => Sys2Proof.Machine.execBinit d a imm n s
  | .blink d a b n => Sys2Proof.Machine.execBlink d a b n s
  | .bara a imm n => Sys2Proof.Machine.execBara a imm n s
  | .barw d a imm n => Sys2Proof.Machine.execBarw d a imm n s
  | .baraw d a imm n => Sys2Proof.Machine.execBaraw d a imm n s
  | .bart d a imm n => Sys2Proof.Machine.execBart d a imm n s
  | .barx d a imm n => Sys2Proof.Machine.execBarx d a imm n s
  | .push a imm n => Sys2Proof.Machine.execPush a imm n s
  | .pushr a imm n => Sys2Proof.Machine.execPushr a imm n s
  | .pop d imm n => Sys2Proof.Machine.execPop d imm n s
  | .peek d imm n => Sys2Proof.Machine.execPeek d imm n s
  | .pqry d imm n => Sys2Proof.Machine.execPqry d imm n s
  | .plink d a imm n => Sys2Proof.Machine.execPlink d a imm n s
  | .plinkUnlink d imm n => Sys2Proof.Machine.execPlinkUnlink d imm n s
  | .tret n => Sys2Proof.Machine.execTret n s
  | .csrr d csr n => Sys2Proof.Machine.execCsrr d csr n s
  | .csrw a csr n => Sys2Proof.Machine.execCsrw a csr n s
  | .ctxrd d a item n => Sys2Proof.Machine.execCtxrd d a item n s
  | .ctxwr d a item n => Sys2Proof.Machine.execCtxwr d a item n s
  | .save d a b n => Sys2Proof.Machine.execSave d a b n s
  | .rstr d a b n => Sys2Proof.Machine.execRstr d a b n s
  | .haltcr d a n => Sys2Proof.Machine.execHaltcr d a n s
  | .resume d a n => Sys2Proof.Machine.execResume d a n s
  | .killcr d a n => Sys2Proof.Machine.execKillcr d a n s
  | .tlbinv d a b n => Sys2Proof.Machine.execTlbinv d a b n s
  | .cinv a imm n => Sys2Proof.Machine.execCinv a imm n s
  | .tkt d a b n => Sys2Proof.Machine.execTkt d a b n s
  | .hmsg d a b n => Sys2Proof.Machine.execHmsg d a b n s
  | .idle n => Sys2Proof.Machine.execIdle n s
  | .mcopy y d a => Sys2Proof.Machine.execMcopy y d a s
  | .ucopy y d a => Sys2Proof.Machine.execUcopy y d a s
  | .gcopy y d a => Sys2Proof.Machine.execGcopy y d a s
  | .reduce y d a => Sys2Proof.Machine.execReduce y d a s
  | .cqry d a b => Sys2Proof.Machine.execCqry d a b s
  | .vinit y d a b => Sys2Proof.Machine.execVinit y d a b s
  | .vtake d a => Sys2Proof.Machine.execVtake d a s
  | .vput y d a b => Sys2Proof.Machine.execVput y d a b s
  | .vqry d a b => Sys2Proof.Machine.execVqry d a b s
  | .sfill y d a b => Sys2Proof.Machine.execSfill y d a b s
  | .sdrain y d a b => Sys2Proof.Machine.execSdrain y d a b s
  | .sstop y d a => Sys2Proof.Machine.execSstop y d a s
  | .mma y d a b => Sys2Proof.Machine.execMma y d a b s
  | .mmac y d a b => Sys2Proof.Machine.execMmac y d a b s
  | .mfence => Sys2Proof.Machine.execMfence s
  | .mwait a => Sys2Proof.Machine.execMwait a s
  | .mqry d a => Sys2Proof.Machine.execMqry d a s
  | .celget d a => Sys2Proof.Machine.execCelget d a s
  | .celpin y d a b => Sys2Proof.Machine.execCelpin y d a b s
  | .celfree y d a => Sys2Proof.Machine.execCelfree y d a s
  | .celfreeEvict y d a => Sys2Proof.Machine.execCelfreeEvict y d a s
  | .celld y d a => Sys2Proof.Machine.execCelld y d a s
  | .celst y d a => Sys2Proof.Machine.execCelst y d a s
  | .celz y d a => Sys2Proof.Machine.execCelz y d a s
  | .delta y d a => Sys2Proof.Machine.execDelta y d a s
  | .dqry y d a => Sys2Proof.Machine.execDqry y d a s
  | .agset d a => Sys2Proof.Machine.execAgset d a s
  | .agfree y d a => Sys2Proof.Machine.execAgfree y d a s
  | .mst y d a => Sys2Proof.Machine.execMst y d a s
  | .mldr y d a => Sys2Proof.Machine.execMldr y d a s
  | .coll y d a => Sys2Proof.Machine.execColl y d a s
  | .collw d a => Sys2Proof.Machine.execCollw d a s
  | .flush => Sys2Proof.Machine.execFlush s
  | .launch y d a b => Sys2Proof.Machine.execLaunch y d a b s
  | .launchd y d a b => Sys2Proof.Machine.execLaunchd y d a b s
  | .join d => Sys2Proof.Machine.execJoin d s
  | .joinall d => Sys2Proof.Machine.execJoinall d s
  | .tileq d a => Sys2Proof.Machine.execTileq d a s
  | .cancel y d => Sys2Proof.Machine.execCancel y d s
  | .qpush y d a b => Sys2Proof.Machine.execQpush y d a b s
  | .timeq d a => Sys2Proof.Machine.execTimeq d a s
  | .tsig y d a b => Sys2Proof.Machine.execTsig y d a b s
  | .scoreboardLand gid sb => Sys2Proof.Machine.execScoreboardLand gid sb s
  | .storeQueueDrain gid => Sys2Proof.Machine.execStoreQueueDrain gid s
  | .storeAck id => Sys2Proof.Machine.execStoreAck id s
  | .remoteAccess pkt => Sys2Proof.Machine.execRemoteAccess pkt s
  | .fabricResponse pkt => Sys2Proof.Machine.execFabricResponse pkt s
  | .impreciseFault => Sys2Proof.Machine.execImpreciseFault s
  | .spill gid split => Sys2Proof.Machine.execSpill gid split s
  | .fill gid split => Sys2Proof.Machine.execFill gid split s
  | .haltComplete crew => Sys2Proof.Machine.execHaltComplete crew s
  | .eventDelivery pkg core => Sys2Proof.Machine.execEventDelivery pkg core s
  | .preqWrite a hi n => Sys2Proof.Machine.execPreqWrite a hi n s
  | .graceExpiry crew => Sys2Proof.Machine.execGraceExpiry crew s
  | .watchdog gid split => Sys2Proof.Machine.execWatchdog gid split s
  | .dsplitWrite a n => Sys2Proof.Machine.execDsplitWrite a n s
  | .dsplitDone pkg die => Sys2Proof.Machine.execDsplitDone pkg die s
  | .timelRead d n => Sys2Proof.Machine.execTimelRead d n s
  | .ctxerrRead d n => Sys2Proof.Machine.execCtxerrRead d n s
  | .childStart tile k => Sys2Proof.Machine.execChildStart tile k s
  | .dependenceEntry tile k => Sys2Proof.Machine.execDependenceEntry tile k s
  | .childRelaunch tile k => Sys2Proof.Machine.execChildRelaunch tile k s
  | .tileComplete tile => Sys2Proof.Machine.execTileComplete tile s
  | .sleepWake gid split => Sys2Proof.Machine.execSleepWake gid split s
  | .tsigFire crew n => Sys2Proof.Machine.execTsigFire crew n s
  | .copyArrival cmd => Sys2Proof.Machine.execCopyArrival cmd s
  | .streamSlotDone stream => Sys2Proof.Machine.execStreamSlotDone stream s
  | .streamFault stream => Sys2Proof.Machine.execStreamFault stream s
  | .matrixArrival cmd => Sys2Proof.Machine.execMatrixArrival cmd s
  | .portValueLand gid port lane => Sys2Proof.Machine.execPortValueLand gid port lane s
  | .portPark gid split => Sys2Proof.Machine.execPortPark gid split s
  | .portDeadlock gid => Sys2Proof.Machine.execPortDeadlock gid s
  | .fabricArrival cmd => Sys2Proof.Machine.execFabricArrival cmd s
  | .switchContribution cmd => Sys2Proof.Machine.execSwitchContribution cmd s
  | .tupleTimeout grp seq => Sys2Proof.Machine.execTupleTimeout grp seq s
  | .collStepTimeout cmd => Sys2Proof.Machine.execCollStepTimeout cmd s
  | .fabricPacketExpiry pkt => Sys2Proof.Machine.execFabricPacketExpiry pkt s
  | .linkFailure pkg plane what => Sys2Proof.Machine.execLinkFailure pkg plane what s
  | .kick pkg ctx slot w => Sys2Proof.Machine.execKick pkg ctx slot w s
  | .nopPacket pkg q => Sys2Proof.Machine.execNopPacket pkg q s
  | .launchPacket pkg q core => Sys2Proof.Machine.execLaunchPacket pkg q core s
  | .gangPacket pkg q => Sys2Proof.Machine.execGangPacket pkg q s
  | .waitPacket pkg q => Sys2Proof.Machine.execWaitPacket pkg q s
  | .waitPacketPoll pkg q idx => Sys2Proof.Machine.execWaitPacketPoll pkg q idx s
  | .signalPacket pkg q => Sys2Proof.Machine.execSignalPacket pkg q s
  | .signalAck pkg q idx => Sys2Proof.Machine.execSignalAck pkg q idx s
  | .timestampPacket pkg q => Sys2Proof.Machine.execTimestampPacket pkg q s
  | .reserve gang part core => Sys2Proof.Machine.execReserve gang part core s
  | .held gang part => Sys2Proof.Machine.execHeld gang part s
  | .gangNo gang part => Sys2Proof.Machine.execGangNo gang part s
  | .commit gang part => Sys2Proof.Machine.execCommit gang part s
  | .release gang part => Sys2Proof.Machine.execRelease gang part s
  | .reserveTimerExpiry gang => Sys2Proof.Machine.execReserveTimerExpiry gang s
  | .holdTimerExpiry gang part => Sys2Proof.Machine.execHoldTimerExpiry gang part s
  | .backoffExpiry gang => Sys2Proof.Machine.execBackoffExpiry gang s
  | .gangPartStart gang part => Sys2Proof.Machine.execGangPartStart gang part s
  | .rdmaWrite pkg ctx hnd off data => Sys2Proof.Machine.execRdmaWrite pkg ctx hnd off data s
  | .rdmaRead pkg ctx hnd off len => Sys2Proof.Machine.execRdmaRead pkg ctx hnd off len s
  | .rdmaNak pkg kind => Sys2Proof.Machine.execRdmaNak pkg kind s
  | .hmsgTimeout cmd => Sys2Proof.Machine.execHmsgTimeout cmd s
  | .query pkg msg => Sys2Proof.Machine.execQuery pkg msg s
  | .setp pkg msg => Sys2Proof.Machine.execSetp pkg msg s
  | .setfloor pkg msg => Sys2Proof.Machine.execSetfloor pkg msg s
  | .cleartrip pkg msg => Sys2Proof.Machine.execCleartrip pkg msg s
  | .attest pkg msg => Sys2Proof.Machine.execAttest pkg msg s
  | .idkey pkg msg => Sys2Proof.Machine.execIdkey pkg msg s
  | .joinmem pkg msg => Sys2Proof.Machine.execJoinmem pkg msg s
  | .thermalTrip pkg => Sys2Proof.Machine.execThermalTrip pkg s
  | .powerOn pkg => Sys2Proof.Machine.execPowerOn pkg s
  | .firmwareLoaded pkg die image => Sys2Proof.Machine.execFirmwareLoaded pkg die image s
  | .firmwareVerified pkg die => Sys2Proof.Machine.execFirmwareVerified pkg die s
  | .stackTrainingDone pkg stack pass => Sys2Proof.Machine.execStackTrainingDone pkg stack pass s
  | .dieLinksUp pkg die => Sys2Proof.Machine.execDieLinksUp pkg die s
  | .thermalCalibrationDone pkg => Sys2Proof.Machine.execThermalCalibrationDone pkg s
  | .coreReset pkg core => Sys2Proof.Machine.execCoreReset pkg core s
  | .dieReset pkg die => Sys2Proof.Machine.execDieReset pkg die s
  | .packageReset pkg => Sys2Proof.Machine.execPackageReset pkg s
  | .powerCycle pkg => Sys2Proof.Machine.execPowerCycle pkg s
  | .softError kind addr idx corrected => Sys2Proof.Machine.execSoftError kind addr idx corrected s
  | .podTimeSyncChange pkg sync skew => Sys2Proof.Machine.execPodTimeSyncChange pkg sync skew s
  | .packageReachable pkg plane => Sys2Proof.Machine.execPackageReachable pkg plane s

end Sys2Proof.Machine
end

