-- ==== Sys2Proof/Machine/Turns.lean ====
section
/-! DEFINITION. Whose turn it is, when no turn is given; and the placing of one instruction for withFetchWord. -/

namespace Sys2Proof.Machine

/-- The group with gid in focus at its split idx. -/
def State.onSplit (s : State) (gid idx : Nat) : State :=
  let t := s.focus gid
  if t.g.id = gid then { t with g := { t.g with cur := idx } } else t

/-- A turn that nothing fixes: time passes, and then a split issues, or an event of the table happens with operands of any
value; one that is not enabled changes nothing (R5, log entry 3). -/
def State.anyTurn (s : State) : Act × State :=
  let (dt, s) := s.draw
  let s := { s with time := s.time + dt }
  let (which, s) := s.pick 2
  if which = 0 then let (gid, s) := s.draw; let (split, s) := s.pick 4; (.issue gid split, s)
  else (.event (Config.freeEvent s.free), { s with free := s.free + 1 })

/-- Where withFetchWord puts things in package memory: the context table, the page tables of context 0, and the code. -/
def placePctx : Nat := 0x100000
def placeRoot : Nat := 0x1000
def placeCode : Nat := 0x10000

/-- One instruction in memory, a group of package 0, core 0 at it, and its issue as the next turn (log entry 12). -/
def State.placeWord (s : State) (nbits w : Nat) : State :=
  let x := w % 2 ^ nbits
  let op := (tableWord x 0).toNat / 2 ^ 24
  let priv := decide (0xC0 ≤ op) && decide (op ≤ 0xCE)
  let gid := s.next
  let crew := s.next + 1
  let ctxAt := placePctx + 0x40000
  let p0 := Package.reset 0
  let die : Die := { Die.reset with st := .ready, links := true }
  let p : Package := { p0 with
    pctx := placePctx, service := 2, inService := List.range 12, thermal := true, dies := List.replicate 9 die,
    hbm := List.replicate 12 .ready }
  let s := { s with pkgs := [p] }
  let s := ((s.setNum (keyPkg 0 ctxAt) 1 1).setNum (keyPkg 0 (ctxAt + 8)) 8 placeRoot)
  let s := (s.setNum (keyPkg 0 placeRoot) 8 (placeRoot + 0x1000 + 1)).setNum (keyPkg 0 (placeRoot + 0x1000)) 8 0x1F
  let s := s.setNum (keyPkg 0 placeCode) 12 x
  let g := Group.start gid 0 0 (if priv then 0 else crew) 0 8 2 priv false 0 none 0 0 (2 ^ 52 + placeCode) s.free
  let c : Crew := ⟨crew, 0, 0, 0, 0, .run, none, 0, [(0, 2)], 2, 8, 0, none, [], none, none, false⟩
  { s with
    g := g
    groups := if s.g.id = 0 then s.groups else s.g :: s.groups
    crews := if priv then s.crews else c :: s.crews
    next := s.next + 2
    free := s.free + 8
    agenda := [⟨0, .issue gid 0⟩] }

end Sys2Proof.Machine
end

