-- ==== Sys2Proof/Machine/Step.lean ====
section
/-! DEFINITION. step: one turn of the machine, and withFetchWord, which places one instruction to run next. -/

namespace Sys2Proof.Machine

open Host (Outcome)

/-- One turn's act: the next instruction of a split, or a step of a device. A split that may not issue does nothing. -/
def act (s : State) (a : Act) : Host.Outcome State Fault Refusal :=
  match a with
  | .pass => .next s
  | .event i => if i.isEvent then exec i s else .next s
  | .issue gid idx =>
    let t := s.onSplit gid idx
    if t.g.id = gid ∧ t.canIssue then
      match t.issued with
      | (.inl i, t) => exec i t
      | (.inr c, t) => .next (t.takeTrap c 0 t.g.lowLane)
    else .next s

/-- One step: the first turn of the agenda, or, when it is empty, a turn that nothing fixes (log entry 3). -/
def step (s : State) : Host.Outcome State Fault Refusal :=
  match s.agenda with
  | t :: rest => act { s with agenda := rest, time := s.time + t.dt } t.act
  | [] => let (a, s) := s.anyTurn; act s a

/-- The state with one instruction placed where the next step fetches: a group of its own on core 0 of package 0, in the
privileged slot for a privileged opcode and in a crew otherwise, with process context 0 and its page tables (log entry 12). -/
def State.withFetchWord (s : State) (nbits w : Nat) : State := s.placeWord nbits w

end Sys2Proof.Machine
end

