-- ==== Sys2Proof/Safety.lean ====
section
/-! DEFINITION. What counts as a sound state and a sound step, and the terms the claims use: when an instruction issues, the registers as they stand, and what a group keeps. -/

namespace Sys2Proof.Machine

/-- The model's memory stands in its canonical form: the one data invariant that every step keeps. -/
def State.sound (s : State) : Prop := s.mem.wf = true

/-- A step of a sound machine that neither stops nor leaves the sound states. -/
def soundStep (s : State) : Prop :=
  match step s with
  | .next t => t.sound
  | .fault _ => True
  | .refused _ => True

/-! ### Issue -/

/-- Instruction i issues from the split in focus: a privileged one in a privileged group, its fields legal, no early read that
MODE.CHK reports, no register it uses waiting for a scoreboarded result, no poisoned source (R226, R71, R72, R411). -/
def State.issues (s : State) (i : Instr) : Bool :=
  let g := s.merged.g
  let u := uses s.merged i
  (s.g.split? s.g.cur).isSome && (!privSlot i || g.priv) && i.wf && !(g.chk && g.early u) && !g.blocked u && !g.poisoned u

/-- The PC after an instruction that does not branch (R213). -/
def Group.pcAfter (g : Group) (i : Instr) : Nat := (g.pc + instrBytes i) % 2 ^ 64

/-! ### Registers as they stand -/

/-- v[x] of a lane, p[x] of a lane, s[x] and f[x] as their last writer left them (R50). -/
def Group.vreg (g : Group) (l x : Nat) : Word := (g.lane l).at ((g.lane l).wb + x)
def Group.preg (g : Group) (l x : Nat) : Bool := x == 0 || flag (g.lane l).p.toNat x
def Group.sval (g : Group) (x : Nat) : Word := if x = 0 then 0 else rget 0 g.s x
def Group.fval (g : Group) (x : Nat) : Word := rget 0 g.f x

/-! ### What a group keeps -/

/-- A lane without its registers, their age and their poison, and without the note of which positions held for an engine its group
has written: window, mark, origin, LFSR, port queues and what engines hold stay. -/
def Lane.rest (l : Lane) : Lane :=
  { l with v := [], p := 0, earlyV := [], earlyP := [], poison := [],
           spans := l.spans.map fun (x : RegSpan) => { x with touched := [] } }

/-- No accepted engine command holds v[x] of a lane (R125, R166). -/
def Group.unheld (g : Group) (l x : Nat) : Prop := (g.lane l).held ((g.lane l).wb + x) = false

/-- A split without its wait and age, and without its PC when it is the issuing one. -/
def Split.rest (cur : Nat) (p : Split) : Split :=
  { p with pc := if p.idx = cur then 0 else p.pc, wait := .none, age := 0, since := 0 }

/-- A group without its registers, without the issuing split's PC, and without the bookkeeping of issue and halt: MODE, masks,
other PCs, scoreboard, stores, bindings, windows, queues and identities stay. -/
def Group.rest (g : Group) : Group :=
  { g with
    lanes := g.lanes.map Lane.rest
    s := []
    f := []
    bad := []
    earlyS := []
    earlyF := []
    splits := g.splits.map (Split.rest g.cur)
    haltLeft := none
    stop := none
    tick := 0 }

/-- The registers of h are those of g but for the stack positions `v`, the predicates `p`, and the s and f registers named. -/
def Group.keepsRegs (g h : Group) (v p : Nat → Nat → Bool) (sw fw : Nat → Bool) : Prop :=
  (∀ l pos, v l pos = false → (h.lane l).at pos = (g.lane l).at pos) ∧
  (∀ l x, p l x = false → h.preg l x = g.preg l x) ∧
  (∀ x, sw x = false → h.sval x = g.sval x) ∧
  (∀ x, fw x = false → h.fval x = g.fval x)

/-- No lane, and no register. -/
def none2 (_ _ : Nat) : Bool := false
def none1 (_ : Nat) : Bool := false

/-- The stack positions of n registers from v[d] on, in the active lanes of g. -/
def Group.window (g : Group) (d : Nat) (n : Nat → Nat) (l pos : Nat) : Bool :=
  g.actives.contains l && decide ((g.lane l).wb + d ≤ pos) && decide (pos < (g.lane l).wb + d + n l)

/-! ### Shapes of results: i issues and its legal MODE holds, and exec answers a next state that differs from the merged one in
the group in focus alone, the PC after i and everything but the named registers as before -/

/-- In each active lane that the group has, v[d], v[d + 1], … receive the words, where no accepted engine command holds them (R125,
R166); no other register changes. -/
def LaneResult (i : Instr) (legal : State → Bool) (d : Nat) (words : State → Nat → List Word) : Prop :=
  ∀ s m : State, m = s.merged → s.issues i = true → legal m = true →
    ∃ h, exec i s = .next (m.setG h) ∧ h.pc = m.g.pcAfter i ∧ h.rest = m.g.rest ∧
      (∀ l ∈ m.g.actives, l < m.g.lanes.length → ∀ j w, (words m l)[j]? = some w → m.g.unheld l (d + j) → h.vreg l (d + j) = w) ∧
      m.g.keepsRegs h (m.g.window d fun l => (words m l).length) none2 none1 none1

/-- The draw number k (from 0) that a lane makes under MODE.RM = SR (R84, R85); 0 under another mode. -/
def Group.drawn (g : Group) (l k : Nat) : Nat :=
  if g.rm = 5 then Nat.repeat (fun x => lfsrNext x % 2 ^ 32) k (g.lane l).lfsr.toNat else 0

/-- The group whose active lanes have drawn k times under SR. -/
def Group.drew (g : Group) (k : Nat) : Group :=
  { g with lanes := g.lanes.mapIdx fun l x =>
      if g.rm = 5 ∧ l ∈ g.actives then { x with lfsr := BitVec.ofNat 32 (g.drawn l k) } else x }

/-- As LaneResult, with k draws in each active lane under SR. -/
def DrawnResult (i : Instr) (legal : State → Bool) (k d : Nat) (words : State → Nat → List Word) : Prop :=
  ∀ s m : State, m = s.merged → s.issues i = true → legal m = true →
    ∃ h, exec i s = .next (m.setG h) ∧ h.pc = m.g.pcAfter i ∧ h.rest = (m.g.drew k).rest ∧
      (∀ l ∈ m.g.actives, l < m.g.lanes.length → ∀ j w, (words m l)[j]? = some w → m.g.unheld l (d + j) → h.vreg l (d + j) = w) ∧
      m.g.keepsRegs h (m.g.window d fun l => (words m l).length) none2 none1 none1

/-- In each lane of `on`, p[d] receives the bit (discarded for p0); no other register changes. -/
def PredResult (i : Instr) (legal : State → Bool) (on : State → List Nat) (d : BitVec 3) (bit : State → Nat → Bool) : Prop :=
  ∀ s m : State, m = s.merged → s.issues i = true → legal m = true →
    ∃ h, exec i s = .next (m.setG h) ∧ h.pc = m.g.pcAfter i ∧ h.rest = m.g.rest ∧
      (∀ l ∈ on m, l < m.g.lanes.length → h.preg l d.toNat = (d == 0 || bit m l)) ∧
      (∀ l x, x < 8 → (l ∈ on m → x ≠ d.toNat) → h.preg l x = m.g.preg l x) ∧
      m.g.keepsRegs h none2 (fun _ _ => true) none1 none1

/-- s[d] receives the word (discarded for s0); no other register changes. -/
def ScalarResult (i : Instr) (legal : State → Bool) (d : BitVec 6) (word : State → Word) : Prop :=
  ∀ s m : State, m = s.merged → s.issues i = true → legal m = true →
    ∃ h, exec i s = .next (m.setG h) ∧ h.pc = m.g.pcAfter i ∧ h.rest = m.g.rest ∧
      h.sval d.toNat = (if d = 0 then 0 else word m) ∧ m.g.keepsRegs h none2 none2 (fun x => x == d.toNat) none1

/-- f[d] receives the word; no other register changes. -/
def FResult (i : Instr) (legal : State → Bool) (d : BitVec 3) (word : State → Word) : Prop :=
  ∀ s m : State, m = s.merged → s.issues i = true → legal m = true →
    ∃ h, exec i s = .next (m.setG h) ∧ h.pc = m.g.pcAfter i ∧ h.rest = m.g.rest ∧
      h.fval d.toNat = word m ∧ m.g.keepsRegs h none2 none2 none1 (fun x => x == d.toNat)

/-- A scoreboard entry takes the targets with their values (R72), after k draws in each active lane under SR; no register
changes yet. -/
def PostedResult (i : Instr) (legal : State → Bool) (k : Nat) (writes : State → List (Target × Option Word)) : Prop :=
  ∀ s m : State, m = s.merged → s.issues i = true → legal m = true →
    ∃ h, exec i s = .next (m.setG h) ∧ h.pc = m.g.pcAfter i ∧
      h.sb = m.g.sb ++ [⟨m.g.nextSb, writes m, false⟩] ∧ h.nextSb = m.g.nextSb + 1 ∧
      { h.rest with sb := [], nextSb := 0 } = { (m.g.drew k).rest with sb := [], nextSb := 0 } ∧
      m.g.keepsRegs h none2 none2 none1 none1

/-- Where MODE or what the fields name is not legal for i, it takes ILLEGAL at the lowest lane of its split, whatever its registers
hold (R226). -/
def Illegal (i : Instr) (legal : State → Bool) : Prop :=
  ∀ s m : State, m = s.merged → (s.g.split? s.g.cur).isSome = true → legal m = false → exec i s = .next (m.takeTrap 0x01 0 m.g.lowLane)

/-- i completes and changes nothing but the PC and the bookkeeping of issue. -/
def NoEffect (i : Instr) (legal : State → Bool) : Prop := LaneResult i legal 0 fun _ _ => []

/-- i issues, is legal and waits: the PC stays, and nothing changes but the issuing split's wait and the bookkeeping of issue. -/
def Waits (i : Instr) (legal : State → Bool) (w : State → Wait) : Prop :=
  ∀ s m : State, m = s.merged → s.issues i = true → legal m = true →
    ∃ h, exec i s = .next (m.setG h) ∧ h.pc = m.g.pc ∧ h.rest = m.g.rest ∧
      (h.stop = none → h.issuing.wait = w m) ∧ m.g.keepsRegs h none2 none2 none1 none1

/-- A lane stands at a PC: in a split, or in a park record. -/
def Group.holds (g : Group) (l pc : Nat) : Prop :=
  (∃ p ∈ g.splits, flag p.mask l = true ∧ p.pc = pc) ∨ (∃ p ∈ g.parks, flag p.mask l = true ∧ p.pc = pc)

/-- No split but the issuing one, and no park record, has the lane. -/
def Group.onlyIssuing (g : Group) (l : Nat) : Prop :=
  (∀ p ∈ g.splits, p.idx ≠ g.cur → flag p.mask l = false) ∧ (∀ p ∈ g.parks, flag p.mask l = false)

/-- Lanes of the issuing split go to their targets; every other split and record stays, and the rest of the group too (R40, R43). -/
def Group.branched (g h : Group) (target : Nat → Nat) : Prop :=
  (∀ l ∈ g.lanesIn, h.holds l (target l)) ∧
  (∀ l ∈ g.lanesIn, g.onlyIssuing l → ∀ pc, h.holds l pc → pc = target l) ∧
  (∀ p ∈ g.splits, p.idx ≠ g.cur → ∃ q ∈ h.splits, q.idx = p.idx ∧ q.pc = p.pc ∧ q.mask = p.mask) ∧
  (∀ p ∈ g.parks, p ∈ h.parks) ∧
  { h.rest with splits := [], parks := [], lanes := [] } = { g.rest with splits := [], parks := [], lanes := [] }

/-- The next PCs of the issuing split's lanes are few enough for the splits and the 12 park records (R40, R43). -/
def Group.fits (g : Group) (pcs : List Nat) : Bool :=
  decide (g.parks.length + (pcs.eraseDups.length - 1 - (4 - g.splits.length)) ≤ 12)

/-- Any MODE will do. -/
def anyMode (_ : State) : Bool := true

/-- An integer element type, and the fields of a 64-bit one even (R232). -/
def intMode (xs : List (BitVec 6)) (s : State) : Bool :=
  etInt s.g.et && (!wideEt s.g.et || xs.all fun x => x.toNat % 2 == 0)

/-- A floating element type, the fields of F64 even (R266); `rm` asks that MODE.RM be no reserved code (R58). -/
def floatMode (rm : Bool) (xs : List (BitVec 6)) (s : State) : Bool :=
  (fmtOf s.g.et).isSome && (!rm || decide (s.g.rm < 6)) && (!wideEt s.g.et || xs.all fun x => x.toNat % 2 == 0)

/-- The words that hold an n-bit element r: the register below 64 bits, extended by its signedness, or the pair (R232). -/
def elemWords (et r : Nat) : List Word := if wideEt et then [loWord r, hiWord r] else [extend et r]

/-- A value rounded under MODE in the format of MODE.ET with the lane's draw number k, and flushed (R79, R81, R82, R85). -/
def Group.rounds (g : Group) (l k : Nat) (x : FFmt → RM → XR) : Nat :=
  match fmtOf g.et, RM.ofCode g.rm with
  | some f, some rm => f.flush g.ftz (f.round rm g.satM (g.drawn l k) (x f rm)).code
  | _, _ => 0

/-- Scoreboard targets for elements of a type in v[d] of the lanes listed (R232, R72). -/
def Group.typedPosts (g : Group) (et : Nat) (ls : List Nat) (d : Nat) (r : Nat → Nat) : List (Target × Option Word) :=
  if wideEt et then
    ls.map (fun l => (.v l ((g.lane l).wb + d), some (loWord (r l)))) ++
      ls.map fun l => (.v l ((g.lane l).wb + (d + 1)), some (hiWord (r l)))
  else ls.map fun l => (.v l ((g.lane l).wb + d), some (extend et (r l)))

/-- The same for MODE.ET. -/
def Group.elemPosts (g : Group) (ls : List Nat) (d : Nat) (r : Nat → Nat) : List (Target × Option Word) :=
  g.typedPosts g.et ls d r

/-! ### Shapes of whole-machine effects -/

/-- i issues, `ok` holds and exec answers the state that the effect leaves, but for the PC, which is after i, and the
bookkeeping of issue: every register, all of memory and every unit stand as `eff` has them. -/
def Completes (i : Instr) (ok : State → Prop) (eff : State → State) : Prop :=
  ∀ s m : State, m = s.merged → s.issues i = true → ok m →
    ∃ h, exec i s = .next ((eff m).setG h) ∧ h.pc = m.g.pcAfter i ∧ h.rest = (eff m).g.rest ∧
      (eff m).g.keepsRegs h none2 none2 none1 none1

/-- As Completes, for an instruction that waits: the PC stays, and the issuing split waits as `w` says unless its group stops. -/
def WaitsAfter (i : Instr) (ok : State → Prop) (eff : State → State) (w : State → Wait) : Prop :=
  ∀ s m : State, m = s.merged → s.issues i = true → ok m →
    ∃ h, exec i s = .next ((eff m).setG h) ∧ h.pc = m.g.pc ∧ h.rest = (eff m).g.rest ∧
      (h.stop = none → h.issuing.wait = w m) ∧ (eff m).g.keepsRegs h none2 none2 none1 none1

/-- i issues, `ok` holds and the trap is taken for the lane. -/
def Traps (i : Instr) (ok : State → Nat → Prop) (code : Nat) : Prop :=
  ∀ (s m : State) (l : Nat), m = s.merged → s.issues i = true → ok m l → exec i s = .next (m.takeTrap code 0 l)

/-- A scoreboard entry with these targets is posted for the group in focus (R72). -/
def State.posted (s : State) (ws : List (Target × Option Word)) : State :=
  s.setG { s.g with sb := s.g.sb ++ [⟨s.g.nextSb, ws, false⟩], nextSb := s.g.nextSb + 1 }

/-- A reply word for s[d] is posted (R72). -/
def State.replied (s : State) (d : BitVec 6) (w : Nat) : State := s.posted [(.s d.toNat, some (BitVec.ofNat 32 w))]

/-- The reply of an engine command: posted for s[d] with Y = 1 (R314). -/
def State.repliedY (s : State) (y : BitVec 1) (d : BitVec 6) (w : Nat) : State := if y = 1 then s.replied d w else s

/-- Lane l is the lowest active lane for which `bad` holds. -/
def Group.firstLane (g : Group) (bad : Nat → Prop) (l : Nat) : Prop :=
  l ∈ g.actives ∧ bad l ∧ ∀ k ∈ g.actives, k < l → ¬ bad k

/-- An access of z bytes at an address passes the address checks of R291. -/
def State.addressable (s : State) (va z : Nat) : Prop := (∃ p, s.place s.g va = some p) ∧ va % z = 0

/-- The level-memory key of an address, when the group may touch n bytes there without a guard hit, poison, or an accepted or
unretired command that writes them (R110, R114, R125, R166, R411). -/
def State.levelAt (s : State) (va n key : Nat) : Prop :=
  (∃ lvl off memb, s.place s.g va = some (.level key lvl off memb) ∧ s.guardHit key off memb n = false) ∧
  s.poisonedAt key n = false ∧
  (∀ j < n, (∀ c ∈ s.cmds, inSpans c.dst (key + j) = false) ∧ ∀ u ∈ s.g.unretired, inSpans u.dst (key + j) = false)

/-- The key of an address in the issuing package's memory (R107, R394), with the same conditions and no copy of it cached by the
core or the die. -/
def State.pkgAt (s : State) (va n need key : Nat) : Prop :=
  (∃ off pa, s.place s.g va = some (.home s.g.pkg off) ∧ (s.translate s.g.pkg s.g.ctx off need).1 = some pa ∧ key = keyPkg s.g.pkg pa) ∧
  s.poisonedAt key n = false ∧ key % 64 + n ≤ 64 ∧
  s.line? (unitL1 s.g.pkg s.g.core) key = none ∧ s.line? (unitDie s.g.pkg s.g.core) key = none ∧
  (∀ j < n, (∀ c ∈ s.cmds, inSpans c.dst (key + j) = false) ∧ ∀ u ∈ s.g.unretired, inSpans u.dst (key + j) = false)

/-- What a memory instruction may find in its way is not there: an acquire, a queued store, an access of its group under way, a
release, per its ORD (R144 to R148, R293). -/
def State.clear (s : State) : Prop :=
  s.g.acqPending = false ∧ s.g.sq = [] ∧ (∀ p ∈ s.net, p.gid ≠ s.g.id) ∧ (2 ≤ s.g.ord → s.relWaits s.scope = false)

/-- An access of the group in focus to a key takes effect at issue: an acquire or a release, or one that R145 keeps in total store
order. Any other RELAXED or WEAK access may take effect later (R146). -/
def State.atOnce (s : State) (key : Nat) : Prop := 2 ≤ s.g.ord ∨ tsoClass (some key) s.scope = true

/-- The targets of lane l in a new entry hold their values; or they wait for an access of the lane that has been set under way, to
the package or to the key (R146). -/
def State.answered (m t : State) (e : SbEntry) (l : Nat) (ws : List (Target × Option Word)) (kind : AccKind) (key : Nat) : Prop :=
  (∀ w ∈ ws, w ∈ e.writes) ∨
  ((∀ w ∈ ws, (w.1, none) ∈ e.writes) ∧ ∃ p ∈ t.net, p ∉ m.net ∧ p.gid = m.g.id ∧ p.lane = l ∧ p.sb = some e.id ∧ p.kind = kind ∧ p.key = some key)

/-- Bytes that no accepted command, no unretired one of g, no live barrier object and no live vat header holds, and whose words
are not poisoned: a store of g to them changes them alone (R125, R135, R166, R306, R411). -/
def State.quietFor (s : State) (g : Group) (n key : Nat) : Prop :=
  s.poisonedAt key n = false ∧ (∀ o ∈ s.liveBars, key + n ≤ o ∨ o + 32 ≤ key) ∧
  ∀ j < n, (∀ c ∈ s.cmds, inSpans c.src (key + j) = false ∧ inSpans c.dst (key + j) = false) ∧
    (∀ u ∈ g.unretired, inSpans u.src (key + j) = false ∧ inSpans u.dst (key + j) = false) ∧ s.vatHolding (key + j) = none

/-- The same for the group in focus. -/
def State.quietAt (s : State) (n key : Nat) : Prop := s.quietFor s.g n key

/-- The one group with an id. -/
def State.theGroup (s : State) (gid : Nat) (g : Group) : Prop :=
  gid ≠ 0 ∧ g ∈ s.allGroups ∧ g.id = gid ∧ ∀ h ∈ s.allGroups, h.id = gid → h = g

/-- Every byte outside n bytes from a key is as it was. -/
def keepsOutside (m t : State) (key n : Nat) : Prop := ∀ k, k < key ∨ key + n ≤ k → t.byte k = m.byte k

/-- i answers a next state that posts the reply w and leaves memory, registers and the accepted commands alone. -/
def repliesOnly (i : Instr) (s m t : State) (y : BitVec 1) (d : BitVec 6) (w : Nat) : Prop :=
  exec i s = .next t ∧ t.g.pc = m.g.pcAfter i ∧ t.g.sb = (m.repliedY y d w).g.sb ∧ t.mem = m.mem ∧ t.cmds = m.cmds ∧
    m.g.keepsRegs t.g none2 none2 none1 none1

/-- i answers a next state that has accepted one command and posts the reply 0; memory and registers stay. -/
def accepts (i : Instr) (s m t : State) (y : BitVec 1) (d : BitVec 6) (c : Cmd) : Prop :=
  exec i s = .next t ∧ t.g.pc = m.g.pcAfter i ∧ t.g.sb = (m.repliedY y d 0).g.sb ∧ t.mem = m.mem ∧ t.cmds = m.cmds ++ [c] ∧
    c.pkg = m.g.pkg ∧ c.core = m.g.core ∧ c.gid = m.g.id ∧ c.crew = m.g.crew ∧ m.g.keepsRegs t.g none2 none2 none1 none1

/-! ### Barrier objects -/

/-- The level code and register of a barrier instruction name the object (R306). -/
def State.names (s : State) (lv : BitVec 3) (a : BitVec 6) (obj : Nat) : Prop :=
  s.resolve s.g lv.toNat ≠ 0 ∧ s.barLegal lv a = true ∧ (s.barNamed (s.resolve s.g lv.toNat) a).1 = .inr obj

/-- The name has no place, or a misaligned one, and traps with the code (R306). -/
def State.misnames (s : State) (lv : BitVec 3) (a : BitVec 6) (code : Nat) : Prop :=
  s.resolve s.g lv.toNat ≠ 0 ∧ s.barLegal lv a = true ∧ (s.barNamed (s.resolve s.g lv.toNat) a).1 = .inl code

/-- An arrival there must wait before its release: an access before it has not taken effect (R154, R293). -/
def State.relBar (s : State) (lv : BitVec 3) (a : BitVec 6) (obj : Nat) : Bool :=
  let s := (s.barNamed (s.resolve s.g lv.toNat) a).2
  s.relWaits (s.relDomain lv obj)

/-- The four words of an object (R302 to R305). -/
def State.barIs (s : State) (obj w0 w1 w2 w3 : Nat) : Prop :=
  s.barWord obj 0 = w0 ∧ s.barWord obj 1 = w1 ∧ s.barWord obj 2 = w2 ∧ s.barWord obj 3 = w3

/-- An initialised object that no ordinary store has hit and that is not held, with no queued arrival and no held child. -/
def State.openBar (s : State) (obj : Nat) : Prop :=
  barExp (s.barWord obj 0) ≠ 0 ∧ barHeld (s.barWord obj 0) = false ∧ s.barDev obj = ⟨obj, [], []⟩ ∧ obj ∉ s.wildBars

/-- PEND after one arrival. -/
def State.pendAfter (s : State) (obj : Nat) : Nat := (barPend (s.barWord obj 0) + 65535) % 65536

/-- What one arrival with fold f on an open unlinked object of m leaves in t (R309): the fold in word 2 and PEND one less, or the
flip with its status in word 3. -/
def arrivedAt (m t : State) (obj : Nat) (f : Fold) : Prop :=
  let w := m.barWord obj 0
  let w2 := foldStatus (m.barWord obj 2) f
  if m.pendAfter obj = 0 then t.barIs obj (barWord0 (barExp w) (barExp w) (!barPh w) false false) (m.barWord obj 1) 0 w2
  else t.barIs obj (barWord0 (barExp w) (m.pendAfter obj) (barPh w) false false) (m.barWord obj 1) w2 (m.barWord obj 3)

/-- Every byte outside the listed 32-byte objects is as it was. -/
def keepsBytes (m t : State) (objs : List Nat) : Prop :=
  ∀ k, (∀ o ∈ objs, k < o ∨ o + 32 ≤ k) → t.byte k = m.byte k

/-- No split of the group waits at the object. -/
def Group.notAt (g : Group) (obj : Nat) : Prop := ∀ p ∈ g.splits, ∀ dst q, p.wait ≠ .barrier obj dst q

/-- The splits of other groups that waited at the object in m, with `all` those too whose own arrival is still queued there, have gone
on in t; a group's only split has the status in its pair (R307, R309). -/
def wokenAt (m t : State) (all : Bool) (obj st : Nat) : Prop :=
  (m.allGroups.map Group.id).Nodup → (∀ g ∈ m.allGroups, g.id ≠ 0) → (∀ c ∈ m.crews, c.guard = none) →
    ∀ h ∈ m.groups, (h.splits.map Split.idx).Nodup → ∀ p ∈ h.splits, ∀ dst q, p.wait = .barrier obj dst q → (q = true → all = true) →
      ∃ h' ∈ t.groups, h'.id = h.id ∧ (∃ p' ∈ h'.splits, p'.idx = p.idx ∧ p'.wait = .none ∧ p'.pc = (p.pc + 4) % 2 ^ 64) ∧
        (h.splits = [p] → h'.sval dst = (if dst = 0 then 0 else loWord st) ∧ h'.sval (dst + 1) = hiWord st)

end Sys2Proof.Machine
end

