-- ==== Sys2Proof/Certificates/Slice0/Obligations.lean ====
section
/-! DEFINITION. The statements about the model, for the provers. -/

open Sys2Proof Sys2Proof.Machine
open Host (Outcome)

/-- R235 to R237 with R53 and R56: control and mode instructions. -/
def Obligations.ControlAndModeResults : Prop :=
  ∀ (n : Ann) (d a : BitVec 6) (imm : BitVec 24),
    let setsMode := fun (i : Instr) (x : Nat → Nat) =>
      ∀ s m : State, m = s.merged → s.issues i = true →
        ∃ h, exec i s = .next (m.setG h) ∧ h.pc = m.g.pcAfter i ∧ h.mode = BitVec.ofNat 32 (x m.g.mode.toNat) ∧
          { h.rest with mode := 0 } = { m.g.rest with mode := 0 } ∧ m.g.keepsRegs h none2 none2 none1 none1
    NoEffect (.nop n) anyMode ∧ NoEffect (.yield n) anyMode ∧
    (∀ s m : State, m = s.merged → s.issues (.yield n) = true →
      ∃ t, exec (.yield n) s = .next t ∧ t.g.cur = m.g.cur ∧ t.g.issuing.age = 0) ∧
    setsMode (.setm imm) (fun x => x / 2 ^ 24 * 2 ^ 24 + imm.toNat) ∧
    setsMode (.setmh imm) (fun x => imm.toNat % 2 ^ 8 * 2 ^ 24 + x % 2 ^ 24) ∧
    ScalarResult (.getm d n) anyMode d (fun s => s.g.mode) ∧
    LaneResult (.gets d 13 n) anyMode d.toNat (fun s _ => [loWord s.time, hiWord s.time]) ∧
    LaneResult (.gets d 0 n) anyMode d.toNat (fun _ l => [BitVec.ofNat 32 l]) ∧
    LaneResult (.gets d 1 n) anyMode d.toNat (fun s _ => [BitVec.ofNat 32 s.g.width]) ∧
    LaneResult (.gets d 14 n) anyMode d.toNat (fun s l => [(s.g.lane l).lfsr]) ∧
    LaneResult (.gets d 15 n) (fun s => s.g.tile.isSome) d.toNat (fun s l => [(s.g.lane l).origin]) ∧
    (a ≠ 13 → LaneResult (.gets d a n) anyMode d.toNat (fun s l => [BitVec.ofNat 32 (s.special s.g a.toNat l)]))

/-- R238, R239 with R40 and R43: branches divide the issuing split by next PC.
R240 with R61 to R63: calls and returns move the register window.
R241 with R42: lanes leave their split; the last one ends the group. -/
def Obligations.BranchCallAndExitResults : Prop :=
  (
    ∀ (n : Ann) (a : BitVec 6) (o : BitVec 20) (st : BitVec 4) (pn : BitVec 1) (p : BitVec 3) (off : Word),
      let branches := fun (i : Instr) (next : State → Nat → Nat) (ok : State → Bool) =>
        ∀ s m : State, m = s.merged → s.issues i = true → ok m = true →
          (m.g.fits (m.g.lanesIn.map (next m)) = true → m.g.lanesIn ≠ [] →
            ∃ h, exec i s = .next (m.setG h) ∧ m.g.branched h (next m) ∧ h.lanes.map Lane.rest = m.g.lanes.map Lane.rest ∧
              m.g.keepsRegs h none2 none2 none1 none1) ∧
          (m.g.fits (m.g.lanesIn.map (next m)) = false → exec i s = .next (m.takeTrap 0x04 0 m.g.lowLane))
      let aligned := fun (s : State) => s.g.actives.all fun l => s.g.v2 l a.toNat % 4 == 0
      branches (.braJ o st) (fun s l => if s.g.active l then wrap 64 ((s.g.pc : Int) + 4 * signExt o.toNat 20)
        else (s.g.pc + 4) % 2 ^ 64) (fun _ => true) ∧
      branches (.braL pn p off n) (fun s l =>
        if s.g.active l ∧ (s.g.p l p.toNat != (pn == 1)) = true then wrap 64 ((s.g.pc : Int) + 4 * signExt off.toNat 32)
        else (s.g.pc + 8) % 2 ^ 64) (fun _ => true) ∧
      branches (.brx a n) (fun s l => if s.g.active l then s.g.v2 l a.toNat else (s.g.pc + 4) % 2 ^ 64) aligned ∧
      (∀ s m : State, m = s.merged → s.issues (.brx a n) = true → aligned m = false →
        ∃ l ∈ m.g.actives, exec (.brx a n) s = .next (m.takeTrap 0x05 0 l))) ∧
  (
    ∀ (n : Ann) (d a k : BitVec 6) (off : Word),
      let moves := fun (i : Instr) (up : Bool) (by_ : Nat) (next : State → Nat → Nat) (ra : State → Nat) (ok : State → Bool) =>
        ∀ s m : State, m = s.merged → s.issues i = true → ok m = true → m.g.fits (m.g.lanesIn.map (next m)) = true →
          m.g.lanesIn ≠ [] →
          let wb := fun l => if up then (m.g.lane l).wb + by_ else (m.g.lane l).wb - by_
          let spill := fun l => decide (8 * (m.g.lane l).mark + 64 * m.g.alloc < wb l + 64)
          let fill := fun l => decide (wb l < 8 * (m.g.lane l).mark)
          let low := fun (l : Nat) => decide (l < m.g.lanes.length)
          let move := fun (h : Group) =>
            (∀ l < m.g.lanes.length, (h.lane l).wb = if l ∈ m.g.actives then wb l else (m.g.lane l).wb) ∧
            (up = true → ∀ l ∈ m.g.actives, l < m.g.lanes.length →
              ((m.g.lane l).held (wb l + 62) = false → (h.lane l).at (wb l + 62) = loWord (ra m)) ∧
              ((m.g.lane l).held (wb l + 63) = false → (h.lane l).at (wb l + 63) = hiWord (ra m))) ∧
            (∀ l pos, (up = true → l ∈ m.g.actives → pos ≠ wb l + 62 ∧ pos ≠ wb l + 63) → (h.lane l).at pos = (m.g.lane l).at pos) ∧
            (∀ l x, h.preg l x = m.g.preg l x) ∧ (∀ x, h.sval x = m.g.sval x) ∧ (∀ x, h.fval x = m.g.fval x) ∧
            h.lanes.map (fun x => { x.rest with wb := 0 }) = m.g.lanes.map (fun x => { x.rest with wb := 0 })
          ((m.g.actives.any fun l => spill l || fill l) = false →
            ∃ h, exec i s = .next (m.setG h) ∧ m.g.branched h (next m) ∧ move h) ∧
          ((m.g.actives.any fun l => low l && spill l) = true → m.g.priv = false →
            ∃ h, exec i s = .next (m.setG h) ∧ m.g.branched h (next m) ∧ move h ∧ h.issuing.wait = .spill) ∧
          ((m.g.actives.any spill) = false → (m.g.actives.any fun l => low l && fill l) = true → m.g.priv = false →
            ∃ h, exec i s = .next (m.setG h) ∧ m.g.branched h (next m) ∧ move h ∧ h.issuing.wait = .fill) ∧
          ((m.g.actives.any fun l => low l && spill l) = true → m.g.priv = true → exec i s = .next (m.takeTrap 0x10 0 m.g.lowLane)) ∧
          ((m.g.actives.any spill) = false → (m.g.actives.any fun l => low l && fill l) = true → m.g.priv = true →
            exec i s = .next (m.takeTrap 0x11 0 m.g.lowLane))
      let overflows := fun (i : Instr) (next : State → Nat → Nat) (ok : State → Bool) =>
        ∀ s m : State, m = s.merged → s.issues i = true → ok m = true → m.g.fits (m.g.lanesIn.map (next m)) = false →
          exec i s = .next (m.takeTrap 0x04 0 m.g.lowLane)
      let misaligned := fun (i : Instr) (ok : State → Bool) (target : State → Nat → Nat) =>
        ∀ (s m : State) (l : Nat), m = s.merged → s.issues i = true → ok m = true →
          m.g.firstLane (fun l => target m l % 4 ≠ 0) l → exec i s = .next (m.takeTrap 0x05 0 l)
      let target := fun (s : State) (l : Nat) => s.g.v2 l a.toNat
      let low := fun (s : State) => s.g.actives.all fun l => decide (8 * d.toNat ≤ (s.g.lane l).wb)
      let callNext := fun (s : State) (l : Nat) => if s.g.active l then wrap 64 ((s.g.pc : Int) + 4 * signExt off.toNat 32) else (s.g.pc + 8) % 2 ^ 64
      let callxNext := fun (s : State) (l : Nat) => if s.g.active l then target s l else (s.g.pc + 4) % 2 ^ 64
      let callxOk := fun (s : State) => s.g.actives.all fun l => target s l % 4 == 0
      let retNext := fun (s : State) (l : Nat) => if s.g.active l then s.g.v2 l 62 else (s.g.pc + 4) % 2 ^ 64
      let retOk := fun (s : State) => low s && s.g.actives.all fun l => s.g.v2 l 62 % 4 == 0
      moves (.call k off n) true (8 * k.toNat) callNext (fun s => (s.g.pc + 8) % 2 ^ 64) (fun _ => true) ∧
      moves (.callx d a n) true (8 * d.toNat) callxNext (fun s => (s.g.pc + 4) % 2 ^ 64) callxOk ∧
      moves (.ret d n) false (8 * d.toNat) retNext (fun _ => 0) retOk ∧
      overflows (.call k off n) callNext (fun _ => true) ∧ overflows (.callx d a n) callxNext callxOk ∧ overflows (.ret d n) retNext retOk ∧
      misaligned (.callx d a n) (fun _ => true) target ∧ misaligned (.ret d n) low (fun s l => s.g.v2 l 62) ∧
      (∀ s m : State, m = s.merged → s.issues (.ret d n) = true → (m.g.actives.any fun l => decide ((m.g.lane l).wb < 8 * d.toNat)) = true →
        ∃ l ∈ m.g.actives, exec (.ret d n) s = .next (m.takeTrap 0x01 0 l))) ∧
  (
    ∀ (n : Ann) (s m : State), m = s.merged → s.issues (.exit n) = true →
      let others := m.g.splits.any (fun p => p.idx != m.g.cur && p.mask != 0) || m.g.parks.any (fun p => p.mask != 0)
      let stays := m.g.lanesIn.any fun l => !m.g.active l
      ((stays || others) = true →
        ∃ t, exec (.exit n) s = .next t ∧
          (∀ l ∈ m.g.actives, m.g.onlyIssuing l → ∀ pc, ¬ t.g.holds l pc) ∧
          (∀ l ∈ m.g.lanesIn, m.g.active l = false → t.g.holds l ((m.g.pc + 4) % 2 ^ 64)) ∧
          m.g.keepsRegs t.g none2 none2 none1 none1 ∧ t.mem = m.mem ∧ t.cmds = m.cmds) ∧
      ((stays || others) = false → m.g.id ≠ 0 →
        ∃ t, exec (.exit n) s = .next t ∧ t.g.splits = [] ∧ t.g.parks = [] ∧ t.g.sb = [] ∧ t.g.sq = m.g.sq ∧
          (m.pushing m.g.id = false → t.g.links = []) ∧
          ((∀ h ∈ m.allGroups, h.id = m.g.id → ∀ l ∈ h.links, l.partner ≠ m.g.id) → m.pushing m.g.id = true → t.g.links = m.g.links) ∧
          (∀ c ∈ t.cmds, c.gid = m.g.id → c.reply = none) ∧ (∀ c ∈ m.cmds, ∃ d ∈ t.cmds, d.id = c.id ∧ d.kind = c.kind)))

/-- R242 with R371, R400 and R401: the software traps. -/
def Obligations.TrapAndBreakTaken : Prop :=
  ∀ (n : Ann) (imm : BitVec 6),
    let taken := fun (i : Instr) (code : Nat) =>
      ∀ (s m : State) (c : Crew), m = s.merged → s.issues i = true → m.g.priv = false → m.crew? m.g.crew = some c → c.st = .run →
        m.g.actives ≠ [] →
        ∃ t, exec i s = .next t ∧ (t.g.stop.map Stop.pc) = some ((m.g.pc + 4) % 2 ^ 64) ∧ t.g.pc = (m.g.pc + 4) % 2 ^ 64 ∧
          (∃ d, t.crew? c.id = some d ∧ d.st = .halting ∧
            (d.event.map fun e => (e.code, e.crew, e.group, e.arg, e.pc)) =
              some (code, c.num, m.g.num, imm.toNat, (m.g.pc + 4) % 2 ^ 64)) ∧
          m.g.keepsRegs t.g none2 none2 none1 none1 ∧ t.g.mode = m.g.mode ∧ t.mem = m.mem ∧ t.cores = m.cores
    taken (.trap imm n) 0x0C ∧ taken (.brk imm n) 0x0D ∧
    NoEffect (.trap imm n) (fun s => s.g.actives.isEmpty) ∧ NoEffect (.brk imm n) (fun s => s.g.actives.isEmpty)

/-- R243, R244, R246: instructions that wait, and the pre-emption hint. -/
def Obligations.WaitSleepHint : Prop :=
  ∀ (n : Ann) (a r0 r1 : BitVec 6) (file : BitVec 2) (lo hi : Word),
    let pending := fun (s : State) => if file = 3 then !s.g.sb.isEmpty || !s.g.awaitedReplies.isEmpty
      else s.g.pendingAt file.toNat a.toNat || (file == 1 && s.g.awaitedReplies.contains a.toNat)
    let asked := fun (s : State) => match s.crew? s.g.crew with
      | some c => flag (s.core s.g.pkg s.g.core).preq c.num && !s.g.priv && s.g.splits.length == 1 && s.g.parks.isEmpty
      | none => false
    NoEffect (.wait file a n) (fun s => !pending s) ∧
    Waits (.wait file a n) pending (fun _ => .held) ∧
    NoEffect (.sleep a n) (fun s => decide (s.g.s2 a.toNat ≤ s.time)) ∧
    Waits (.sleep a n) (fun s => decide (s.time < s.g.s2 a.toNat)) (fun s => .sleep (s.g.s2 a.toNat)) ∧
    NoEffect (.phint r0 r1 lo hi n) (fun s => !asked s) ∧
    (∀ s m : State, m = s.merged → s.issues (.phint r0 r1 lo hi n) = true → asked m = true →
      ∃ h, exec (.phint r0 r1 lo hi n) s = .next (m.setG h) ∧ h.pc = (m.g.pc + 12) % 2 ^ 64 ∧ h.rest = m.g.rest ∧
        (h.stop.map fun r => (r.pc, r.kind, r.live, r.range0, r.range1)) =
          some ((m.g.pc + 12) % 2 ^ 64, 0, pairNat lo hi, (m.g.sreg r0.toNat).toNat, (m.g.sreg r1.toNat).toNat) ∧
        m.g.keepsRegs h none2 none2 none1 none1)

/-- R247 with R232 and R233: each typed integer instruction writes its exact result, brought into MODE.ET's type, into v[D] of
every active lane and changes nothing else. -/
def Obligations.TypedIntegerResults : Prop :=
  ∀ (n : Ann) (d a b imm : BitVec 6),
    let sat := fun (s : State) (r : Int) => elemWords s.g.et (bring s.g.et s.g.satM r)
    let fit := fun (s : State) (r : Int) => elemWords s.g.et (bring s.g.et false r)
    LaneResult (.iadd d a b n) (intMode [d, a, b]) d.toNat (fun s l => sat s (s.g.int l a + s.g.int l b)) ∧
    LaneResult (.isub d a b n) (intMode [d, a, b]) d.toNat (fun s l => sat s (s.g.int l a - s.g.int l b)) ∧
    LaneResult (.imul d a b n) (intMode [d, a, b]) d.toNat (fun s l => sat s (s.g.int l a * s.g.int l b)) ∧
    LaneResult (.imulh d a b n) (intMode [d, a, b]) d.toNat (fun s l => fit s (s.g.int l a * s.g.int l b / (2 ^ etBits s.g.et : Int))) ∧
    LaneResult (.imad d a b n) (intMode [d, a, b]) d.toNat (fun s l => sat s (s.g.int l a * s.g.int l b + s.g.int l d)) ∧
    LaneResult (.ineg d a n) (intMode [d, a]) d.toNat (fun s l => sat s (-(s.g.int l a))) ∧
    LaneResult (.iabs d a n) (intMode [d, a]) d.toNat (fun s l => sat s ((s.g.int l a).natAbs : Int)) ∧
    LaneResult (.imin d a b n) (intMode [d, a, b]) d.toNat (fun s l => fit s (min (s.g.int l a) (s.g.int l b))) ∧
    LaneResult (.imax d a b n) (intMode [d, a, b]) d.toNat (fun s l => fit s (max (s.g.int l a) (s.g.int l b))) ∧
    LaneResult (.iaddi d a imm n) (intMode [d, a]) d.toNat (fun s l => sat s (s.g.int l a + signExt imm.toNat 6))

/-- R233: the value a typed result takes in its type, saturated or wrapped. -/
def Obligations.TypedResultInRange : Prop :=
  ∀ (et : Nat) (sat : Bool) (r : Int), et < 12 →
    bring et sat r < 2 ^ etBits et ∧
    (sat = true → 4 ≤ et → etVal et (bring et sat r) = min (max r (etLow et)) (etHigh et)) ∧
    (sat = false ∨ et < 4 → (etVal et (bring et sat r) - r) % (2 ^ etBits et : Int) = 0)

/-- R249 to R255: each untyped instruction writes its 32-bit result (LEA its pair) into v[D] of every active lane and changes nothing
else.
R248, R253, R254: add with carry, typed compare, and the read of one named lane (its value is log entry 1's free one when the
lane is not live). -/
def Obligations.UntypedAndCarryResults : Prop :=
  (
    ∀ (n : Ann) (d a b imm len : BitVec 6) (k : BitVec 5) (p : BitVec 3) (pn : BitVec 1) (x : Word),
      let r := fun (i : Instr) (f : State → Nat → Word) => LaneResult i anyMode d.toNat fun s l => [f s l]
      let A := fun (s : State) (l : Nat) => s.g.v l a.toNat
      let B := fun (s : State) (l : Nat) => s.g.v l b.toNat
      r (.and d a b n) (fun s l => A s l &&& B s l) ∧
      r (.or d a b n) (fun s l => A s l ||| B s l) ∧
      r (.xor d a b n) (fun s l => A s l ^^^ B s l) ∧
      r (.andn d a b n) (fun s l => A s l &&& ~~~(B s l)) ∧
      r (.not d a n) (fun s l => ~~~(A s l)) ∧
      r (.shlR d a b n) (fun s l => BitVec.ofNat 32 ((A s l).toNat * 2 ^ (B s l).toNat)) ∧
      r (.shrR d a b n) (fun s l => BitVec.ofNat 32 ((A s l).toNat / 2 ^ (B s l).toNat)) ∧
      r (.shaR d a b n) (fun s l => BitVec.ofInt 32 ((A s l).toInt / 2 ^ min (B s l).toNat 31)) ∧
      r (.rolR d a b n) (fun s l => (A s l).rotateLeft ((B s l).toNat % 32)) ∧
      r (.shlI d a k n) (fun s l => BitVec.ofNat 32 ((A s l).toNat * 2 ^ k.toNat)) ∧
      r (.shrI d a k n) (fun s l => BitVec.ofNat 32 ((A s l).toNat / 2 ^ k.toNat)) ∧
      r (.shaI d a k n) (fun s l => BitVec.ofInt 32 ((A s l).toInt / 2 ^ k.toNat)) ∧
      r (.rolI d a k n) (fun s l => (A s l).rotateLeft k.toNat) ∧
      r (.fsh d a k n) (fun s l => BitVec.ofNat 32 (((s.g.v l (a.toNat + 1)).toNat * 2 ^ 32 + (A s l).toNat) / 2 ^ k.toNat)) ∧
      r (.popc d a n) (fun s l => BitVec.ofNat 32 ((List.range 32).countP fun j => (A s l).getLsbD j)) ∧
      r (.clz d a n) (fun s l => BitVec.ofNat 32 (((List.range 32).find? fun j => (A s l).getLsbD (31 - j)).getD 32)) ∧
      r (.brev d a n) (fun s l => (A s l).reverse) ∧
      r (.bfx d a k len n) (fun s l => BitVec.ofNat 32 ((A s l).toNat / 2 ^ k.toNat % 2 ^ len.toNat)) ∧
      r (.bperm d a b n) (fun s l => BitVec.ofNat 32 (natOf ((List.range 4).map fun j =>
          let q := (B s l).toNat / 2 ^ (4 * j) % 16
          let byte := (A s l).toNat / 2 ^ (8 * (q % 4)) % 256
          if q / 4 = 0 then BitVec.ofNat 8 byte else if q / 4 = 2 ∧ 128 ≤ byte then 255 else 0))) ∧
      r (.sel d a b p pn n) (fun s l => if s.g.p l p.toNat != (pn == 1) then A s l else B s l) ∧
      r (.mov d a n) (fun s l => A s l) ∧
      r (.movi d imm n) (fun _ _ => imm.signExtend 32) ∧
      r (.lit d x n) (fun _ _ => x) ∧
      r (.movs d a n) (fun s _ => s.g.sreg a.toNat) ∧
      r (.bfi d a b k len n) (fun s l => BitVec.ofNat 32 ((A s l).toNat / 2 ^ (k.toNat + len.toNat) * 2 ^ (k.toNat + len.toNat) +
          (B s l).toNat % 2 ^ len.toNat * 2 ^ k.toNat + (A s l).toNat % 2 ^ k.toNat)) ∧
      LaneResult (.lea d a b n) (fun s => etBits s.g.et != 0) d.toNat (fun s l =>
        let y := wrap 64 ((s.g.v2 l a.toNat : Int) + signExt (B s l).toNat 32 * (etBytes s.g.et : Int))
        [loWord y, hiWord y])) ∧
  (
    ∀ (n : Ann) (d a b lane : BitVec 6) (q p : BitVec 3) (pn : BitVec 1) (fn : BitVec 4),
      (∀ s m : State, m = s.merged → s.issues (.iaddc d a b p pn n) = true → (m.g.et = 2 ∨ m.g.et = 8 ∨ m.g.et = 9) →
        ∃ h, exec (.iaddc d a b p pn n) s = .next (m.setG h) ∧ h.pc = m.g.pcAfter (.iaddc d a b p pn n) ∧ h.rest = m.g.rest ∧
          (∀ l ∈ m.g.actives, l < m.g.lanes.length →
            let sum := (m.g.v l a.toNat).toNat + (m.g.v l b.toNat).toNat + (if m.g.p l p.toNat != (pn == 1) then 1 else 0)
            (m.g.unheld l d.toNat → h.vreg l d.toNat = BitVec.ofNat 32 sum) ∧ h.preg l p.toNat = (p == 0 || decide (2 ^ 32 ≤ sum))) ∧
          (∀ l x, x < 8 → (l ∈ m.g.actives → x ≠ p.toNat) → h.preg l x = m.g.preg l x) ∧
          m.g.keepsRegs h (m.g.window d.toNat fun _ => 1) (fun _ _ => true) none1 none1) ∧
      PredResult (.icmp q a b fn n) (intMode [a, b]) (fun s => s.g.actives) q (fun s l =>
        let x := s.g.int l a
        let y := s.g.int l b
        match fn.toNat with
        | 0 => x == y | 1 => x != y | 2 => decide (x < y) | 3 => decide (x ≤ y) | 4 => decide (x > y) | _ => decide (x ≥ y)) ∧
      ScalarResult (.movv d a lane n) (fun s => decide (lane.toNat < s.g.width)) d (fun s =>
        if s.g.laneLive lane.toNat then s.g.v lane.toNat a.toNat
        else BitVec.ofNat 32 (Config.freeAt s.g.id s.g.tick lane.toNat 1)) ∧
      (∀ i ∈ [Instr.iadd d a b n, .isub d a b n, .imul d a b n, .imulh d a b n, .imad d a b n, .imin d a b n, .imax d a b n],
        Illegal i (intMode [d, a, b])) ∧
      (∀ i ∈ [Instr.ineg d a n, .iabs d a n, .iaddi d a b n], Illegal i (intMode [d, a])) ∧
      Illegal (.icmp q a b fn n) (intMode [a, b]) ∧
      Illegal (.iaddc d a b p pn n) (fun s => s.g.et == 2 || s.g.et == 8 || s.g.et == 9) ∧
      Illegal (.lea d a b n) (fun s => etBits s.g.et != 0) ∧
      Illegal (.movv d a lane n) (fun s => decide (lane.toNat < s.g.width)))

/-- R256: each scalar instruction writes its result once for the group, whatever the guards; s0 stays zero (R50).
R257 and R258: scalar compares into the predicates of the split, and predicate logic in the active lanes. -/
def Obligations.ScalarAndPredicateResults : Prop :=
  (
    ∀ (n : Ann) (d a b : BitVec 6) (f e : BitVec 3) (x : Word),
      let A := fun (s : State) => s.g.sreg a.toNat
      let B := fun (s : State) => s.g.sreg b.toNat
      ScalarResult (.sadd d a b n) anyMode d (fun s => A s + B s) ∧
      ScalarResult (.ssub d a b n) anyMode d (fun s => A s - B s) ∧
      ScalarResult (.smul d a b n) anyMode d (fun s => A s * B s) ∧
      ScalarResult (.sand d a b n) anyMode d (fun s => A s &&& B s) ∧
      ScalarResult (.sor d a b n) anyMode d (fun s => A s ||| B s) ∧
      ScalarResult (.sxor d a b n) anyMode d (fun s => A s ^^^ B s) ∧
      ScalarResult (.sshl d a b n) anyMode d (fun s => BitVec.ofNat 32 ((A s).toNat * 2 ^ (B s).toNat)) ∧
      ScalarResult (.sshr d a b n) anyMode d (fun s => BitVec.ofNat 32 ((A s).toNat / 2 ^ (B s).toNat)) ∧
      ScalarResult (.smovSS d a n) anyMode d A ∧
      ScalarResult (.smovSF d f n) anyMode d (fun s => s.g.freg f.toNat) ∧
      ScalarResult (.slitS d x n) anyMode d (fun _ => x) ∧
      FResult (.smovFS e a n) anyMode e A ∧
      FResult (.slitF e x n) anyMode e (fun _ => x)) ∧
  (
    ∀ (n : Ann) (d p q : BitVec 3) (a b : BitVec 6) (fn : BitVec 4),
      PredResult (.scmp d a b fn n) anyMode (fun s => s.g.lanesIn) d (fun s _ =>
        let x := (s.g.sreg a.toNat).toInt
        let y := (s.g.sreg b.toNat).toInt
        match fn.toNat with
        | 0 => x == y | 1 => x != y | 2 => decide (x < y) | 3 => decide (x ≤ y) | 4 => decide (x > y) | _ => decide (x ≥ y)) ∧
      PredResult (.pand d p q n) anyMode (fun s => s.g.actives) d (fun s l => s.g.p l p.toNat && s.g.p l q.toNat) ∧
      PredResult (.por d p q n) anyMode (fun s => s.g.actives) d (fun s l => s.g.p l p.toNat || s.g.p l q.toNat) ∧
      PredResult (.pxor d p q n) anyMode (fun s => s.g.actives) d (fun s l => s.g.p l p.toNat != s.g.p l q.toNat) ∧
      PredResult (.pnot d p n) anyMode (fun s => s.g.actives) d (fun s l => !s.g.p l p.toNat) ∧
      PredResult (.pmov d p n) anyMode (fun s => s.g.actives) d (fun s l => s.g.p l p.toNat))

/-- R260 to R264: cross-lane results, posted to the scoreboard. -/
def Obligations.CrossLaneResults : Prop :=
  ∀ (n : Ann) (d a b imm : BitVec 6) (p : BitVec 3),
    let op := imm.toNat % 8
    let mode := fun (s : State) => laneLegal op s.g.et && (!wideEt s.g.et || d.toNat % 2 == 0 && a.toNat % 2 == 0)
    let into := fun (s : State) (ls : List Nat) (f : Nat → Word) =>
      ls.map fun l => (Target.v l ((s.g.lane l).wb + d.toNat), some (f l))
    let A := fun (s : State) (l : Nat) => s.g.v l a.toNat
    let step := fun (s : State) => laneOp op s.g.et s.g.satM s.g.ftz
    let value := fun (s : State) (l : Nat) => laneIn op s.g.et s.g.ftz (s.g.elem s.g.et l a.toNat)
    let combine := fun (s : State) (ls : List Nat) =>
      match ls.map (value s) with
      | [] => laneId op s.g.et
      | x :: t => t.foldl (step s) x
    PostedResult (.shfl d a b n) anyMode 0 (fun s => into s s.g.actives fun l =>
      let j := (s.g.v l b.toNat).toNat % s.g.width
      if flag s.g.mask j then A s j else A s l) ∧
    PostedResult (.vote d p n) anyMode 0 (fun s =>
      let ballot := maskOf (s.g.actives.filter fun l => s.g.p l p.toNat)
      [(.s d.toNat, some (loWord ballot)), (.s (d.toNat + 1), some (hiWord ballot))]) ∧
    PostedResult (.lred d a imm n) mode 0 (fun s =>
      let r := combine s s.g.actives
      if wideEt s.g.et then [(.s d.toNat, some (loWord r)), (.s (d.toNat + 1), some (hiWord r))]
      else [(.s d.toNat, some (BitVec.ofNat 32 r))]) ∧
    PostedResult (.lscan d a imm n) mode 0 (fun s => s.g.elemPosts s.g.actives d.toNat fun l =>
      if flag imm.toNat 3 then combine s (s.g.actives.filter (· < l)) else combine s (s.g.actives.filter (· ≤ l))) ∧
    PostedResult (.matchV d a n) anyMode 0 (fun s => into s s.g.actives fun l =>
      BitVec.ofNat 32 ((s.g.actives.find? fun j => A s j == A s l).getD l)) ∧
    PostedResult (.compact d a n) anyMode 0 (fun s => into s s.g.lanesIn fun l =>
      match s.g.actives[(s.g.lanesIn.filter (· < l)).length]? with
      | some k => A s k
      | none => 0) ∧
    Illegal (.lred d a imm n) mode ∧ Illegal (.lscan d a imm n) mode

/-- R265 with R45 to R47: the rendezvous of two groups. -/
def Obligations.RegroupResults : Prop :=
  ∀ (n : Ann) (d : BitVec 3) (a b : BitVec 6), Waits (.regroup d a b n) (fun s => !s.g.sb.isEmpty) (fun _ => .held) ∧
    ∀ (s m : State), m = s.merged → s.issues (.regroup d a b n) = true → m.g.sb = [] → m.g.regroupWait = none →
    let i : Instr := .regroup d a b n
    let lanes := fun (g : Group) => bitsSet g.width g.live
    let convergent := m.g.splits.length == 1 && m.g.parks.isEmpty
    let partner := (m.g.sreg a.toNat).toNat
    let bm := m.g.s2 b.toNat
    let mate := m.groups.find? fun h => !h.priv && h.crew == m.g.crew && h.num == partner && h.live != 0
    let posted := fun (t : State) (bit : Word) (ls : List Nat) =>
      t.g.sb = [⟨m.g.nextSb, ls.map fun l => (Target.p l d.toNat, some bit), false⟩]
    let unfit := fun (h : Group) => (m.bindSet m.g.id).length != 1 || (m.bindSet h.id).length != 1 ||
      decide (m.g.width < ((lanes m.g) ++ lanes h).length)
    -- lane j of the receiver r after the fusion comes from lane l of q; its byte of predicates is as p says
    let moved := fun (r q : Group) (r' : Group) (j l : Nat) (p : BitVec 8) =>
      (∀ x < 64, flag bm x = true → r.unheld j x → r'.vreg j x = q.v l x) ∧ (r'.lane j).p = p ∧
      (r'.lane j).origin = (q.lane l).origin ∧ (r'.lane j).lfsr = (q.lane l).lfsr
    ((m.g.priv || !convergent || decide (partner = m.g.num) || (mate.map fun h => h.width != m.g.width).getD true) = true →
      ∃ t, exec i s = .next t ∧ t.g.pc = m.g.pcAfter i ∧ posted t 1 (lanes m.g) ∧ m.g.keepsRegs t.g none2 none2 none1 none1 ∧
        t.groups = m.groups) ∧
    (∀ h, mate = some h → m.g.priv = false → convergent = true → partner ≠ m.g.num → h.width = m.g.width → h.id ≠ 0 → h.id ≠ m.g.id →
      ((h.regroupWait.map Prod.fst) ≠ some m.g.num →
        ∃ t, exec i s = .next t ∧ t.g.pc = m.g.pc ∧ (t.g.stop = none → t.g.issuing.wait = .regroup partner bm d.toNat) ∧
          t.groups = m.groups) ∧
      (∀ bm' pd, h.regroupWait = some (m.g.num, bm', pd) →
        ((unfit h || bm' != bm) = true →
          ∃ t, exec i s = .next t ∧ t.g.pc = m.g.pcAfter i ∧ posted t 1 (lanes m.g) ∧ m.g.keepsRegs t.g none2 none2 none1 none1 ∧
            (∀ q ∈ m.groups, q.id ≠ h.id → q ∈ t.groups) ∧
            ((∀ q ∈ m.groups, q.id = h.id → q = h) → ∀ q ∈ t.groups, q.id = h.id → q.regroupWait = none ∧
              (q.splits.map fun p => (p.pc, p.mask)) = (h.splits.map fun p => ((p.pc + 4) % 2 ^ 64, p.mask)) ∧
              ∀ l ∈ lanes h, l < h.lanes.length → (q.lane l).p = setPBit (h.lane l).p pd true)) ∧
        ((unfit h || bm' != bm) = false → m.g.num < h.num →
          let all := (lanes m.g).map (fun l => (m.g, l)) ++ (lanes h).map fun l => (h, l)
          ∃ t, exec i s = .next t ∧ t.g.pc = m.g.pcAfter i ∧ posted t 0 (List.range all.length) ∧ t.g.mask = 2 ^ all.length - 1 ∧
            (∀ q ∈ t.groups, q.id = h.id → q.live = 0) ∧
            (∀ j q l, all[j]? = some (q, l) → j < m.g.lanes.length → moved m.g q t.g j l (q.lane l).p)) ∧
        ((unfit h || bm' != bm) = false → h.num < m.g.num → m.g.id ≠ 0 →
          let all := (lanes h).map (fun l => (h, l)) ++ (lanes m.g).map fun l => (m.g, l)
          ∃ t, exec i s = .next t ∧ t.g.live = 0 ∧
            (∀ q ∈ t.groups, q.id = h.id → q.regroupWait = none ∧
              (∀ p ∈ q.splits, p.mask = 2 ^ all.length - 1) ∧ (q.splits.map Split.pc) = (h.splits.map fun p => (p.pc + 4) % 2 ^ 64) ∧
              (∀ j q' l, all[j]? = some (q', l) → j < h.lanes.length → moved h q' q j l (setPBit (q'.lane l).p pd false))))))

/-- R268, R273, R274 with R79 to R85: the exact value, rounded once under MODE.RM with one draw per active lane under SR. -/
def Obligations.FloatArithmeticResults : Prop :=
  ∀ (n : Ann) (d a b : BitVec 6),
    let r := fun (i : Instr) (xs : List (BitVec 6)) (x : State → Nat → FFmt → RM → XR) =>
      DrawnResult i (floatMode true xs) 1 d.toNat fun s l => elemWords s.g.et (s.g.rounds l 0 (x s l))
    r (.fadd d a b n) [d, a, b] (fun s l f rm => XR.addZ (rm == .rd) (s.g.readF f l a.toNat) (s.g.readF f l b.toNat)) ∧
    r (.fsub d a b n) [d, a, b] (fun s l f rm => XR.addZ (rm == .rd) (s.g.readF f l a.toNat) (s.g.readF f l b.toNat).neg) ∧
    r (.fmul d a b n) [d, a, b] (fun s l f _ => (s.g.readF f l a.toNat).mul (s.g.readF f l b.toNat)) ∧
    r (.ffma d a b n) [d, a, b] (fun s l f rm =>
      XR.addZ (rm == .rd) ((s.g.readF f l a.toNat).mul (s.g.readF f l b.toNat)) (s.g.readF f l d.toNat)) ∧
    r (.fscl d a b n) [d, a] (fun s l f _ =>
      match s.g.readF f l a.toNat with
      | .fin neg m e => .fin neg m (e + max (-8192) (min 8192 (s.g.v l b.toNat).toInt))
      | x => x) ∧
    DrawnResult (.frnd d a n) (floatMode true [d, a]) 1 d.toNat (fun s l => elemWords s.g.et
      (match fmtOf s.g.et, RM.ofCode s.g.rm with
       | some f, some rm =>
         let x := match s.g.readF f l a.toNat with
           | .fin neg m e => .fin neg ((Mag.dyadic m e).roundTo 0 rm neg (s.g.drawn l 0)) 0
           | x => x
         f.flush s.g.ftz (f.round .rne false 0 x).code
       | _, _ => 0)) ∧
    (∀ i ∈ [Instr.fadd d a b n, .fsub d a b n, .fmul d a b n, .ffma d a b n], Illegal i (floatMode true [d, a, b])) ∧
    (∀ i ∈ [Instr.fscl d a b n, .frnd d a n], Illegal i (floatMode true [d, a]))

/-- R269, R270, R271, R275: results that need no rounding and make no draw. -/
def Obligations.FloatSelectionResults : Prop :=
  ∀ (n : Ann) (d a b : BitVec 6) (q : BitVec 3) (fn : BitVec 4),
    let pick := fun (i : Instr) (x : XR → XR → XR) =>
      LaneResult i (floatMode false [d, a, b]) d.toNat fun s l => elemWords s.g.et
        (match fmtOf s.g.et with
         | some f => f.flush s.g.ftz (f.round .rne false 0 (x (s.g.readF f l a.toNat) (s.g.readF f l b.toNat))).code
         | none => 0)
    let signMode := fun (s : State) => signMask s.g.et != 0 && (!wideEt s.g.et || d.toNat % 2 == 0 && a.toNat % 2 == 0)
    pick (.fmin d a b n) (xMinMax false) ∧ pick (.fmax d a b n) (xMinMax true) ∧
    pick (.fminn d a b n) (xMinMaxNum false) ∧ pick (.fmaxn d a b n) (xMinMaxNum true) ∧
    LaneResult (.fabs d a n) signMode d.toNat (fun s l =>
      let x := s.g.elem s.g.et l a.toNat
      elemWords s.g.et (x - (x &&& signMask s.g.et))) ∧
    LaneResult (.fneg d a n) signMode d.toNat (fun s l => elemWords s.g.et (s.g.elem s.g.et l a.toNat ^^^ signMask s.g.et)) ∧
    PredResult (.fcmp q a b fn n) (floatMode false [a, b]) (fun s => s.g.actives) q (fun s l =>
      match fmtOf s.g.et with
      | some f =>
        let x := s.g.readF f l a.toNat
        let y := s.g.readF f l b.toNat
        let un := x.isNan || y.isNan
        match fn.toNat with
        | 0 => !un && x.cmp y == .eq | 1 => un || x.cmp y != .eq | 2 => !un && x.cmp y == .lt | 3 => !un && x.cmp y != .gt
        | 4 => !un && x.cmp y == .gt | 5 => !un && x.cmp y != .lt | 6 => un | _ => !un
      | none => false) ∧
    LaneResult (.fcls d a n) (floatMode false [a]) d.toNat (fun s l =>
      match fmtOf s.g.et with
      | some f => [BitVec.ofNat 32 (2 ^ fclass f (s.g.elem s.g.et l a.toNat))]
      | none => [0]) ∧
    (∀ i ∈ [Instr.fmin d a b n, .fmax d a b n, .fminn d a b n, .fmaxn d a b n], Illegal i (floatMode false [d, a, b])) ∧
    (∀ i ∈ [Instr.fabs d a n, .fneg d a n], Illegal i signMode) ∧
    Illegal (.fcmp q a b fn n) (floatMode false [a, b]) ∧ Illegal (.fcls d a n) (floatMode false [a])

/-- R272: the transcendentals take a scoreboard entry for v[D] of their active lanes (their bounded values are log entry 8's). -/
def Obligations.TranscendentalResults : Prop :=
  ∀ (n : Ann) (d a : BitVec 6),
    let root := fun (i : Instr) (fn : Nat) =>
      PostedResult i (floatMode true [d, a]) 1 fun s => s.g.elemPosts s.g.actives d.toNat fun l =>
        match fmtOf s.g.et, RM.ofCode s.g.rm with
        | some f, some rm => f.flush s.g.ftz (rooted fn f rm s.g.satM (s.g.lane l).lfsr.toNat (s.g.readF f l a.toNat))
        | _, _ => 0
    let bounded := fun (i : Instr) (fn : Nat) =>
      PostedResult i (fun s => s.g.et == 12 || s.g.et == 13 || s.g.et == 14) 0 fun s => s.g.elemPosts s.g.actives d.toNat fun l =>
        match fmtOf s.g.et with
        | some f =>
          let c := f.flush s.g.ftz (s.g.elem s.g.et l a.toNat)
          let r := transcend fn f c
          let ovf := r % f.signBit == f.infCode && match f.decode c with
            | .fin _ m _ => m != 0
            | _ => false
          f.flush s.g.ftz (if s.g.satM && ovf then r - 1 else r)
        | none => 0
    root (.frcp d a n) 0 ∧ root (.frsq d a n) 1 ∧ root (.fsqrt d a n) 2 ∧
    bounded (.fex2 d a n) 0 ∧ bounded (.flg2 d a n) 1 ∧ bounded (.fsin d a n) 2 ∧ bounded (.fcos d a n) 3 ∧
    bounded (.ftanh d a n) 4 ∧
    (∀ i ∈ [Instr.frcp d a n, .frsq d a n, .fsqrt d a n], Illegal i (floatMode true [d, a])) ∧
    (∀ i ∈ [Instr.fex2 d a n, .flg2 d a n, .fsin d a n, .fcos d a n, .ftanh d a n],
      Illegal i fun s => s.g.et == 12 || s.g.et == 13 || s.g.et == 14)

/-- R276, R277 with R86 to R88 and R95: conversions between floating, narrow and integer types. -/
def Obligations.ConversionResults : Prop :=
  ∀ (n : Ann) (d a : BitVec 6) (t : BitVec 5),
    let src := fun (s : State) (l : Nat) =>
      match fmtOf t.toNat with
      | some f => f.decode (f.flush s.g.ftz (s.g.elem t.toNat l a.toNat))
      | none => match s.fcode s.g with
        | some fc => fc.decode ((s.g.v l a.toNat).toNat % 2 ^ fc.w)
        | none => .nan
    let even := fun (s : State) => (!wideEt t.toNat || a.toNat % 2 == 0) && (!wideEt s.g.et || d.toNat % 2 == 0)
    let rm := fun (s : State) => decide (s.g.rm < 6)
    let flt := fun (x : Nat) => decide (12 ≤ x ∧ x ≤ 15)
    let int := fun (x : Nat) => decide (4 ≤ x ∧ x ≤ 11)
    DrawnResult (.fcvt d a t n) (fun s => even s && rm s && ((flt t.toNat && flt s.g.et) ||
        (t.toNat == 16 && flt s.g.et && (s.fcode s.g).isSome))) 1 d.toNat
      (fun s l => elemWords s.g.et (s.g.rounds l 0 fun _ _ => src s l)) ∧
    DrawnResult (.fcvt d a t n) (fun s => even s && rm s && flt t.toNat && int s.g.et) 1 d.toNat
      (fun s l => elemWords s.g.et (match RM.ofCode s.g.rm with
        | some rm => floatToInt (etSigned s.g.et) (etBits s.g.et) rm (s.g.drawn l 0) (src s l)
        | none => 0)) ∧
    DrawnResult (.fcvt d a t n) (fun s => even s && rm s && flt t.toNat && s.g.et == 16 && (s.fcode s.g).isSome) 1 d.toNat
      (fun s l => match RM.ofCode s.g.rm, s.fcode s.g with
        | some rm, some fc => [BitVec.ofNat 32 (fc.round rm s.g.satM (s.g.drawn l 0) (src s l)).code]
        | _, _ => [0]) ∧
    DrawnResult (.icvt d a t n) (fun s => even s && rm s && int t.toNat && flt s.g.et) 1 d.toNat
      (fun s l => elemWords s.g.et (s.g.rounds l 0 fun _ _ => XR.ofInt (etVal t.toNat (s.g.elem t.toNat l a.toNat)))) ∧
    LaneResult (.icvt d a t n) (fun s => even s && int t.toNat && int s.g.et) d.toNat
      (fun s l => elemWords s.g.et (narrowInt (etSigned s.g.et) (etBits s.g.et) s.g.satM (etVal t.toNat (s.g.elem t.toNat l a.toNat)))) ∧
    Illegal (.fcvt d a t n) (fun s => even s && rm s && ((flt t.toNat && (flt s.g.et || int s.g.et)) ||
      (((t.toNat == 16 && flt s.g.et) || (flt t.toNat && s.g.et == 16)) && (s.fcode s.g).isSome))) ∧
    Illegal (.icvt d a t n) (fun s => even s && (int s.g.et || (flt s.g.et && rm s)))

/-- R278 to R283: the two-word, complex and packed instructions. -/
def Obligations.PairAndComplexResults : Prop :=
  ∀ (n : Ann) (d a b : BitVec 6),
    let f32in := fun (s : State) (l x : Nat) => f32.decode (f32.flush s.g.ftz (s.g.v l x).toNat)
    let r32 := fun (s : State) (l k : Nat) (x : RM → XR) =>
      match RM.ofCode s.g.rm with
      | some rm => BitVec.ofNat 32 (f32.flush s.g.ftz (f32.round rm s.g.satM (s.g.drawn l k) (x rm)).code)
      | none => (0 : Word)
    let pairMode := fun (s : State) => (s.g.et == 18 || s.g.et == 19) && decide (s.g.rm < 6)
    let half := fun (s : State) (l k : Nat) (x : FFmt → RM → XR) =>
      match fmtOfPair s.g.et, RM.ofCode s.g.rm with
      | some f, some rm => f.flush s.g.ftz (f.round rm s.g.satM (s.g.drawn l k) (x f rm)).code
      | _, _ => 0
    let two := fun (i : Instr) (x : State → Nat → Nat → FFmt → RM → XR) =>
      DrawnResult i pairMode 2 d.toNat fun s l => [BitVec.ofNat 32 (half s l 0 (x s l 0) + 2 ^ 16 * half s l 1 (x s l 1))]
    LaneResult (.tsum d a b n) (fun s => s.g.et == 14) d.toNat
      (fun s l => [(twoSum (s.g.v l a.toNat) (s.g.v l b.toNat)).1, (twoSum (s.g.v l a.toNat) (s.g.v l b.toNat)).2]) ∧
    LaneResult (.tprd d a b n) (fun s => s.g.et == 14) d.toNat
      (fun s l => [(twoProd (s.g.v l a.toNat) (s.g.v l b.toNat)).1, (twoProd (s.g.v l a.toNat) (s.g.v l b.toNat)).2]) ∧
    DrawnResult (.cmul d a b n) (fun s => s.g.et == 17 && decide (s.g.rm < 6)) 2 d.toNat (fun s l =>
      let ar := f32in s l a.toNat
      let ai := f32in s l (a.toNat + 1)
      let br := f32in s l b.toNat
      let bi := f32in s l (b.toNat + 1)
      [r32 s l 0 fun rm => XR.addZ (rm == .rd) (ar.mul br) (ai.mul bi).neg,
       r32 s l 1 fun rm => XR.addZ (rm == .rd) (ar.mul bi) (ai.mul br)]) ∧
    LaneResult (.cfma d a b n) (fun s => s.g.et == 17) d.toNat (fun s l =>
      let v := fun x => s.g.v l x
      let r := compMac (v d.toNat, v (d.toNat + 1), v (d.toNat + 2), v (d.toNat + 3)) (x32 (v a.toNat)) (x32 (v (a.toNat + 1)))
        (x32 (v b.toNat)) (x32 (v (b.toNat + 1)))
      [r.1, r.2.1, r.2.2.1, r.2.2.2]) ∧
    DrawnResult (.dot2 d a b n) pairMode 1 d.toNat (fun s l =>
      match fmtOfPair s.g.et with
      | some f =>
        let p := fun k => (s.g.pairIn f l a.toNat k).mul (s.g.pairIn f l b.toNat k)
        [r32 s l 0 fun rm => XR.addZ (rm == .rd) (p 0) (p 1)]
      | none => [0]) ∧
    two (.h2add d a b n) (fun s l k f rm => XR.addZ (rm == .rd) (s.g.pairIn f l a.toNat k) (s.g.pairIn f l b.toNat k)) ∧
    two (.h2mul d a b n) (fun s l k f _ => (s.g.pairIn f l a.toNat k).mul (s.g.pairIn f l b.toNat k)) ∧
    two (.h2fma d a b n) (fun s l k f rm =>
      XR.addZ (rm == .rd) ((s.g.pairIn f l a.toNat k).mul (s.g.pairIn f l b.toNat k)) (s.g.pairIn f l d.toNat k)) ∧
    (∀ i ∈ [Instr.tsum d a b n, .tprd d a b n], Illegal i fun s => s.g.et == 14) ∧
    Illegal (.cmul d a b n) (fun s => s.g.et == 17 && decide (s.g.rm < 6)) ∧ Illegal (.cfma d a b n) (fun s => s.g.et == 17) ∧
    (∀ i ∈ [Instr.dot2 d a b n, .h2add d a b n, .h2mul d a b n, .h2fma d a b n], Illegal i pairMode)

/-- R284 to R289: block scales, narrow quotients, and planes split and joined. -/
def Obligations.QuantiseResults : Prop :=
  ∀ (n : Ann) (d a b : BitVec 6) (pl : BitVec 2),
    let elt := fun (s : State) => s.g.et == 12 || s.g.et == 13 || s.g.et == 14
    let scaled := fun (s : State) => elt s && (s.fcode s.g).isSome && (State.qscale s.g).isSome
    let coded := fun (s : State) => elt s && (s.fcode s.g).isSome && decide (s.g.rm < 6)
    let plane := fun (s : State) => s.g.et == 16 && match s.fcode s.g with
      | some fc => decide (pl.toNat < (FCode.planes fc.w).length)
      | none => false
    let joins := fun (s : State) => s.g.et == 16 && (s.fcode s.g).isSome
    let block := fun (lane : State → Nat → Nat) (s : State) (l : Nat) =>
      match fmtOf s.g.et, s.fcode s.g, State.qscale s.g with
      | some f, some fc, some sc =>
        let row := (List.range s.g.width).map fun j => s.g.quantIn f (lane s j) a.toNat
        let scales := (List.range (s.g.width / sc.len)).map fun k => blockScale sc.sf fc.maxVal ((row.drop (k * sc.len)).take sc.len)
        [BitVec.ofNat 32 (sc.sf * 2 ^ 22 + lane s l * 2 ^ 16 + scales.getD (l / sc.len) 0)]
      | _, _, _ => [(0 : Word)]
    let off := fun (s : State) => (s.g.sreg b.toNat).toNat
    let table := fun (s : State) => b != 0 && !s.g.actives.isEmpty && off s % 2 == 0
    let free := fun (s : State) => s.g.sq.isEmpty && !s.g.acqPending && !s.underWay s.g.id
    let whole := fun (t : Tile) (s : State) => decide (off s + 2 * s.g.width ≤ t.memb) && (List.range (2 * s.g.width)).all fun j =>
      let k := t.home + off s + j
      !s.guardKey k && !s.poisonedAt k 1 && s.cmds.all (fun c => !inSpans c.dst k) && s.g.unretired.all fun u => !inSpans u.dst k
    LaneResult (.qblk d a 0 n) scaled d.toNat (block fun _ j => j) ∧
    LaneResult (.qblk d a b n) (fun s => scaled s && s.g.actives.isEmpty) d.toNat (block fun _ j => j) ∧
    (∀ t : Tile, LaneResult (.qblk d a b n) (fun s => scaled s && table s && free s && s.windowTile s.g 1 == some t && whole t s) d.toNat
      (block fun s j => s.num (t.home + off s + 2 * j) 2 % s.g.width)) ∧
    Waits (.qblk d a b n) (fun s => scaled s && table s && (s.windowTile s.g 1).isSome && s.g.acqPending) (fun _ => .held) ∧
    Traps (.qblk d a b n) (fun s l => scaled s = true ∧ b ≠ 0 ∧ s.g.actives.head? = some l ∧ off s % 2 = 1) 0x05 ∧
    Traps (.qblk d a b n) (fun s l => scaled s = true ∧ table s = true ∧ s.g.actives.head? = some l ∧ s.windowTile s.g 1 = none) 0x06 ∧
    Illegal (.qblk d a b n) scaled ∧ Illegal (.qcvt d a b n) coded ∧ Illegal (.plsplit d a pl n) plane ∧ Illegal (.pljoin d a b n) joins ∧
    DrawnResult (.qcvt d a b n) coded 1 d.toNat (fun s l =>
      match fmtOf s.g.et, s.fcode s.g, RM.ofCode s.g.rm with
      | some f, some fc, some rm =>
        let w := (s.g.v l b.toNat).toNat
        let sf := w / 2 ^ 22 % 4
        let sv := Scale.value sf (if sf = 3 then w % 2 ^ 16 else w % 2 ^ 8)
        [BitVec.ofNat 32 (quotCode fc rm s.g.satM (s.g.drawn l 0) (s.g.quantIn f (w / 2 ^ 16 % 64) a.toNat) sv)]
      | _, _, _ => [0]) ∧
    LaneResult (.plsplit d a pl n) plane d.toNat (fun s l =>
      match s.fcode s.g with
      | some fc =>
        let w := (FCode.planes fc.w).getD pl.toNat 1
        [BitVec.ofNat 32 ((List.range (32 / w)).foldl (fun r t =>
          let c := l * (32 / w) + t
          if c < s.g.width then r + FCode.planeBits fc.w pl.toNat (s.g.planeIn c a.toNat % 2 ^ fc.w) * 2 ^ (w * t) else r) 0)]
      | none => [0]) ∧
    LaneResult (.pljoin d a b n) joins d.toNat (fun s l =>
      match s.fcode s.g with
      | some fc =>
        let x := (s.g.v l a.toNat).toNat
        let c := x / 2 ^ 28
        match nextPlane (FCode.planes fc.w) c 0 with
        | some w =>
          let bits := s.g.planeIn (l / (32 / w)) b.toNat / 2 ^ (w * (l % (32 / w))) % 2 ^ w
          [BitVec.ofNat 32 ((if c + w = fc.w then 0 else c + w) * 2 ^ 28 + (x % 256 * 2 ^ w + bits) % 256)]
        | none => [s.g.v l a.toNat]
      | none => [0])

/-- R290 to R294 with R145 to R147: loads. -/
def Obligations.LoadResults : Prop :=
  ∀ (n : Ann) (d a imm : BitVec 6) (lit : Word),
    let legal := fun (m : State) => etBits m.g.et ≠ 0 ∧ (wideEt m.g.et = true → d.toNat % 2 = 0)
    let loads := fun (i : Instr) (off : Int) =>
      let ea := fun (m : State) (l : Nat) => wrap 64 ((m.g.v2 l a.toNat : Int) + off)
      let z := fun (m : State) => etBytes m.g.et
      let level := fun (m : State) (key : Nat → Nat) => ∀ l ∈ m.g.actives, ea m l % z m = 0 ∧ m.levelAt (ea m l) (z m) (key l)
      let home := fun (m : State) (key : Nat → Nat) => ∃ l, m.g.actives = [l] ∧ ea m l % z m = 0 ∧ m.pkgAt (ea m l) (z m) 1 (key l)
      (∀ key : Nat → Nat, Completes i (fun m => legal m ∧ m.clear ∧ level m key ∧ ∀ l ∈ m.g.actives, m.atOnce (key l))
        (fun m => (m.posted (m.g.elemPosts m.g.actives d.toNat fun l => m.num (key l) (z m))).ordered m.g.ord m.scope 3)) ∧
      (∀ (s m : State) (key : Nat → Nat), m = s.merged → s.issues i = true → legal m → m.clear → level m key ∨ home m key →
        ∃ t e, exec i s = .next t ∧ t.g.pc = m.g.pcAfter i ∧ t.mem = m.mem ∧ m.g.keepsRegs t.g none2 none2 none1 none1 ∧
          t.g.sb = m.g.sb ++ [e] ∧ e.id = m.g.nextSb ∧
          ∀ l ∈ m.g.actives, m.answered t e l (m.g.elemPosts [l] d.toNat fun _ => m.num (key l) (z m)) (.load (z m)) (key l)) ∧
      (∀ (s m : State) (l pkg off : Nat), m = s.merged → s.issues i = true → legal m → m.clear → m.g.actives = [l] →
        ea m l % z m = 0 → m.place m.g (ea m l) = some (.home pkg off) → pkg ≠ m.g.pkg → (m.pkg pkg).member = true →
        m.pend = [] → m.net = [] → m.lines = [] →
        ∃ t p, exec i s = .next t ∧ t.g.pc = m.g.pcAfter i ∧ t.mem = m.mem ∧ m.g.keepsRegs t.g none2 none2 none1 none1 ∧
          t.net = [p] ∧ p.dst = pkg ∧ p.src = m.g.pkg ∧ p.va = ea m l ∧ p.kind = .load (z m) ∧ p.lane = l ∧ p.gid = m.g.id ∧
          p.sb = some m.g.nextSb ∧ (∃ e, t.g.sb = m.g.sb ++ [e] ∧ e.id = m.g.nextSb ∧ ∀ w ∈ e.writes, w.2 = none)) ∧
      WaitsAfter i (fun m => legal m ∧ (∀ l ∈ m.g.actives, m.addressable (ea m l) (z m)) ∧ m.g.acqPending = true) id (fun _ => .held) ∧
      Traps i (fun m l => legal m ∧ m.place m.g (ea m l) = none ∧ m.g.firstLane (fun k => ¬ m.addressable (ea m k) (z m)) l) 0x06 ∧
      Traps i (fun m l => legal m ∧ m.place m.g (ea m l) ≠ none ∧ m.g.firstLane (fun k => ¬ m.addressable (ea m k) (z m)) l) 0x05
    loads (.ldI d a imm n) (4 * signExt imm.toNat 6) ∧ loads (.ldL d a lit n) (signExt lit.toNat 32) ∧
    (∀ i ∈ [Instr.ldI d a imm n, .ldL d a lit n], Illegal i fun m => etBits m.g.et != 0 && (!wideEt m.g.et || d.toNat % 2 == 0))

/-- R291 to R296 with R114 and R147: stores and reductions enter the store queue. -/
def Obligations.StoreResults : Prop :=
  ∀ (n : Ann) (d a b imm : BitVec 6) (lit : Word) (fn : BitVec 4),
    let stores := fun (i : Instr) (legal : State → Prop) (off : Int) (src : Nat) (red : Option Nat) =>
      let ea := fun (m : State) (l : Nat) => wrap 64 ((m.g.v2 l a.toNat : Int) + off)
      let mapped := fun (m : State) => legal m ∧ ∀ l ∈ m.g.actives, m.addressable (ea m l) (etBytes m.g.et)
      let ok := fun (m : State) => mapped m ∧ m.g.acqPending = false
      let ord := fun (m : State) => if red.isSome then max 1 m.g.ord else m.g.ord
      let acq := fun (m : State) => m.g.ord == 3 || (red.isSome && m.g.ord == 2)
      let lane := fun (m : State) (l : Nat) => (⟨l, ea m l, bytesOf (etBytes m.g.et) (m.g.elem m.g.et l src), [], none⟩ : LaneStore)
      let entry := fun (m : State) (ls : List Nat) => (⟨m.next, red, m.g.et, ord m, m.scope, m.g.pc, ls.map (lane m), acq m⟩ : StoreEntry)
      let guarded := fun (m : State) (l : Nat) => (m.guardOf (lane m l)).isSome
      Completes i (fun m => ok m ∧ (m.g.actives ≠ [] ∨ 2 ≤ ord m) ∧ (∀ l ∈ m.g.actives, guarded m l = false) ∧ m.g.sq.length < 16)
        (fun m => { m with next := m.next + 1, g := { m.g with sq := m.g.sq ++ [entry m m.g.actives] } }) ∧
      (∀ s m : State, m = s.merged → s.issues i = true → ok m → m.g.sq.length < 16 →
        let hits := m.g.actives.filter (guarded m)
        let kept := m.g.actives.filter fun l => !guarded m l
        hits ≠ [] →
        ∃ t, exec i s = .next t ∧ t.g.pc = m.g.pcAfter i ∧ t.mem = m.mem ∧ m.g.keepsRegs t.g none2 none2 none1 none1 ∧
          t.g.sq = (if kept = [] ∧ ord m < 2 then m.g.sq else m.g.sq ++ [entry m kept]) ∧
          ∀ c, m.crew? m.g.crew = some c → ∃ c' r, t.crew? m.g.crew = some c' ∧ c'.guard = some r ∧
            (∀ q, c.guard = some q → r = { q with count := q.count + hits.length }) ∧
            (c.guard = none → r.count = hits.length ∧ r.group = m.g.num ∧ r.pc = m.g.pc)) ∧
      Completes i (fun m => ok m ∧ m.g.actives = [] ∧ ord m < 2) id ∧
      WaitsAfter i (fun m => ok m ∧ (m.g.actives ≠ [] ∨ 2 ≤ ord m) ∧ 16 ≤ m.g.sq.length) id (fun _ => .fence) ∧
      WaitsAfter i (fun m => mapped m ∧ m.g.acqPending = true) id (fun _ => .held) ∧
      Traps i (fun m l => legal m ∧ m.place m.g (ea m l) = none ∧ m.g.firstLane (fun k => ¬ m.addressable (ea m k) (etBytes m.g.et)) l) 0x06 ∧
      Traps i (fun m l => legal m ∧ m.place m.g (ea m l) ≠ none ∧ m.g.firstLane (fun k => ¬ m.addressable (ea m k) (etBytes m.g.et)) l) 0x05
    let plain := fun (m : State) => etBits m.g.et ≠ 0 ∧ (wideEt m.g.et = true → d.toNat % 2 = 0)
    stores (.stI d a imm n) plain (4 * signExt imm.toNat 6) d.toNat none ∧
    stores (.stL d a lit n) plain (signExt lit.toNat 32) d.toNat none ∧
    stores (.red a b fn n) (fun m => atomLegal fn.toNat m.g.et = true ∧ fn.toNat < 6 ∧ (wideEt m.g.et = true → b.toNat % 2 = 0)) 0 b.toNat
      (some fn.toNat) ∧
    (∀ i ∈ [Instr.stI d a imm n, .stL d a lit n], Illegal i fun m => etBits m.g.et != 0 && (!wideEt m.g.et || d.toNat % 2 == 0)) ∧
    Illegal (.red a b fn n) (fun m => atomLegal fn.toNat m.g.et && decide (fn.toNat < 6) && (!wideEt m.g.et || b.toNat % 2 == 0))

/-- R296 and R297 with R145 to R147: atomics on level memory and on the package's own. -/
def Obligations.AtomicResults : Prop :=
  ∀ (n : Ann) (d a b : BitVec 6) (fn : BitVec 4) (key : Nat → Nat),
    let z := fun (m : State) => etBytes m.g.et
    let atomics := fun (i : Instr) (legal : State → Prop) (new : State → Nat → Nat → Option Nat) (kind : State → Nat → AccKind) =>
      let one := fun (m : State) (acc : State × List (Nat × Nat)) (l : Nat) =>
        let old := acc.1.num (key l) (z m)
        ((match new m l old with | some x => acc.1.setNum (key l) (z m) x | none => acc.1), acc.2 ++ [(l, old)])
      let typed := fun (m : State) => legal m ∧ (wideEt m.g.et = true → d.toNat % 2 = 0 ∧ b.toNat % 2 = 0)
      let ok := fun (m : State) => typed m ∧ m.clear ∧
        ∀ l ∈ m.g.actives, m.g.v2 l a.toNat % z m = 0 ∧ m.quietAt (z m) (key l)
      Completes i
        (fun m => ok m ∧ ∀ l ∈ m.g.actives, m.levelAt (m.g.v2 l a.toNat) (z m) (key l) ∧ m.atOnce (key l))
        (fun m =>
          let r := m.g.actives.foldl (one m) (m, [])
          (r.1.posted (m.g.elemPosts m.g.actives d.toNat fun l => ((r.2.find? fun p => p.1 == l).map Prod.snd).getD 0)).ordered m.g.ord m.scope 2) ∧
      (∀ (s m : State) (l : Nat), m = s.merged → s.issues i = true → ok m → m.g.actives = [l] →
        m.levelAt (m.g.v2 l a.toNat) (z m) (key l) ∨ m.pkgAt (m.g.v2 l a.toNat) (z m) 3 (key l) →
        let ws := m.g.elemPosts [l] d.toNat fun _ => m.num (key l) (z m)
        ∃ t e, exec i s = .next t ∧ t.g.pc = m.g.pcAfter i ∧ m.g.keepsRegs t.g none2 none2 none1 none1 ∧ t.g.sb = m.g.sb ++ [e] ∧ e.id = m.g.nextSb ∧
          keepsOutside m t (key l) (z m) ∧
          (((∀ w ∈ ws, w ∈ e.writes) ∧ t.num (key l) (z m) = (new m l (m.num (key l) (z m))).getD (m.num (key l) (z m)) % 2 ^ etBits m.g.et) ∨
            ((∀ w ∈ ws, (w.1, none) ∈ e.writes) ∧ t.mem = m.mem ∧
              ∃ p ∈ t.net, p ∉ m.net ∧ p.gid = m.g.id ∧ p.lane = l ∧ p.sb = some e.id ∧ p.kind = kind m l ∧ p.key = some (key l) ∧
                p.data = bytesOf (z m) (m.g.elem m.g.et l b.toNat)))) ∧
      (∀ (s m : State) (l pkg off : Nat), m = s.merged → s.issues i = true → typed m → m.clear → m.g.actives = [l] →
        m.g.v2 l a.toNat % z m = 0 → m.place m.g (m.g.v2 l a.toNat) = some (.home pkg off) → pkg ≠ m.g.pkg → (m.pkg pkg).member = true → m.net = [] →
        ∃ t p, exec i s = .next t ∧ t.g.pc = m.g.pcAfter i ∧ t.mem = m.mem ∧ m.g.keepsRegs t.g none2 none2 none1 none1 ∧
          t.net = [p] ∧ p.dst = pkg ∧ p.src = m.g.pkg ∧ p.va = m.g.v2 l a.toNat ∧ p.kind = kind m l ∧ p.lane = l ∧ p.gid = m.g.id ∧
          p.data = bytesOf (z m) (m.g.elem m.g.et l b.toNat) ∧ p.sb = some m.g.nextSb ∧
          (∃ e, t.g.sb = m.g.sb ++ [e] ∧ e.id = m.g.nextSb ∧ ∀ w ∈ e.writes, w.2 = none)) ∧
      WaitsAfter i (fun m => typed m ∧ (∀ l ∈ m.g.actives, m.addressable (m.g.v2 l a.toNat) (z m)) ∧ (m.g.acqPending = true ∨ m.g.sq ≠ [])) id
        (fun _ => .held) ∧
      Traps i (fun m l => typed m ∧ m.place m.g (m.g.v2 l a.toNat) = none ∧ m.g.firstLane (fun k => ¬ m.addressable (m.g.v2 k a.toNat) (z m)) l) 0x06 ∧
      Traps i (fun m l => typed m ∧ m.place m.g (m.g.v2 l a.toNat) ≠ none ∧ m.g.firstLane (fun k => ¬ m.addressable (m.g.v2 k a.toNat) (z m)) l) 0x05
    atomics (.atom d a b fn n) (fun m => atomLegal fn.toNat m.g.et = true)
      (fun m l old => some (atomOp fn.toNat m.g.et old (m.g.elem m.g.et l b.toNat))) (fun m _ => .atom fn.toNat m.g.et) ∧
    atomics (.atomc d a b n) (fun m => atomInt m.g.et = true ∨ m.g.et = 14)
      (fun m l old => if old = m.g.elem m.g.et l d.toNat then some (m.g.elem m.g.et l b.toNat) else none)
      (fun m l => .cas m.g.et (bytesOf (z m) (m.g.elem m.g.et l d.toNat))) ∧
    Illegal (.atom d a b fn n) (fun m => atomLegal fn.toNat m.g.et && (!wideEt m.g.et || (d.toNat % 2 == 0 && b.toNat % 2 == 0))) ∧
    Illegal (.atomc d a b n) (fun m => (atomInt m.g.et || m.g.et == 14) && (!wideEt m.g.et || (d.toNat % 2 == 0 && b.toNat % 2 == 0)))

/-- R295 with R145 and R146: elements through layout handles.
R120 to R122 and R301: layout handles. -/
def Obligations.LayoutResults : Prop :=
  (
    ∀ (n : Ann) (d a b : BitVec 6) (h : Handle) (seat : Seat),
      let l := Layout.ofBytes h.bytes
      let et := if l.et = 16 then 2 else l.et
      let named := fun (m : State) => m.handle? m.g.pkg m.g.ctx (m.g.sreg a.toNat).toNat = some h ∧ m.seat h m.g.tile = some seat ∧
        b.toNat + l.ndim ≤ 64 ∧ (wideEt l.et = true → d.toNat % 2 = 0)
      let dead := fun (m : State) => m.handle? m.g.pkg m.g.ctx (m.g.sreg a.toNat).toNat = none
      let cs := fun (m : State) (i : Nat) => (List.range l.ndim).map fun j => (m.g.v i (b.toNat + j)).toInt
      let parts := fun (m : State) (w : Bool) (i : Nat) => l.element (m.version m.g.tile h w) ((cs m i).map Int.toNat)
      let unguarded := fun (m : State) (w : Bool) (i : Nat) => ∀ p ∈ parts m w i, (m.seatKey seat p.off).isSome = true
      let free := fun (m : State) (k : Nat) => m.poisonedAt k 1 = false ∧ (∀ c ∈ m.cmds, inSpans c.dst k = false) ∧
        ∀ u ∈ m.g.unretired, inSpans u.dst k = false
      (∀ home memb lvl, seat = .window home memb lvl → Completes (.ldl d a b n)
        (fun m => named m ∧ m.clear ∧ ∀ i ∈ m.g.actives, l.inside (cs m i) = true →
          unguarded m false i ∧ ∀ p ∈ parts m false i, free m (home + p.off) ∧ (l.et = 16 ∨ m.atOnce (home + p.off)))
        (fun m => (m.posted (m.g.typedPosts et m.g.actives d.toNat fun i =>
          if l.inside (cs m i) then (readParts (parts m false i) 0 fun off => some (m.byte (home + off)).toNat).1 else l.padCode)).ordered
            m.g.ord m.scope 3)) ∧
      (∀ (s m : State) (i pkg key : Nat) (r : Region), seat = .region pkg r → l.et ≠ 16 → m = s.merged →
        s.issues (.ldl d a b n) = true → named m → m.clear → m.g.actives = [i] → l.inside (cs m i) = true →
        key = m.regionKey pkg r (((parts m false i).map Part.off).headD 0) → key % 64 + etBytes l.et ≤ 64 → m.lines = [] →
        (∀ j < etBytes l.et, free m (key + j)) →
        ∃ t e, exec (.ldl d a b n) s = .next t ∧ t.g.pc = m.g.pcAfter (.ldl d a b n) ∧ t.mem = m.mem ∧
          m.g.keepsRegs t.g none2 none2 none1 none1 ∧ t.g.sb = m.g.sb ++ [e] ∧ e.id = m.g.nextSb ∧
          m.answered t e i (m.g.typedPosts et [i] d.toNat fun _ => m.num key (etBytes l.et)) (.load (etBytes l.et)) key) ∧
      Completes (.stl d a b n)
        (fun m => named m ∧ m.g.acqPending = false ∧ m.g.sq.length < 16 ∧ (∃ i ∈ m.g.actives, l.inside (cs m i) = true ∧ parts m true i ≠ []) ∧
          ∀ i ∈ m.g.actives, l.inside (cs m i) = true → unguarded m true i)
        (fun m => { m with
          next := m.next + 1
          g := { m.g with sq := m.g.sq ++ [⟨m.next, none, l.et, m.g.ord, m.scope, m.g.pc,
            (m.g.actives.filter fun i => l.inside (cs m i)).flatMap fun i => m.elemStores seat (parts m true i) (l.et == 16)
              (if wideEt l.et then m.g.v2 i d.toNat else (m.g.v i d.toNat).toNat) i, m.g.ord == 3⟩] } }) ∧
      (∀ i ∈ [Instr.ldl d a b n, Instr.stl d a b n], Traps i (fun m k => dead m ∧ m.g.actives.head? = some k) 0x06 ∧
        Traps i (fun m k => m.handle? m.g.pkg m.g.ctx (m.g.sreg a.toNat).toNat = some h ∧ (64 < b.toNat + l.ndim ∨ wideEt l.et = true ∧ d.toNat % 2 = 1) ∧
          k = m.g.lowLane) 0x01 ∧
        WaitsAfter i (fun m => (named m ∨ dead m ∧ m.g.actives = []) ∧ m.g.acqPending = true) id (fun _ => .held)) ∧
      WaitsAfter (.stl d a b n) (fun m => named m ∧ m.g.acqPending = false ∧ 16 ≤ m.g.sq.length ∧ 2 ≤ m.g.ord) id (fun _ => .fence) ∧
      Completes (.ldl d a b n) (fun m => dead m ∧ m.g.actives = [] ∧ m.clear) (fun m => m.ordered m.g.ord m.scope 3) ∧
      Completes (.stl d a b n) (fun m => dead m ∧ m.g.actives = [] ∧ m.g.acqPending = false ∧ m.g.ord < 2) id ∧
      Completes (.stl d a b n) (fun m => dead m ∧ m.g.actives = [] ∧ m.g.acqPending = false ∧ 2 ≤ m.g.ord ∧ m.g.sq.length < 16)
        (fun m => { m with next := m.next + 1, g := { m.g with sq := m.g.sq ++ [⟨m.next, none, 0, m.g.ord, m.scope, m.g.pc, [], m.g.ord == 3⟩] } })) ∧
  (
    ∀ (n : Ann) (d a i : BitVec 6),
      let va := fun (m : State) => m.g.s2 a.toNat
      let live := fun (m : State) => m.handle? m.g.pkg m.g.ctx (m.g.sreg a.toNat).toNat
      (∀ key, let rcd := fun (m : State) => m.bytes key 64
        let lay := fun (m : State) => Layout.ofBytes (rcd m)
        let rgn := fun (m : State) => if (lay m).loc = 0 then m.region? m.g.pkg m.g.ctx (lay m).region else none
        let check := fun (m : State) => (lay m).check (rcd m) (m.reduced m.g.pkg) (rgn m)
        let ready := fun (m : State) => va m % 64 = 0 ∧ m.g.acqPending = false ∧ m.g.sq = [] ∧ m.underWay m.g.id = false ∧ m.levelAt (va m) 64 key
        (∀ k, Completes (.tlmake d a n)
          (fun m => ready m ∧ check m = 0 ∧ 1 ≤ k ∧ k ≤ 65535 ∧ (∀ h ∈ m.handles, h.pkg = m.g.pkg → h.ctx = m.g.ctx → h.h ≠ k) ∧
            ∀ j, 1 ≤ j → j < k → ∃ h ∈ m.handles, h.pkg = m.g.pkg ∧ h.ctx = m.g.ctx ∧ h.h = j)
          (fun m => State.replied { m with handles := m.handles ++ [⟨m.g.pkg, m.g.ctx, k, rcd m, rgn m, 0, none, false⟩] } d k)) ∧
        (∀ c, c ≠ 0 → Completes (.tlmake d a n) (fun m => ready m ∧ check m = c) (fun m => m.replied d (0x80000000 + c)))) ∧
      Completes (.tlmake d a n) (fun m => m.place m.g (va m) ≠ none ∧ va m % 64 ≠ 0) (fun m => m.replied d 0x80000001) ∧
      Traps (.tlmake d a n) (fun m l => m.place m.g (va m) = none ∧ l = m.g.lowLane) 0x06 ∧
      (∀ h : Handle,
        let is := fun (x : Handle) => x.pkg = h.pkg ∧ x.ctx = h.ctx ∧ x.h = h.h
        (∀ s m : State, m = s.merged → s.issues (.tldrop d a n) = true → live m = some h →
          ∃ t, exec (.tldrop d a n) s = .next t ∧ t.g.pc = m.g.pcAfter (.tldrop d a n) ∧ t.g.sb = (m.replied d 0).g.sb ∧ t.mem = m.mem ∧
            m.g.keepsRegs t.g none2 none2 none1 none1 ∧ (∀ x ∈ t.handles, is x → x.dropped = true) ∧
            t.handle? h.pkg h.ctx h.h = none ∧ (∀ x ∈ m.handles, ¬ is x → x.dropped = false → x ∈ t.handles) ∧
            ((m.cmds = [] ∧ m.streams = []) → ∀ x ∈ t.handles, ¬ is x)) ∧
        Completes (.tlqry d a i n) (fun m => live m = some h)
          (fun m => m.replied d (if i = 16 then 2 ^ 31 + h.committed else leField h.bytes (4 * i.toNat) 4))) ∧
      Completes (.tldrop d a n) (fun m => live m = none) (fun m => m.replied d 0x80000001) ∧
      Completes (.tlqry d a i n) (fun m => live m = none) (fun m => m.replied d 0))

/-- R298 and R299: fences and cache control.
R300 and R113: level allocation. -/
def Obligations.FenceCacheAndPoolResults : Prop :=
  (
    ∀ (n : Ann) (a i : BitVec 6),
      let strong := fun (m : State) => 2 ≤ m.g.ord ∧ m.scope ≠ 0
      let l1 := fun (m : State) => unitL1 m.g.pkg m.g.core
      let dc := fun (m : State) => unitDie m.g.pkg m.g.core
      let gone := fun (m : State) (q : Line) => 2 ≤ m.scope ∧ (q.unit = l1 m ∨ (4 ≤ m.scope ∧ q.unit = dc m))
      Completes (.fence n) (fun m => ¬ strong m) id ∧
      WaitsAfter (.fence n) (fun m => strong m ∧ (m.g.acqPending = true ∨ m.relWaits m.scope = true)) id (fun _ => .fence) ∧
      (∀ s m : State, m = s.merged → s.issues (.fence n) = true → strong m → m.g.acqPending = false → m.relWaits m.scope = false →
        ∃ t, exec (.fence n) s = .next t ∧ t.g.pc = m.g.pcAfter (.fence n) ∧ t.mem = m.mem ∧ m.g.keepsRegs t.g none2 none2 none1 none1 ∧
          (∀ q, q ∈ t.lines ↔ q ∈ m.lines ∧ ¬ gone m q) ∧ t.g.unretired = m.g.unretired.filter (fun u => !u.other)) ∧
      (∀ s m : State, m = s.merged → s.issues (.cctl a i n) = true →
        let hits := fun (q : Line) => (i.toNat ≠ 1 ∧ q.unit = l1 m) ∨ ((i = 0 ∨ i = 1 ∨ i = 3) ∧ q.unit = dc m)
        ∃ t, exec (.cctl a i n) s = .next t ∧ t.g.pc = m.g.pcAfter (.cctl a i n) ∧ t.mem = m.mem ∧ t.g.sb = m.g.sb ∧
          m.g.keepsRegs t.g none2 none2 none1 none1 ∧ (∀ q, ¬ hits q → (q ∈ t.lines ↔ q ∈ m.lines)) ∧
          (i = 4 → m.g.actives ≠ [] → ∀ q ∈ t.lines, q.unit ≠ l1 m) ∧
          (∀ k, (i = 2 ∨ i = 3) → m.g.actives = [k] → ∀ off pa, m.place m.g (m.g.v2 k a.toNat) = some (.home m.g.pkg off) →
            (m.translate m.g.pkg m.g.ctx off 1).1 = some pa →
            ∀ q ∈ t.lines, q.key = keyPkg m.g.pkg pa / 64 * 64 → q.unit ≠ l1 m ∧ (i = 3 → q.unit ≠ dc m)))) ∧
  (
    ∀ (n : Ann) (d a i : BitVec 6) (t : Tile),
      let size := fun (m : State) => (m.g.sreg a.toNat).toNat
      let need := fun (m : State) => (size m + 63) / 64 * 64 + 128
      let mine := fun (m : State) => m.poolTile i.toNat = some t
      let block := fun (m : State) (sp : Span) => sp.block = true ∧ sp.off + 64 = size m
      (∀ o, Completes (.lalloc d a i n) (fun m => mine m ∧ size m ≠ 0 ∧ m.poolFit t (need m) = some o)
        (fun m => ((m.modTile t.id fun x => { x with spans := x.spans ++ [⟨o, need m, true, some (m.g.id, m.g.nextSb)⟩] }).spoil (t.home + o + 64) (need m - 128)).replied d (o + 64))) ∧
      Completes (.lalloc d a i n) (fun m => m.poolTile i.toNat = none) (fun m => m.replied d 0x80000001) ∧
      Completes (.lalloc d a i n) (fun m => mine m ∧ size m = 0) (fun m => m.replied d 0x80000003) ∧
      Completes (.lalloc d a i n) (fun m => mine m ∧ size m ≠ 0 ∧ m.poolFit t (need m) = none) (fun m => m.replied d 0x80000002) ∧
      Completes (.lfree d a i n) (fun m => m.poolTile i.toNat = none) (fun m => m.replied d 0x80000001) ∧
      Completes (.lfree d a i n) (fun m => mine m ∧ ∃ sp ∈ t.spans, block m sp)
        (fun m => (m.modTile t.id fun x => { x with spans := x.spans.filter fun sp => !(sp.block && sp.off + 64 == size m) }).replied d 0) ∧
      Completes (.lfree d a i n) (fun m => mine m ∧ ∀ sp ∈ t.spans, ¬ block m sp) (fun m => m.replied d 0x80000004) ∧
      (∀ (s : State) (k : Nat),
        let fits := fun o => o % 64 = 0 ∧ s.poolStart t ≤ o ∧ o + k ≤ t.memb - 64 ∧ ∀ sp ∈ t.spans, o + k ≤ sp.off ∨ sp.off + sp.len ≤ o
        (∀ o, s.poolFit t k = some o → fits o ∧ ∀ o', fits o' → o ≤ o') ∧ (s.poolFit t k = none → ∀ o, ¬ fits o)))

/-- R306 to R308: BINIT and BLINK. -/
def Obligations.BarrierObjectResults : Prop :=
  ∀ (n : Ann) (d a b : BitVec 6) (i : BitVec 3),
    (∀ (s m : State) (obj : Nat), m = s.merged → s.issues (.binit d a i n) = true → m.names i a obj → m.barDev obj = ⟨obj, [], []⟩ →
      let k := (m.g.sreg d.toNat).toNat
      ∃ t, exec (.binit d a i n) s = .next t ∧ t.barIs obj (if 1 ≤ k ∧ k ≤ 65535 then k + k * 2 ^ 16 else 0) 0 0 0 ∧
        keepsBytes m t [obj] ∧ wokenAt m t true obj statusReinit ∧
        (m.g.notAt obj → m.g.id ≠ 0 → (∀ h ∈ m.groups, h.id ≠ m.g.id) → t.g.pc = m.g.pcAfter (.binit d a i n) ∧ t.g.sb = m.g.sb ∧ m.g.keepsRegs t.g none2 none2 none1 none1 ∧
          ∀ r, t.g.arr = some r → r.obj ≠ obj)) ∧
    NoEffect (.binit d a i n) (fun m => m.resolve m.g i.toNat == 0) ∧
    (∀ (s m : State) (obj w cl pl : Nat), m = s.merged → s.issues (.blink d a b n) = true → w = (m.g.sreg d.toNat).toNat →
      cl = m.resolve m.g (w % 8) → pl = m.resolve m.g (w / 8 % 8) → cl ≠ 0 → pairNamed cl a = true → (m.barNamed cl a).1 = .inr obj →
      let w0 := m.barWord obj 0
      (b ≠ 0 → pl ≠ 0 → cl ≤ pl → pairNamed pl b = true → (∃ p, ((m.barNamed cl a).2.barNamed pl b).1 = .inr p) →
        (4 ≤ pl → m.g.s2 b.toNat % 256 = 0) →
        ∃ t, exec (.blink d a b n) s = .next t ∧ t.g.pc = m.g.pcAfter (.blink d a b n) ∧ t.g.sb = m.g.sb ∧
          m.g.keepsRegs t.g none2 none2 none1 none1 ∧ keepsBytes m t [obj] ∧
          t.barIs obj (barWord0 (barExp w0) (barPend w0) (barPh w0) true (barHeld w0))
            (pl + (if 4 ≤ pl then m.g.s2 b.toNat % 2 ^ 53 / 256 * 256 else (m.g.sreg b.toNat).toNat * 256))
            (m.barWord obj 2) (m.barWord obj 3)) ∧
      (b = 0 → barHeld w0 = false →
        ∃ t, exec (.blink d a b n) s = .next t ∧ t.g.pc = m.g.pcAfter (.blink d a b n) ∧ t.g.sb = m.g.sb ∧
          m.g.keepsRegs t.g none2 none2 none1 none1 ∧ keepsBytes m t [obj] ∧
          t.barIs obj (barWord0 (barExp w0) (barPend w0) (barPh w0) false false) 0 (m.barWord obj 2) (m.barWord obj 3)) ∧
      (b = 0 → barHeld w0 = true → m.barDev obj = ⟨obj, [], []⟩ → obj ∉ m.wildBars →
        ∃ t, exec (.blink d a b n) s = .next t ∧ keepsBytes m t [obj] ∧ wokenAt m t false obj (m.barWord obj 2) ∧
          t.barIs obj (barWord0 (barExp w0) (barPend w0) (!barPh w0) false false) 0 0 (m.barWord obj 2))) ∧
    Traps (.binit d a i n) (fun m l => m.barLegal i a = false ∧ l = m.g.lowLane) 0x01 ∧
    (∀ c, Traps (.binit d a i n) (fun m l => m.misnames i a c ∧ l = m.g.lowLane) c) ∧
    Traps (.blink d a b n) (fun m l => l = m.g.lowLane ∧
      let cl := m.resolve m.g ((m.g.sreg d.toNat).toNat % 8)
      let pl := m.resolve m.g ((m.g.sreg d.toNat).toNat / 8 % 8)
      (cl = 0 ∨ pairNamed cl a = false ∨ b ≠ 0 ∧ (pl = 0 ∨ pl < cl ∨ pairNamed pl b = false))) 0x01 ∧
    (∀ c, Traps (.blink d a b n) (fun m l => l = m.g.lowLane ∧
      let cl := m.resolve m.g ((m.g.sreg d.toNat).toNat % 8)
      let pl := m.resolve m.g ((m.g.sreg d.toNat).toNat / 8 % 8)
      cl ≠ 0 ∧ pairNamed cl a = true ∧ (b = 0 ∨ pl ≠ 0 ∧ cl ≤ pl ∧ pairNamed pl b = true) ∧
      ((m.barNamed cl a).1 = .inl c ∨ b ≠ 0 ∧ ∃ obj, (m.barNamed cl a).1 = .inr obj ∧
        (((m.barNamed cl a).2.barNamed pl b).1 = .inl c ∨
         c = 0x05 ∧ (∃ p, ((m.barNamed cl a).2.barNamed pl b).1 = .inr p) ∧ 4 ≤ pl ∧ m.g.s2 b.toNat % 256 ≠ 0))) c)

/-- R309 and R310: arrivals. -/
def Obligations.BarrierArrivalResults : Prop :=
  ∀ (n : Ann) (d a : BitVec 6) (lv : BitVec 3),
    let arrives := fun (i : Instr) (f : State → Fold) (test : Bool) =>
      let entry := fun (m : State) (lo hi : Option Word) =>
        if test then m.g.sb ++ [⟨m.g.nextSb, [(.s d.toNat, lo), (.s (d.toNat + 1), hi)], false⟩] else m.g.sb
      let ready := fun (s m : State) (obj : Nat) => m = s.merged ∧ s.issues i = true ∧ m.names lv a obj ∧ obj ∉ m.wildBars ∧
        m.relBar lv a obj = false ∧ m.g.notAt obj ∧ m.g.id ≠ 0 ∧ (∀ h ∈ m.groups, h.id ≠ m.g.id) ∧
        ∀ e ∈ m.g.sb, e.id ≠ m.g.nextSb
      let out := fun (m t : State) (arr : Option ArrRec) (lo hi : Option Word) =>
        t.g.pc = m.g.pcAfter i ∧ t.g.sb = entry m lo hi ∧ t.g.arr = arr ∧ m.g.keepsRegs t.g none2 none2 none1 none1
      let bit := fun (x : Bool) (k : Nat) => if x then k else 0
      (∀ (s m : State) (obj : Nat), ready s m obj → m.openBar obj → barLnk (m.barWord obj 0) = false →
        ∃ t, exec i s = .next t ∧ arrivedAt m t obj (f m) ∧ keepsBytes m t [obj] ∧
          out m t (some ⟨obj, barPh (m.barWord obj 0), false⟩)
            (some (BitVec.ofNat 32 (bit (barPh (m.barWord obj 0)) 1 + bit (m.pendAfter obj == 0) 2))) (some 0) ∧
          (m.pendAfter obj = 0 → wokenAt m t false obj (foldStatus (m.barWord obj 2) (f m)))) ∧
      (∀ (s m : State) (obj : Nat), ready s m obj → barExp (m.barWord obj 0) ≠ 0 → barHeld (m.barWord obj 0) = true →
        ∃ t, exec i s = .next t ∧ keepsBytes m t [] ∧ out m t (some ⟨obj, barPh (m.barWord obj 0), true⟩) none none ∧
          t.barDev obj = ⟨obj, (m.barDev obj).queue ++ [(f m, if test then .test m.g.id m.g.nextSb else .group m.g.id)], (m.barDev obj).kids⟩) ∧
      (∀ (s m : State) (c p : Nat) (tl : Tile), ready s m c → m.openBar c → barLnk (m.barWord c 0) = true → m.pendAfter c = 0 →
        m.openBar p → barLnk (m.barWord p 0) = false → m.g.notAt p → c + 32 ≤ p ∨ p + 32 ≤ c →
        1 ≤ field (m.barWord c 1) 2 0 → field (m.barWord c 1) 2 0 ≤ 3 →
        m.ancestor (field (m.barWord c 1) 2 0) 9 ((m.ownerTile c).map Tile.id) = some tl → p = tl.home + field (m.barWord c 1) 39 8 →
        let w := m.barWord c 0
        let w2 := foldStatus (m.barWord c 2) (f m)
        ∃ t, exec i s = .next t ∧ arrivedAt m t p (statusFold w2) ∧ keepsBytes m t [c, p] ∧ t.g.pc = m.g.pcAfter i ∧
          m.g.keepsRegs t.g none2 none2 none1 none1 ∧
          if m.pendAfter p = 0 then
            t.barIs c (barWord0 (barExp w) (barExp w) (!barPh w) true false) (m.barWord c 1) 0 (foldStatus (m.barWord p 2) (statusFold w2)) ∧
            wokenAt m t false c (foldStatus (m.barWord p 2) (statusFold w2))
          else t.barIs c (barWord0 (barExp w) (barExp w) (barPh w) true true) (m.barWord c 1) w2 (m.barWord c 3)) ∧
      (∀ (s m : State) (obj : Nat), ready s m obj → barExp (m.barWord obj 0) = 0 →
        ∃ t, exec i s = .next t ∧ keepsBytes m t [] ∧ out m t m.g.arr (some (loWord statusUninit)) (some (hiWord statusUninit))) ∧
      (∀ s m : State, m = s.merged → s.issues i = true → m.resolve m.g lv.toNat = 0 →
        ∃ t, exec i s = .next t ∧ keepsBytes m t [] ∧ out m t m.g.arr (some 0) (some 0)) ∧
      (∀ obj, WaitsAfter i (fun m => m.names lv a obj ∧ m.relBar lv a obj = true) id (fun _ => .held)) ∧
      Traps i (fun m l => m.barLegal lv a = false ∧ l = m.g.lowLane) 0x01 ∧
      (∀ c, Traps i (fun m l => m.misnames lv a c ∧ l = m.g.lowLane) c)
    arrives (.bara a lv n) (fun _ => Fold.none) false ∧
    arrives (.barx d a lv n) (fun m => ⟨(m.g.sreg d.toNat).toNat % 2 ^ 14, 0, (m.g.sreg d.toNat).toNat / 2 ^ 16⟩) false ∧
    arrives (.bart d a lv n) (fun _ => Fold.none) true

/-- R310, R311 and R115: waits at a barrier. -/
def Obligations.BarrierWaitResults : Prop :=
  ∀ (n : Ann) (d a : BitVec 6) (lv : BitVec 3) (obj : Nat),
    let clean := fun (m : State) => m.names lv a obj ∧ obj ∉ m.wildBars ∧ m.g.id ≠ 0 ∧ (m.crew? m.g.crew).bind Crew.guard = none ∧
      (∀ h ∈ m.groups, h.id ≠ m.g.id) ∧ m.g.notAt obj
    let w0 := fun (m : State) => m.barWord obj 0
    let named := fun (m : State) => (m.barNamed (m.resolve m.g lv.toNat) a).2
    let pair := fun (x : Nat) => x == d.toNat || x == d.toNat + 1
    let got := fun (m t : State) (i : Instr) (st : Nat) => t.g.pc = m.g.pcAfter i ∧
      t.g.sval d.toNat = (if d = 0 then 0 else loWord st) ∧ t.g.sval (d.toNat + 1) = hiWord st ∧ t.g.sb = m.g.sb ∧
      m.g.keepsRegs t.g none2 none2 pair none1
    let uninit := fun (i : Instr) => ∀ s m : State, m = s.merged → s.issues i = true → clean m → barExp (w0 m) = 0 →
      m.relBar lv a obj = false → ∃ t, exec i s = .next t ∧ got m t i statusUninit ∧ keepsBytes m t [] ∧ ∀ r, t.g.arr = some r → r.obj ≠ obj
    let lane := fun (i : Instr) => Completes i (fun m => m.resolve m.g lv.toNat = 0)
      (fun m => m.posted [(.s d.toNat, some 0), (.s (d.toNat + 1), some 0)])
    let names := fun (i : Instr) => Traps i (fun m l => m.barLegal lv a = false ∧ l = m.g.lowLane) 0x01 ∧
      ∀ c, Traps i (fun m l => m.misnames lv a c ∧ l = m.g.lowLane) c
    let ended := fun (m : State) => m.g.arr = some ⟨obj, !barPh (w0 m), false⟩
    (∀ s m : State, m = s.merged → s.issues (.barw d a lv n) = true → clean m → barExp (w0 m) ≠ 0 → ended m →
      ∃ t, exec (.barw d a lv n) s = .next t ∧ got m t (.barw d a lv n) (m.barWord obj 3) ∧ keepsBytes m t [] ∧ t.g.arr = none) ∧
    WaitsAfter (.barw d a lv n) (fun m => clean m ∧ barExp (w0 m) ≠ 0 ∧ ¬ ended m) named
      (fun m => .barrier obj d.toNat (m.g.arr == some ⟨obj, true, true⟩ || m.g.arr == some ⟨obj, false, true⟩)) ∧
    uninit (.barw d a lv n) ∧ uninit (.baraw d a lv n) ∧ lane (.barw d a lv n) ∧ lane (.baraw d a lv n) ∧
    names (.barw d a lv n) ∧ names (.baraw d a lv n) ∧
    (∀ s m : State, m = s.merged → s.issues (.baraw d a lv n) = true → clean m → m.openBar obj → barLnk (w0 m) = false →
      m.relBar lv a obj = false →
      (m.pendAfter obj = 0 → ∃ t, exec (.baraw d a lv n) s = .next t ∧ arrivedAt m t obj Fold.none ∧ keepsBytes m t [obj] ∧
        got m t (.baraw d a lv n) (foldStatus (m.barWord obj 2) Fold.none) ∧ t.g.arr = none ∧
        wokenAt m t false obj (foldStatus (m.barWord obj 2) Fold.none)) ∧
      (m.pendAfter obj ≠ 0 → ∃ t, exec (.baraw d a lv n) s = .next t ∧ arrivedAt m t obj Fold.none ∧ keepsBytes m t [obj] ∧
        t.g.pc = m.g.pc ∧ (t.g.stop = none → t.g.issuing.wait = .barrier obj d.toNat false) ∧
        t.g.arr = some ⟨obj, barPh (w0 m), false⟩ ∧ m.g.keepsRegs t.g none2 none2 none1 none1)) ∧
    (∀ s m : State, m = s.merged → s.issues (.baraw d a lv n) = true → clean m → barExp (w0 m) ≠ 0 → barHeld (w0 m) = true →
      m.relBar lv a obj = false →
      ∃ t, exec (.baraw d a lv n) s = .next t ∧ keepsBytes m t [] ∧ t.g.pc = m.g.pc ∧
        (t.g.stop = none → t.g.issuing.wait = .barrier obj d.toNat true) ∧ t.g.arr = some ⟨obj, barPh (w0 m), true⟩ ∧
        t.barDev obj = ⟨obj, (m.barDev obj).queue ++ [(Fold.none, .wait m.g.id m.g.cur d.toNat)], (m.barDev obj).kids⟩ ∧
        m.g.keepsRegs t.g none2 none2 none1 none1) ∧
    WaitsAfter (.baraw d a lv n) (fun m => m.names lv a obj ∧ m.relBar lv a obj = true) id (fun _ => .held) ∧
    (∀ (s m : State) (c : Crew) (r : GuardRec), m = s.merged → s.issues (.barw d a lv n) = true → m.names lv a obj → obj ∉ m.wildBars →
      m.g.id ≠ 0 → m.g.priv = false → m.crew? m.g.crew = some c → c.st = .run → c.guard = some r → r.by_ = 0 → r.level = barDomain obj →
      barExp (w0 m) ≠ 0 → ended m →
      ∃ t c', exec (.barw d a lv n) s = .next t ∧ t.crew? c.id = some c' ∧ c'.st = .halting ∧ c'.guard = none ∧
        (c'.event.map fun e => (e.code, e.crew, e.group, e.pc)) = some (0x07, c.num, m.g.num, m.g.pc) ∧ t.g.pc = m.g.pc ∧
        t.barWord obj 3 = foldStatus (m.barWord obj 3) ⟨1, min 65535 r.count, 0x07⟩ ∧ keepsBytes m t [obj] ∧
        m.g.keepsRegs t.g none2 none2 none1 none1)

/-- R185, R186, R189, R334 to R336: port instructions. -/
def Obligations.PortResults : Prop :=
  ∀ (n : Ann) (d a : BitVec 6) (p : BitVec 3),
    let port := p.toNat
    let sized := fun (m : State) => m.g.width ≤ m.g.lanes.length
    let plain := fun (m t : State) (i : Instr) => t.g.pc = m.g.pcAfter i ∧ t.mem = m.mem ∧ m.g.keepsRegs t.g none2 none2 none1 none1
    let pushes := fun (i : Instr) (rel : Bool) =>
      let room := fun (m : State) (l : Nat) => ∀ h k, m.portPartner m.g port l = some (h, k) →
        (h.portQ (opposite port) k).length < portDepth h.core (opposite port)
      (∀ s m : State, m = s.merged → s.issues i = true → sized m → m.g.actives ≠ [] →
        (∀ l ∈ m.g.actives, m.partnerLive m.g port l = true ∧ room m l) →
        ∃ t, exec i s = .next t ∧ plain m t i ∧ t.g.sb = m.g.sb ∧
          ∀ l ∈ m.g.actives, ∀ h k, m.portPartner m.g port l = some (h, k) → h.id ≠ 0 → k < h.lanes.length →
            ∃ h', t.group? h.id = some h' ∧ h'.portQ (opposite port) k = h.portQ (opposite port) k ++
              [⟨m.g.v l a.toNat, false, rel, if rel then m.releaseNeeds (linkDomain m.g.core port) else [], false⟩]) ∧
      Completes i (fun m => m.g.actives = []) id ∧
      WaitsAfter i (fun m => (∀ l ∈ m.g.actives, m.partnerLive m.g port l = true) ∧ ∃ l ∈ m.g.actives, ¬ room m l) id (fun _ => .port port false) ∧
      Traps i (fun m l => m.g.firstLane (fun k => m.partnerLive m.g port k = false) l) 0x09
    let head := fun (m : State) (l : Nat) => (m.g.portQ port l).head?
    let dead := fun (m : State) (l : Nat) => m.g.portQ port l = [] ∧ m.partnerLive m.g port l = false
    let pops := fun (i : Instr) =>
      WaitsAfter i (fun m => m.g.actives ≠ [] ∧ (∀ l ∈ m.g.actives, ¬ dead m l) ∧
        ∃ l ∈ m.g.actives, ∀ x, head m l = some x → x.landed = false) id (fun _ => .port port false) ∧
      Completes i (fun m => m.g.actives = []) id ∧
      Traps i (fun m l => m.g.firstLane (dead m) l) 0x09 ∧
      Traps i (fun m l => l = m.g.lowLane ∧ (∀ k ∈ m.g.actives, ∃ x, head m k = some x ∧ x.landed = true) ∧
        ∃ k ∈ m.g.actives, ∃ x, head m k = some x ∧ x.bad = true) 0x0A
    let posts := fun (m : State) (val : Nat → Word) => m.g.actives.map fun l => (Target.v l ((m.g.lane l).wb + d.toNat), some (val l))
    let ready := fun (m : State) (val : Nat → Word) => m.g.actives ≠ [] ∧
      ∀ l ∈ m.g.actives, ∃ x, head m l = some x ∧ x.landed = true ∧ x.bad = false ∧ x.val = val l
    pushes (.push a p n) false ∧ pushes (.pushr a p n) true ∧ pops (.pop d p n) ∧ pops (.peek d p n) ∧
    (∀ val, Completes (.peek d p n) (fun m => ready m val) (fun m => m.posted (posts m val))) ∧
    (∀ (s m : State) (val : Nat → Word), m = s.merged → s.issues (.pop d p n) = true → sized m → ready m val → (∀ e ∈ m.g.sb, e.id ≠ m.g.nextSb) →
      ∃ t, exec (.pop d p n) s = .next t ∧ plain m t (.pop d p n) ∧
        t.g.sb = m.g.sb ++ [⟨m.g.nextSb, posts m val, m.g.actives.any fun l => ((head m l).map PortVal.release).getD false⟩] ∧
        ∀ l < m.g.lanes.length, t.g.portQ port l = if l ∈ m.g.actives then (m.g.portQ port l).drop 1 else m.g.portQ port l) ∧
    Completes (.pqry d p n) (fun _ => True) (fun m => m.posted (posts m fun l =>
      BitVec.ofNat 32 (((m.g.portQ port l).filter PortVal.landed).length + match m.portPartner m.g port l with
        | none => 0
        | some (h, k) => 2 ^ 8 * (portDepth h.core (opposite port) - (h.portQ (opposite port) k).length) + 2 ^ 16 +
            (if h.laneLive k then 2 ^ 17 else 0))))

/-- R183 and R337: link bindings. -/
def Obligations.PortLinkResults : Prop :=
  ∀ (n : Ann) (d a : BitVec 6) (p : BitVec 3),
    let port := p.toNat
    let w := fun (m : State) => (m.g.sreg a.toNat).toNat
    let open_ := fun (m : State) (c : Nat) => 2 ≤ port ∧ w m < 2 ^ 16 ∧ m.g.link? port = none ∧ linkCore m.g.core port = some c
    let faces := fun (m : State) (c : Nat) (h : Group) => h.pkg = m.g.pkg ∧ h.core = c ∧ h.id ≠ 0 ∧
      (h.plinkWait (opposite port) (w m)).isSome = true ∧ h.link? (opposite port) = none
    let fits := fun (m : State) (c : Nat) (h : Group) => faces m c h ∧ h.ctx = m.g.ctx ∧ h.width = m.g.width
    let plink := Instr.plink d a p n
    let unlink := Instr.plinkUnlink d p n
    Completes plink (fun m => port < 2 ∨ 2 ^ 16 ≤ w m) (fun m => m.replied d 0x80000010) ∧
    Completes plink (fun m => 2 ≤ port ∧ w m < 2 ^ 16 ∧ m.g.link? port ≠ none) (fun m => m.replied d 0x80000013) ∧
    Completes plink (fun m => 2 ≤ port ∧ w m < 2 ^ 16 ∧ m.g.link? port = none ∧ linkCore m.g.core port = none) (fun m => m.replied d 0x80000022) ∧
    (∀ c, Completes plink (fun m => open_ m c ∧ (∃ h ∈ m.groups, faces m c h) ∧ ∀ h ∈ m.groups, ¬ fits m c h) (fun m => m.replied d 0x80000020)) ∧
    (∀ c, WaitsAfter plink (fun m => open_ m c ∧ ∀ h ∈ m.groups, ¬ faces m c h) id (fun m => .plink port (w m) d.toNat)) ∧
    (∀ (s m : State) (c idx dst : Nat) (h : Group), m = s.merged → s.issues plink = true → open_ m c → h ∈ m.groups → fits m c h →
      (∀ h' ∈ m.groups, fits m c h' → h' = h) → m.g.id ≠ h.id → (h.splits.map Split.idx).Nodup →
      h.plinkWait (opposite port) (w m) = some (idx, dst) →
      ∃ t h', exec plink s = .next t ∧ t.g.pc = m.g.pcAfter plink ∧ t.g.sb = (m.replied d 0).g.sb ∧ t.mem = m.mem ∧
        m.g.keepsRegs t.g none2 none2 none1 none1 ∧ t.g.links = m.g.links ++ [⟨port, h.id, true, w m⟩] ∧
        h' ∈ t.groups ∧ h'.id = h.id ∧ h'.links = h.links ++ [⟨opposite port, m.g.id, true, w m⟩] ∧ h'.sval dst = 0 ∧
        ∃ q ∈ h.splits, ∃ q' ∈ h'.splits, q.idx = idx ∧ q'.idx = idx ∧ q'.pc = (q.pc + 4) % 2 ^ 64 ∧ q'.wait = .none) ∧
    Completes unlink (fun _ => port < 2) (fun m => m.replied d 0x80000010) ∧
    Completes unlink (fun m => 2 ≤ port ∧ m.g.link? port = none) (fun m => m.replied d 0x80000023) ∧
    (∀ (s m : State) (l : Link) (h : Group), m = s.merged → s.issues unlink = true → 2 ≤ port → m.g.link? port = some l →
      h ∈ m.groups → h.id = l.partner → h.id ≠ m.g.id →
      ∃ t h', exec unlink s = .next t ∧ t.g.pc = m.g.pcAfter unlink ∧ t.g.sb = (m.replied d 0).g.sb ∧ t.mem = m.mem ∧
        m.g.keepsRegs t.g none2 none2 none1 none1 ∧ (∀ x, x ∈ t.g.links ↔ x ∈ m.g.links ∧ x.port ≠ port) ∧
        h' ∈ t.groups ∧ h'.id = h.id ∧ ∀ x, x ∈ h'.links ↔ x ∈ h.links ∧ x.port ≠ opposite port)

/-- R178, R187 to R189: port events. -/
def Obligations.PortEventResults : Prop :=
  ∀ (gid port lane idx : Nat) (s : State),
    (∀ (g : Group) (v : PortVal), s.group? gid = some g → lane < g.lanes.length →
      (g.portQ port lane).find? (fun v => !v.landed) = some v →
      if v.need.all s.needDone = true then
        ∃ t g', exec (.portValueLand gid port lane) s = .next t ∧ t.mem = s.mem ∧ t.group? gid = some g' ∧
          (∃ a b, g.portQ port lane = a ++ [v] ++ b ∧ (∀ x ∈ a, x.landed = true) ∧
            g'.portQ port lane = a ++ [{ v with landed := true, need := [] }] ++ b) ∧
          g.keepsRegs g' none2 none2 none1 none1
      else exec (.portValueLand gid port lane) s = .next s) ∧
    (∃ t, exec (.portPark gid idx) s = .next t ∧ t.mem = s.mem ∧
      ∀ g, s.group? gid = some g → ∃ g', t.group? gid = some g' ∧ g'.splits = g.splits.map fun p =>
        match p.wait with
        | .port q false => if p.idx = idx ∧ p.since + 134 < s.time then { p with wait := .port q true } else p
        | _ => p) ∧
    (∀ t0, s.deadSince gid = some t0 →
      (s.time < t0 + 10 ^ 6 → exec (.portDeadlock gid) s = .next s) ∧
      (t0 + 10 ^ 6 ≤ s.time → (s.allGroups.map Group.id).Nodup → (∀ g ∈ s.allGroups, g.id ≠ 0 ∧ g.priv = false ∧ (s.pkg g.pkg).trip = false) →
        ∃ t, exec (.portDeadlock gid) s = .next t ∧ t.mem = s.mem ∧
          ∀ g ∈ s.allGroups, g.id ∈ s.bindSet gid → ∀ c, s.crew? g.crew = some c → c.st = .run →
            ∃ c', t.crew? c.id = some c' ∧ c'.st = .halting ∧ (c'.event.map Event.code) = some 0x09)) ∧
    (s.deadSince gid = none → exec (.portDeadlock gid) s = .next s)

/-- R364 to R367: reads of control and status registers.
R364, R367, R112: writes of control and status registers. -/
def Obligations.CsrResults : Prop :=
  (
    ∀ (n : Ann) (d : BitVec 6),
      let reads := fun (csr : Nat) (x : State → Nat) => Completes (.csrr d (BitVec.ofNat 32 csr) n) (fun _ => True) (fun m => m.replied d (x m))
      let C := fun (m : State) => m.core m.g.pkg m.g.core
      let P := fun (m : State) => m.pkg m.g.pkg
      let die := fun (m : State) => (P m).die (m.g.core / 128)
      reads 0x0000 (fun m => m.g.core) ∧
      reads 0x0001 (fun m => (C m).hvec) ∧ reads 0x0002 (fun m => (C m).hvec / 2 ^ 32) ∧
      reads 0x0003 (fun m => if m.g.handler then 2 ^ 31 + (C m).ecause.toNat else 0) ∧
      reads 0x0004 (fun m => (C m).epc) ∧ reads 0x0005 (fun m => (C m).epc / 2 ^ 32) ∧ reads 0x0006 (fun m => (C m).einfo.toNat) ∧
      reads 0x0007 (fun m => (C m).evq.length + if (C m).cur.isSome then 1 else 0) ∧
      reads 0x0008 (fun m => (C m).preq) ∧ reads 0x0009 (fun m => (C m).preq / 2 ^ 32) ∧ reads 0x000A (fun m => (C m).grace) ∧
      (∀ k < 64, reads (0x10 + k) (fun m => m.crewst m.g.pkg m.g.core k)) ∧
      (∀ k < 64, reads (0x80 + 2 * k) (fun m => (C m).spill k) ∧ reads (0x81 + 2 * k) (fun m => (C m).spill k / 2 ^ 32)) ∧
      (∀ r < 64, ∀ k < 4, reads (0x400 + 4 * r + k) (fun m => m.celown m.g.pkg m.g.core r / 2 ^ (32 * k))) ∧
      reads 0x1000 (fun m => (die m).dmem + if (die m).busy then 2 ^ 31 else 0) ∧
      reads 0x2000 (fun m => m.g.pkg) ∧ reads 0x2001 (fun m => (P m).stag) ∧
      reads 0x2004 (fun m => if m.extended then 1 else 0) ∧ reads 0x2005 (fun m => (P m).pstate) ∧ reads 0x2006 (fun m => (P m).slice) ∧
      reads 0x2008 (fun m => (P m).pctx) ∧ reads 0x2009 (fun m => (P m).pctx / 2 ^ 32) ∧
      Completes (.timelRead d n) (fun _ => True)
        (fun m => State.replied { m with g := { m.g with timeh := some (m.time / 2 ^ 32) } } d m.time) ∧
      Completes (.csrr d 0x2003 n) (fun _ => True)
        (fun m => State.replied { m with g := { m.g with timeh := none } } d (m.g.timeh.getD (m.time / 2 ^ 32))) ∧
      Completes (.ctxerrRead d n) (fun _ => True)
        (fun m => State.replied { m with g := { m.g with ctxerr := false } } d (if m.g.ctxerr then 1 else 0)) ∧
      (∀ csr : Word, 0x2009 < csr.toNat ∨ csr = 0x000C ∨ csr = 0x0050 ∨ csr = 0x0100 ∨ csr = 0x0500 ∨ csr = 0x1001 ∨ csr = 0x2007 →
        Traps (.csrr d csr n) (fun m l => l = m.g.lowLane) 0x01)) ∧
  (
    ∀ (n : Ann) (a : BitVec 6),
      let x := fun (m : State) => (m.g.sreg a.toNat).toNat
      let low := fun (old x : Nat) => old / 2 ^ 32 * 2 ^ 32 + x
      let high := fun (old x : Nat) => old % 2 ^ 32 + x * 2 ^ 32
      let core := fun (csr : Nat) (f : Nat → Core → Core) =>
        Completes (.csrw a (BitVec.ofNat 32 csr) n) (fun _ => True) (fun m => m.modCore m.g.pkg m.g.core (f (x m)))
      let pkg := fun (csr : Nat) (f : Nat → Package → Package) =>
        Completes (.csrw a (BitVec.ofNat 32 csr) n) (fun _ => True) (fun m => m.modPkg m.g.pkg (f (x m)))
      core 0x0001 (fun x c => { c with hvec := low c.hvec x }) ∧ core 0x0002 (fun x c => { c with hvec := high c.hvec x }) ∧
      (∀ k < 64, core (0x80 + 2 * k) (fun x c => c.setSpill k (low (c.spill k) x)) ∧
        core (0x81 + 2 * k) (fun x c => c.setSpill k (high (c.spill k) x))) ∧
      Completes (.csrw a 0x000A n) (fun m => 1 ≤ x m ∧ x m ≤ 65535) (fun m => m.modCore m.g.pkg m.g.core fun c => { c with grace := x m }) ∧
      Traps (.csrw a 0x000A n) (fun m l => (x m = 0 ∨ 65535 < x m) ∧ l = m.g.lowLane) 0x01 ∧
      pkg 0x2006 (fun x p => { p with slice := x }) ∧
      pkg 0x2008 (fun x p => { p with pctx := low p.pctx x }) ∧ pkg 0x2009 (fun x p => { p with pctx := high p.pctx x }) ∧
      (∀ csr ∈ [0x0000, 0x0003, 0x0004, 0x0007, 0x000B, 0x0010, 0x0400, 0x2000, 0x2001, 0x2002, 0x2005],
        Traps (.csrw a (BitVec.ofNat 32 csr) n) (fun m l => l = m.g.lowLane) 0x01) ∧
      (∀ (hi : BitVec 1) (s m : State), m = s.merged → s.issues (.preqWrite a hi n) = true →
        ∃ t, exec (.preqWrite a hi n) s = .next t ∧ t.g.pc = m.g.pcAfter (.preqWrite a hi n) ∧ t.mem = m.mem ∧ t.g.sb = m.g.sb ∧
          m.g.keepsRegs t.g none2 none2 none1 none1 ∧
          (∀ k < 32, flag (x m) k = true → flag (t.core m.g.pkg m.g.core).preq (32 * hi.toNat + k) = true) ∧
          (∀ p c k, flag (m.core p c).preq k = true → flag (t.core p c).preq k = true) ∧
          (∀ p c, (t.core p c).evq = (m.core p c).evq ∧ (t.core p c).hvec = (m.core p c).hvec)) ∧
      (∀ s m : State, m = s.merged → s.issues (.dsplitWrite a n) = true → x m ≤ 16 → (m.pkg? m.g.pkg).isSome = true →
        m.g.core / 128 < (m.pkg m.g.pkg).dies.length →
        let die := m.g.core / 128
        ∃ t, exec (.dsplitWrite a n) s = .next t ∧ t.g.pc = m.g.pcAfter (.dsplitWrite a n) ∧ t.g.sb = m.g.sb ∧
          m.g.keepsRegs t.g none2 none2 none1 none1 ∧ ((t.pkg m.g.pkg).die die).dmem = x m ∧ ((t.pkg m.g.pkg).die die).busy = true ∧
          (∀ q, q ∈ t.lines ↔ q ∈ m.lines ∧ q.unit ≠ 2 ^ 40 + m.g.pkg * 16 + die) ∧
          ∀ k, k < keyDie m.g.pkg die 0 ∨ keyDie m.g.pkg die 0 + 2 ^ 28 ≤ k → t.byte k = m.byte k) ∧
      Traps (.dsplitWrite a n) (fun m l => 16 < x m ∧ l = m.g.lowLane) 0x01 ∧
      (∀ (s : State) (p die : Nat), ∃ t, exec (.dsplitDone p die) s = .next t ∧ ((t.pkg p).die die).busy = false ∧
        t.mem = s.mem ∧ t.g = s.g ∧ ∀ q k, (q, k) ≠ (p, die) → (t.pkg q).die k = (s.pkg q).die k))

/-- R372: items of halted groups.
R370 and R408: crews halted, resumed and killed. -/
def Obligations.CrewAndContextResults : Prop :=
  (
    ∀ (n : Ann) (d a : BitVec 6),
      let sel := fun (m : State) => m.ctxGroup (m.g.sreg a.toNat).toNat
      let err := fun (m : State) (b : Bool) => { m with g := { m.g with ctxerr := b } }
      let reads := fun (item : Nat) (ok : Group → Nat → Prop) (x : Group → Nat → Nat) => ∀ c g l, ok g l →
        Completes (.ctxrd d a (BitVec.ofNat 32 item) n) (fun m => sel m = some (c, g, l)) (fun m => State.replied (err m false) d (x g l))
      let any := fun (_ : Group) (_ : Nat) => True
      let inFile := fun (x : Nat) (g : Group) (l : Nat) => 8 * (g.lane l).mark ≤ (g.lane l).wb + x ∧
        (g.lane l).wb + x < 8 * (g.lane l).mark + 64 * g.alloc
      let w := fun (m : State) => m.g.sreg d.toNat
      let writes := fun (item : Nat) (ok : Word → Group → Nat → Prop) (f : Word → Nat → Group → Group) => ∀ c g l,
        Completes (.ctxwr d a (BitVec.ofNat 32 item) n) (fun m => sel m = some (c, g, l) ∧ ok (w m) g l)
          (fun m => err (m.modGroup g.id (f (w m) l)) false)
      let always := fun (_ : Word) (_ : Group) (_ : Nat) => True
      (∀ x < 64, reads x (inFile x) (fun g l => if (g.lane l).filling ((g.lane l).wb + x) then (g.freeWord l ((g.lane l).wb + x)).toNat else (g.vreg l x).toNat)) ∧
      (∀ x < 64, reads (0x200 + x) any (fun g _ => (g.sval x).toNat)) ∧
      (∀ x < 8, reads (0x248 + x) any (fun g _ => (g.fval x).toNat)) ∧
      reads 0x240 any (fun g l => (g.lane l).p.toNat) ∧ reads 0x250 any (fun g _ => g.mode.toNat) ∧
      reads 0x251 any (fun g l => g.alloc * 2 ^ 24 + (g.lane l).mark * 2 ^ 12 + (g.lane l).wb / 8) ∧
      reads 0x252 any (fun g l => (g.lane l).origin.toNat) ∧ reads 0x253 any (fun g l => (g.lane l).lfsr.toNat) ∧
      reads 0x2A0 any (fun g _ => (g.stop.map Stop.pc).getD 0) ∧ reads 0x2A1 any (fun g _ => (g.stop.map Stop.pc).getD 0 / 2 ^ 32) ∧
      reads 0x2A2 any (fun g _ => (g.stop.map Stop.skid).getD 0) ∧
      (∀ x < 64, ∀ c g l, Completes (.ctxwr d a (BitVec.ofNat 32 x) n) (fun m => sel m = some (c, g, l) ∧ inFile x g l)
        (fun m => err (m.modGroup g.id fun h => h.modLane l fun k =>
          k.put ((g.lane l).wb + x) (w m) (g.freeWord l ((g.lane l).wb + x))) false)) ∧
      (∀ x < 64, writes (0x200 + x) always (fun w _ g => g.setS 0 x w)) ∧
      (∀ x < 8, writes (0x248 + x) always (fun w _ g => g.setF 0 x w)) ∧
      writes 0x240 always (fun w l g => g.modLane l fun k => { k with p := BitVec.ofNat 8 (w.toNat % 256) ||| 1 }) ∧
      writes 0x250 (fun w _ _ => w.toNat < 2 ^ 25) (fun w _ g => { g with mode := w }) ∧
      writes 0x253 (fun w _ _ => w ≠ 0) (fun w l g => g.modLane l fun k => { k with lfsr := w }) ∧
      (∀ item, Completes (.ctxrd d a item n) (fun m => sel m = none) (fun m => State.replied (err m true) d 0)) ∧
      (∀ item, Completes (.ctxwr d a item n) (fun m => sel m = none) (fun m => err m true)) ∧
      Completes (.ctxwr d a 0x250 n) (fun m => 2 ^ 25 ≤ (w m).toNat) (fun m => err m true) ∧
      Completes (.ctxwr d a 0x253 n) (fun m => w m = 0) (fun m => err m true)) ∧
  (
    ∀ (n : Ann) (d a : BitVec 6) (c : Crew),
      let x := fun (m : State) => (m.g.sreg a.toNat).toNat
      let named := fun (m : State) => x m < 64 ∧ m.crewAt m.g.pkg m.g.core (x m) = some c
      let halt := Instr.haltcr d a n
      let resume := Instr.resume d a n
      let kill := Instr.killcr d a n
      let fatal := (c.event.map Event.fatal).getD false
      let awaiting := fun (m : State) => { m.posted [(.s d.toNat, none)] with sysops := m.sysops ++ [⟨m.g.id, m.g.nextSb, .halt c.id⟩] }
      (∀ i ∈ [halt, resume, kill],
        Completes i (fun m => 64 ≤ x m) (fun m => m.replied d 0x80000001) ∧
        Completes i (fun m => x m < 64 ∧ m.crewAt m.g.pkg m.g.core (x m) = none) (fun m => m.replied d 0x80000002) ∧
        WaitsAfter i (fun m => named m ∧ c.st = .busy) id (fun _ => .crewop)) ∧
      (∀ i ∈ [resume, kill], WaitsAfter i (fun m => named m ∧ c.st = .halting ∧ ∃ o ∈ m.sysops, o.kind = .halt c.id) id (fun _ => .crewop)) ∧
      Completes halt (fun m => named m ∧ c.st = .halted) (fun m => m.replied d 0) ∧
      Completes halt (fun m => named m ∧ c.st = .halting) awaiting ∧
      (∀ s m : State, m = s.merged → s.issues halt = true → named m → c.st = .run → (m.crew? c.id) = some c → m.g.priv = true →
        ∃ t c', exec halt s = .next t ∧ t.g.pc = m.g.pcAfter halt ∧ t.g.sb = (awaiting m).g.sb ∧ t.sysops = (awaiting m).sysops ∧ t.mem = m.mem ∧
          m.g.keepsRegs t.g none2 none2 none1 none1 ∧ t.crew? c.id = some c' ∧ c'.st = .halting ∧ c'.event = none ∧
          ∀ g ∈ m.groups, g.crew = c.id → g.priv = false → ∃ h ∈ t.groups, h.id = g.id ∧ (h.stop.isSome = true ∨ h.haltLeft.isSome = true)) ∧
      Completes resume (fun m => named m ∧ c.st = .halted ∧ fatal = false ∧ flag (m.core c.pkg c.core).preq c.num = false)
        (fun m => ((m.modCrew c.id fun c => { c with st := .run, event := none, restored := false }).mapGroups fun g =>
          if g.crew = c.id ∧ g.priv = false then { g with stop := none, haltLeft := none } else g).replied d 0) ∧
      Completes resume (fun m => named m ∧ m.crewBusy c = false ∧ (c.st ≠ .halted ∨ fatal = true)) (fun m => m.replied d 0x80000002) ∧
      (∀ s m : State, m = s.merged → s.issues kill = true → named m → m.crewBusy c = false →
        (∀ k ∈ m.killClosure (m.tiles.length + 1) [c.id], ∀ x, m.crew? k = some x → x.st ≠ .busy) →
        ∃ t, exec kill s = .next t ∧ (∃ k, (⟨k, [(.s d.toNat, some 0)], false⟩ : SbEntry) ∈ t.g.sb) ∧ t.crew? c.id = none ∧
          ∀ g ∈ t.allGroups, g.crew = c.id → g.priv = true))

/-- R363 and R368: events, TRET and IDLE.
R369, R373 to R375: translations, caches, tickets and messages. -/
def Obligations.HandlerAndServiceResults : Prop :=
  (
    ∀ n : Ann,
      (∀ (s : State) (pkg core : Nat) (e : Event) (rest : List Event), (s.core pkg core).evq = e :: rest →
        (s.core pkg core).cur = none → (s.core pkg core).slotFault = false → (s.core pkg core).released = true →
        ∃ t, exec (.eventDelivery pkg core) s = .next t ∧ t.mem = s.mem ∧ (t.core pkg core).evq = rest ∧ (t.core pkg core).cur = some e ∧
          (t.core pkg core).epc = e.pc ∧ (t.core pkg core).einfo = BitVec.ofNat 32 e.info ∧
          ((t.core pkg core).ecause.toNat % 2 ^ 8 = e.code % 2 ^ 8 ∧ (t.core pkg core).ecause.toNat / 2 ^ 8 % 2 ^ 6 = e.crew % 2 ^ 6 ∧
            (t.core pkg core).ecause.toNat / 2 ^ 14 % 2 ^ 4 = e.group % 2 ^ 4 ∧ (t.core pkg core).ecause.toNat / 2 ^ 24 % 2 ^ 4 = e.skid % 2 ^ 4) ∧
          (∀ g ∈ s.groups, g.priv = true → g.handler = true → g.pkg = pkg → g.core = core →
            ∃ h ∈ t.groups, h.id = g.id ∧ h.splits = [⟨0, (s.core pkg core).hvec, 2 ^ g.width - 1, .none, 0, 0⟩] ∧ h.parks = [] ∧ h.cur = 0 ∧
              h.lanes = g.seedPriv.lanes ∧ (h.lanes.map fun x : Lane => { x with lfsr := 0 }) = (g.lanes.map fun x : Lane => { x with lfsr := 0 }) ∧ h.s = g.s)) ∧
      (∀ (s : State) (pkg core : Nat), ((s.core pkg core).evq = [] ∨ (s.core pkg core).cur.isSome = true ∨
        (s.core pkg core).slotFault = true ∨ (s.core pkg core).released = false) → exec (.eventDelivery pkg core) s = .next s) ∧
      (∀ (s m : State) (e : Event), m = s.merged → s.issues (.tret n) = true → m.g.handler = true →
        (m.core m.g.pkg m.g.core).cur = some e → m.crewAt m.g.pkg m.g.core e.crew = none →
        ∃ t, exec (.tret n) s = .next t ∧ t.g.splits = [] ∧ t.g.parks = [] ∧ t.mem = m.mem ∧ (t.core m.g.pkg m.g.core).cur = none ∧
          (t.core m.g.pkg m.g.core).work = true ∧ (t.core m.g.pkg m.g.core).evq = (m.core m.g.pkg m.g.core).evq ∧
          m.g.keepsRegs t.g none2 none2 none1 none1) ∧
      (∀ (s m : State) (e : Event) (c : Crew), m = s.merged → s.issues (.tret n) = true → m.g.handler = true →
        (m.core m.g.pkg m.g.core).cur = some e → m.crewAt m.g.pkg m.g.core e.crew = some c → m.crew? c.id = some c → m.g.priv = true →
        ((e.code = 0x10 ∨ e.code = 0x11) → c.event ≠ some e →
          ∃ t, exec (.tret n) s = .next t ∧ (t.core m.g.pkg m.g.core).cur = none ∧
            ∀ g ∈ m.groups, g.crew = c.id → g.num = e.group → g.priv = false → (∀ l ∈ g.lanes, l.needSpill g.alloc = false ∧ l.needFill = false) →
              ∃ h ∈ t.groups, h.id = g.id ∧ ∀ p ∈ h.splits, p.wait ≠ .spill ∧ p.wait ≠ .fill) ∧
        (c.event = some e → e.fatal = false →
          ∃ t c', exec (.tret n) s = .next t ∧ (t.core m.g.pkg m.g.core).cur = none ∧ t.crew? c.id = some c' ∧ c'.event = none ∧ c'.st = c.st) ∧
        (c.event = some e → e.fatal = true → c.st = .halted →
          ∃ t, exec (.tret n) s = .next t ∧ t.crew? c.id = none)) ∧
      Traps (.tret n) (fun m l => m.g.handler = false ∧ l = m.g.lowLane) 0x01 ∧
      Completes (.idle n) (fun m => m.g.handler = false ∧ (m.core m.g.pkg m.g.core).work = true)
        (fun m => m.modCore m.g.pkg m.g.core fun c => { c with work := false }) ∧
      WaitsAfter (.idle n) (fun m => m.g.handler = false ∧ (m.core m.g.pkg m.g.core).work = false) id (fun _ => .idle) ∧
      Traps (.idle n) (fun m l => m.g.handler = true ∧ l = m.g.lowLane) 0x01) ∧
  (
    ∀ (n : Ann) (d a b k : BitVec 6),
      let va := fun (m : State) => m.g.s2 a.toNat
      let arg := fun (m : State) => (m.g.sreg b.toNat).toNat
      let inv := Instr.cinv a k n
      let tkt := Instr.tkt d a b n
      let hm := Instr.hmsg d a b n
      let met := fun (m : State) (t : Tlb) => t.pkg = m.g.pkg ∧ t.ctx = arg m / 2 ^ 20 ∧ (arg m % 2 ^ 20 = 0 ∨
        (t.base < va m % 2 ^ 40 + arg m % 2 ^ 20 * 65536 ∧ va m % 2 ^ 40 < t.base + t.len))
      let under := fun (m : State) => m.translated m.g.pkg (arg m / 2 ^ 20) fun base len => arg m % 2 ^ 20 == 0 ||
        (decide (base < va m % 2 ^ 40 + arg m % 2 ^ 20 * 65536) && decide (va m % 2 ^ 40 < base + len))
      (∀ s m : State, m = s.merged → s.issues (.tlbinv d a b n) = true → va m % 65536 = 0 →
        ∃ t, exec (.tlbinv d a b n) s = .next t ∧ t.g.pc = m.g.pcAfter (.tlbinv d a b n) ∧ t.mem = m.mem ∧
          m.g.keepsRegs t.g none2 none2 none1 none1 ∧ (∀ e, e ∈ t.tlb ↔ e ∈ m.tlb ∧ ¬ met m e) ∧
          if under m = [] then t.g.sb = (m.replied d 0).g.sb ∧ t.sysops = m.sysops
          else t.g.sb = (m.posted [(.s d.toNat, none)]).g.sb ∧ t.sysops = m.sysops ++ [⟨m.g.id, m.g.nextSb, .accesses (under m)⟩]) ∧
      Completes (.tlbinv d a b n) (fun m => va m % 65536 ≠ 0) (fun m => m.replied d 0x80000001) ∧
      (∀ s m : State, m = s.merged → s.issues inv = true →
        let cleared := fun (hit : Line → Prop) => ∃ t, exec inv s = .next t ∧ t.g.pc = m.g.pcAfter inv ∧ t.mem = m.mem ∧ t.g.sb = m.g.sb ∧
          m.g.keepsRegs t.g none2 none2 none1 none1 ∧ ∀ q, q ∈ t.lines ↔ q ∈ m.lines ∧ ¬ (unitPkg q.unit = m.g.pkg ∧ hit q)
        (k = 1 → cleared fun q => unitIsL1 q.unit = true) ∧ (k = 2 → cleared fun q => unitIsL1 q.unit = false) ∧
        (k = 3 → cleared fun _ => True) ∧
        (∀ off pa, k = 0 → m.place m.g (va m) = some (.home m.g.pkg off) → (m.translate m.g.pkg m.g.ctx off 0).1 = some pa →
          cleared fun q => q.key = keyPkg m.g.pkg pa / 64 * 64) ∧
        (∀ pkg off, k = 0 → m.place m.g (va m) = some (.home pkg off) → pkg ≠ m.g.pkg →
          cleared fun q => q.key = keyRemote m.g.ctx pkg off / 64 * 64)) ∧
      Traps inv (fun m l => k = 0 ∧ m.place m.g (va m) = none ∧ l = m.g.lowLane) 0x06 ∧
      (∀ (s m : State) (off pa : Nat), m = s.merged → s.issues tkt = true → m.relWaits 4 = false → va m % 8 = 0 →
        m.place m.g (va m) = some (.home m.g.pkg off) → (m.translate m.g.pkg m.g.ctx off 3).1 = some pa → m.quietAt 8 (keyPkg m.g.pkg pa) →
        ∃ t, exec tkt s = .next t ∧ t.g.pc = m.g.pcAfter tkt ∧ m.g.keepsRegs t.g none2 none2 none1 none1 ∧
          t.num (keyPkg m.g.pkg pa) 8 = (m.num (keyPkg m.g.pkg pa) 8 + arg m) % 2 ^ 64 ∧
          (∀ j, j < keyPkg m.g.pkg pa ∨ keyPkg m.g.pkg pa + 8 ≤ j → t.byte j = m.byte j) ∧
          t.g.sb = (m.replied d (m.num (keyPkg m.g.pkg pa) 8)).g.sb) ∧
      WaitsAfter tkt (fun m => m.relWaits 4 = true) id (fun _ => .held) ∧
      Traps tkt (fun m l => m.relWaits 4 = false ∧ (∃ off, m.place m.g (va m) = some (.home m.g.pkg off)) ∧ va m % 8 ≠ 0 ∧ l = m.g.lowLane) 0x05 ∧
      Traps tkt (fun m l => m.relWaits 4 = false ∧ (∀ off, m.place m.g (va m) ≠ some (.home m.g.pkg off)) ∧ l = m.g.lowLane) 0x06 ∧
      (∀ (s m : State) (ks : List Nat), m = s.merged → s.issues hm = true → m.relWaits 4 = false → arg m % 16 = 0 → 16 ≤ arg m → arg m ≤ 4096 →
        va m % 16 = 0 → (m.messageKeys m.g (va m) (arg m)).1 = .inr ks → (∀ k ∈ ks, m.poisonedAt k 1 = false) →
        ∃ t, exec hm s = .next t ∧ t.g.pc = m.g.pcAfter hm ∧ t.mem = m.mem ∧ m.g.keepsRegs t.g none2 none2 none1 none1 ∧
          ((t.host = m.host ++ [⟨m.g.pkg, 0x100, ks.map m.byte⟩] ∧ t.g.sb = (m.replied d 0).g.sb) ∨
            (t.host = m.host ∧ t.g.sb = (m.posted [(.s d.toNat, none)]).g.sb ∧
              ∃ c, t.cmds = m.cmds ++ [c] ∧ c.kind = .hmsg (ks.map m.byte) ∧ c.gid = m.g.id ∧ c.reply = some m.g.nextSb))) ∧
      Completes hm (fun m => m.relWaits 4 = false ∧ (arg m % 16 ≠ 0 ∨ arg m < 16 ∨ 4096 < arg m ∨ va m % 16 ≠ 0))
        (fun m => m.replied d 0x80000001) ∧
      WaitsAfter hm (fun m => m.relWaits 4 = true) id (fun _ => .held) ∧
      (∀ c, Traps hm (fun m l => m.relWaits 4 = false ∧ arg m % 16 = 0 ∧ 16 ≤ arg m ∧ arg m ≤ 4096 ∧ va m % 16 = 0 ∧ l = m.g.lowLane ∧
        ((m.messageKeys m.g (va m) (arg m)).1 = .inl c ∨
          ∃ ks, (m.messageKeys m.g (va m) (arg m)).1 = .inr ks ∧ c = 0x0A ∧ ∃ k ∈ ks, m.poisonedAt k 1 = true)) c) ∧
      (∀ (s : State) (cmd : Nat) (c : Cmd) (msg : List Byte), s.cmd? cmd = some c → c.kind = .hmsg msg →
        (s.time < c.time + 10 ^ 6 → exec (.hmsgTimeout cmd) s = .next s) ∧
        (c.time + 10 ^ 6 ≤ s.time → ∃ t, exec (.hmsgTimeout cmd) s = .next t ∧ t.mem = s.mem ∧ t.cmd? cmd = none ∧
          ∀ g k, s.group? c.gid = some g → c.gid ≠ 0 → c.reply = some k →
            ∃ h, t.group? c.gid = some h ∧ ∀ e ∈ g.sb, e.id = k → e.writes = [(.s d.toNat, none)] →
              ∃ e' ∈ h.sb, e'.id = k ∧ e'.writes = [(.s d.toNat, some 0x80000007)])))

/-- R370, R413 to R419: SAVE and RSTR. -/
def Obligations.SaveRestoreResults : Prop :=
  ∀ (n : Ann) (d a b : BitVec 6) (c : Crew),
    let x := fun (m : State) => (m.g.sreg a.toNat).toNat
    let va := fun (m : State) => m.g.s2 b.toNat
    let free := fun (m : State) => x m < 64 ∧ m.crewAt m.g.pkg m.g.core (x m) = none
    let named := fun (m : State) => x m < 64 ∧ m.crewAt m.g.pkg m.g.core (x m) = some c
    let save := Instr.save d a b n
    let rstr := Instr.rstr d a b n
    (∀ i ∈ [save, rstr], Completes i (fun m => 64 ≤ x m ∨ va m % 256 ≠ 0) (fun m => m.replied d 0x80000001)) ∧
    Completes save (fun m => va m % 256 = 0 ∧ (free m ∨ named m ∧ c.st ≠ .halted ∧ m.crewBusy c = false)) (fun m => m.replied d 0x80000002) ∧
    WaitsAfter save (fun m => va m % 256 = 0 ∧ named m ∧ m.crewBusy c = true) id (fun _ => .crewop) ∧
    (∀ (t : Tile) (tr : Tree),
      let there := fun (m : State) => va m % 256 = 0 ∧ named m ∧ c.st = .halted ∧ c.tile.bind m.tile? = some t ∧ m.treeOf t = some tr ∧
        m.setUnhalted c = false
      Completes save (fun m => there m ∧ m.saveWaits c = true) (fun m =>
        { (m.modCrew c.id fun x => { x with st := .busy }).posted [(.s d.toNat, none)] with
          sysops := m.sysops ++ [⟨m.g.id, m.g.nextSb, .save c.id (va m)⟩] }) ∧
      (∀ (s m : State) (ks : List Nat), m = s.merged → s.issues save = true → there m → m.saveWaits c = false → m.vats = [] →
        m.cmds = [] → m.g.unretired = [] → (t.dom = 1 → m.liveBars = []) → (m.localKeys m.g (va m) (m.saveArea c t tr).length 2).1 = some ks → ks.Nodup →
        ∃ t', exec save s = .next t' ∧ (∃ k, (⟨k, [(.s d.toNat, some 0)], false⟩ : SbEntry) ∈ t'.g.sb) ∧
          (∀ (j : Nat) (k : Nat), ks[j]? = some k → some (t'.byte k) = (m.saveArea c t tr)[j]?) ∧ (∀ k, k ∉ ks → t'.byte k = m.byte k) ∧
          t'.crew? c.id = none ∧ (∀ g ∈ t'.groups, g.crew = c.id → g.priv = true) ∧
          ∃ v ∈ t'.saved, v.crew = c.id ∧ v.pkg = c.pkg ∧ v.core = c.core ∧ v.ctx = c.ctx ∧ v.lgen = c.lgen ∧ v.tile = t.id)) ∧
    Completes rstr (fun m => va m % 256 = 0 ∧ named m ∧ m.crewBusy c = false) (fun m => m.replied d 0x80000002) ∧
    WaitsAfter rstr (fun m => va m % 256 = 0 ∧ named m ∧ m.crewBusy c = true) id (fun _ => .crewop) ∧
    (∀ (s m : State) (hs ks : List Nat), m = s.merged → s.issues rstr = true → va m % 256 = 0 → free m →
      (m.localKeys m.g (va m) 256 1).1 = some hs →
      let total := leField (hs.map m.byte) 0x2C 4
      let area := ks.map m.byte
      256 ≤ total → total ≤ 2 ^ 24 →
      let m1 := (m.localKeys m.g (va m) 256 1).2
      let m2 := (m1.localKeys m.g (va m) total 1).2
      (m1.localKeys m.g (va m) total 1).1 = some ks →
      (areaCheck area = none →
        ∃ t, exec rstr s = .next t ∧ t.g.pc = m.g.pcAfter rstr ∧ t.mem = m.mem ∧ t.crews = m.crews ∧ t.g.sb = (m.replied d 0x80000006).g.sb) ∧
      (∀ (items : List (Nat × List Byte)) (sv : Saved) (tl : Tile) (home slot : Nat) (blocks : List (Nat × Nat)), areaCheck area = some items →
        (m2.saved.find? fun v => v.pkg == m.g.pkg && v.core == leField area 0x16 2 && v.lgen == leField area 0x10 4 && v.ctx == leField area 4 2) = some sv →
        m2.tile? sv.tile = some tl → m2.coreFits sv tl items m.g.core = true → m2.coreSeat tl m.g.pkg m.g.core = some home →
        let proto : Crew := ⟨sv.crew, sv.pkg, m.g.core, x m, sv.ctx, .halted, some tl.id, 0, [], leField area 6 1, 8 * 2 ^ leField area 3 1, 0, none, [], none, none, true⟩
        m2.placeCrew proto (leField area 6 1) (leField area 2 1) = some (slot, blocks) →
        (∀ k ∈ m.crews, k.id ≠ sv.crew) →
        ∃ t k, exec rstr s = .next t ∧ (∃ e, (⟨e, [(.s d.toNat, some 0)], false⟩ : SbEntry) ∈ t.g.sb) ∧
          t.crew? sv.crew = some k ∧ k.num = x m ∧ k.core = m.g.core ∧ k.st = .halted ∧ k.restored = true ∧ k.ctx = leField area 4 2 ∧
          (∀ v ∈ t.saved, v.crew ≠ sv.crew) ∧
          ∀ nb ∈ areaBlocks area, ∃ g ∈ t.groups, g.num = leField nb.2 0 1 ∧ g.crew = sv.crew ∧ g.core = m.g.core ∧ g.priv = false ∧
            g.mode = BitVec.ofNat 32 (leField nb.2 4 4) ∧
            ((∀ v ∈ sv.groups, v.parked = []) →
              (g.stop.map fun r => (r.pc, r.skid, r.kind)) = some (leField nb.2 8 8, leField nb.2 2 1, leField nb.2 1 1) ∧
              ∀ i, 1 ≤ i → i < 64 → g.sval i = BitVec.ofNat 32 (leField nb.2 (0x130 + 4 * i) 4))))

/-- R61 to R63: spill and fill. -/
def Obligations.SpillFillResults : Prop :=
  ∀ (s : State) (gid split : Nat) (g : Group) (p : Split) (c : Crew), s.group? gid = some g → g.split? split = some p → s.crew? g.crew = some c →
    g.width = g.lanes.length →
    let base := (s.core c.pkg c.core).spill c.num
    let A := 64 * g.alloc
    let lanes := List.range g.width
    let key := fun (l pos : Nat) => keyPkg g.pkg (base + 16384 * (64 * g.num + l) + 4 * pos)
    let over_ := fun (l : Nat) => 8 * (g.lane l).mark + A < (g.lane l).wb + 64
    let under := fun (l : Nat) => (g.lane l).wb < 8 * (g.lane l).mark
    let queued := fun (t : State) (code : Nat) (lane : Nat) => ∃ e, (t.core c.pkg c.core).evq = (s.core c.pkg c.core).evq ++ [e] ∧
      e.code = code ∧ e.crew = c.num ∧ e.group = g.num ∧ e.pc = p.pc ∧ e.info = lane
    (∀ l0, p.wait = .spill → base ≠ 0 → g.spillPending = false → lanes.find? (fun l => decide (over_ l)) = some l0 → (∀ l ∈ lanes, over_ l → (g.lane l).wb + 64 ≤ 4096 + A) →
      ∃ t h, exec (.spill gid split) s = .next t ∧ t.group? gid = some h ∧ queued t 0x10 l0 ∧
        (∀ l ∈ lanes, if over_ l then
            let mark := ((g.lane l).wb + 64 - A) / 8
            (h.lane l).mark = mark ∧ (h.lane l).wb = (g.lane l).wb ∧
            (∀ pos, 8 * (g.lane l).mark ≤ pos → pos < 8 * mark → t.num (key l pos) 4 = ((g.lane l).at pos).toNat) ∧
            (∀ pos, 8 * mark ≤ pos → pos < 8 * (g.lane l).mark + A → (h.lane l).at pos = (g.lane l).at pos)
          else h.lane l = g.lane l) ∧
        (∀ k, (∀ l ∈ lanes, k < key l 0 ∨ key l 4096 ≤ k) → t.byte k = s.byte k)) ∧
    (∀ l0, p.wait = .fill → lanes.find? (fun l => decide (under l)) = some l0 →
      ∃ t h, exec (.fill gid split) s = .next t ∧ t.group? gid = some h ∧ queued t 0x11 l0 ∧ t.mem = s.mem ∧
        ∀ l ∈ lanes, if under l then
            let mark := (g.lane l).wb / 8
            (h.lane l).mark = mark ∧ (h.lane l).wb = (g.lane l).wb ∧
            (∀ pos, 8 * mark ≤ pos → pos < 8 * (g.lane l).mark → (h.lane l).at pos = BitVec.ofNat 32 (s.num (key l pos) 4)) ∧
            (∀ pos, 8 * (g.lane l).mark ≤ pos → pos < 8 * mark + A → (h.lane l).at pos = (g.lane l).at pos)
          else h.lane l = g.lane l) ∧
    (p.wait = .spill → base = 0 → (∃ l ∈ lanes, over_ l) → c.event = none → c.st = .run →
      ∃ t k, exec (.spill gid split) s = .next t ∧ t.mem = s.mem ∧ t.crew? c.id = some k ∧ k.st = .halting ∧
        (k.event.map fun e => (e.code, e.group, e.pc)) = some (0x10, g.num, p.pc)) ∧
    (base ≠ 0 → g.spillPending = true → (∀ l ∈ lanes, over_ l → (g.lane l).wb + 64 ≤ 4096 + A) → exec (.spill gid split) s = .next s) ∧
    (p.wait ≠ .spill → exec (.spill gid split) s = .next s) ∧ (p.wait ≠ .fill → exec (.fill gid split) s = .next s)

/-- R401, R402, R404, R412: halts, grace periods and the watchdog. -/
def Obligations.HaltEventResults : Prop :=
  ∀ (s : State) (c : Crew) (id : Nat), s.crew? id = some c →
    let core := s.core c.pkg c.core
    let live := fun (g : Group) => g.id ≠ 0 ∧ g.crew = id ∧ g.priv = false ∧ g.live ≠ 0
    (∀ e, c.st = .halting → c.event = some e →
      ∃ t k, exec (.haltComplete id) s = .next t ∧ t.mem = s.mem ∧ t.crew? id = some k ∧ k.st = .halted ∧
        (∀ g ∈ t.allGroups, live g → g.stop.isSome = true) ∧
        ∃ e', (t.core c.pkg c.core).evq = core.evq ++ [e'] ∧ k.event = some e' ∧ { e' with skid := e.skid } = e ∧
          ∀ g ∈ t.allGroups, live g → g.num = e.group → (∀ h ∈ t.allGroups, live h → h.num = e.group → h = g) →
            (∀ h ∈ t.allGroups, h.crew = id → h.num = e.group → h.live ≠ 0) → some e'.skid = g.stop.map Stop.skid) ∧
    (c.st = .run → c.event = none → flag core.preq c.num = true → (∃ g ∈ s.allGroups, live g) → (∀ g ∈ s.allGroups, live g → g.stop.isSome = true) →
      ∃ t k, exec (.haltComplete id) s = .next t ∧ t.mem = s.mem ∧ t.crew? id = some k ∧ k.st = .halted ∧
        ∃ e, (t.core c.pkg c.core).evq = core.evq ++ [e] ∧ e.code = 0x20 ∧ e.crew = c.num ∧ k.event = some e ∧
          (c.num < 64 → core.preq < 2 ^ 64 → flag (t.core c.pkg c.core).preq c.num = false)) ∧
    (c.st = .halted ∨ c.st = .busy → exec (.haltComplete id) s = .next s) ∧
    (∀ t0, c.preqAt = some t0 → c.st = .run → flag core.preq c.num = true → (s.pkg c.pkg).trip = false →
      if t0 + 1000 * core.grace ≤ s.time then
        ∃ t k, exec (.graceExpiry id) s = .next t ∧ t.mem = s.mem ∧ t.crew? id = some k ∧ k.st = .halting ∧ k.event = none
      else exec (.graceExpiry id) s = .next s) ∧
    (∀ (gid split : Nat) (g : Group) (p : Split), s.group? gid = some g → g.crew = id → g.priv = false → g.split? split = some p →
      g.stop = none → p.wait = .held ∨ p.wait = .fence → c.st = .run → (s.pkg g.pkg).trip = false →
      if p.since + 10 ^ 7 ≤ s.time then
        ∃ t k, exec (.watchdog gid split) s = .next t ∧ t.mem = s.mem ∧ t.crew? id = some k ∧ k.st = .halting ∧
          (k.event.map fun e => (e.code, e.crew, e.group, e.pc)) = some (0x0B, c.num, g.num, p.pc)
      else exec (.watchdog gid split) s = .next s)

/-- R72, R145, R148: landing, draining and acknowledgement. -/
def Obligations.LandAndDrainResults : Prop :=
  ∀ (s : State) (gid : Nat) (g : Group), s.theGroup gid g →
    (∀ (k : Nat) (e : SbEntry), g.sb.find? (fun e => e.id == k) = some e → (∀ o ∈ s.sysops, o.gid = gid → o.sb ≠ k) →
      ((∀ w ∈ e.writes, w.2 ≠ none) → (e.writes.map Prod.fst).Nodup →
        ∃ t h, exec (.scoreboardLand gid k) s = .next t ∧ t.mem = s.mem ∧ t.theGroup gid h ∧ h.sb = g.sb.filter (fun x => x.id != k) ∧
          (∀ l pos x, (Target.v l pos, some x) ∈ e.writes → l < g.lanes.length → (∀ q ∈ (g.lane l).spans, pos ∈ q.pos → k < q.sb) →
            (h.lane l).at pos = x) ∧
          (∀ r x, (Target.s r, some x) ∈ e.writes → h.sval r = if r = 0 then 0 else x) ∧
          (∀ l r x, (Target.p l r, some x) ∈ e.writes → l < g.lanes.length → r < 8 → h.preg l r = (r == 0 || x == 1)) ∧
          (∀ l pos, (∀ x, (Target.v l pos, x) ∉ e.writes) → (h.lane l).at pos = (g.lane l).at pos) ∧
          (∀ l r, (∀ w ∈ e.writes, ∀ q, w.1 ≠ .p l q) → h.preg l r = g.preg l r) ∧
          (∀ r, (∀ x, (Target.s r, x) ∉ e.writes) → h.sval r = g.sval r) ∧ ∀ r, h.fval r = g.fval r) ∧
      ((∃ w ∈ e.writes, w.2 = none) → exec (.scoreboardLand gid k) s = .next s)) ∧
    (∀ (e : StoreEntry) (rest : List StoreEntry) (ls : LaneStore) (more : List LaneStore), g.sq = e :: rest → e.lanes = ls :: more →
      s.drainable g e = true → g.live ≠ 0 → (∀ p ∈ s.net, p.gid ≠ gid) →
      let z := ls.data.length
      let left := fun (h : Group) => if more = [] then h.sq = rest else h.sq = { e with lanes := more, ord := min e.ord 1 } :: rest
      let stored := fun (t : State) (key : Nat) => t.bytes key z = match e.red with
        | some fn => bytesOf z (atomOp fn e.et (s.num key z) (natOf ls.data))
        | none => ls.data
      let mayMove := fun (key : Nat) => e.ord < 2 ∧ tsoClass (some key) e.sc = false ∧ e.red = none
      (∀ key, ls.mask = [] → s.quietFor g z key →
        (ls.key = some key ∨ ls.key = none ∧
          ((∃ lvl off memb, s.place g ls.va = some (.level key lvl off memb)) ∨
            ∃ off pa, s.place g ls.va = some (.home g.pkg off) ∧ key = keyPkg g.pkg pa ∧
              (s.translate g.pkg g.ctx off (if e.red.isSome then 3 else 2)).1 = some pa)) →
        (e.red.isSome = true → s.line? (unitL1 g.pkg g.core) key = none ∧ s.line? (unitDie g.pkg g.core) key = none) →
        ∃ t h, exec (.storeQueueDrain gid) s = .next t ∧ t.theGroup gid h ∧ left h ∧
          ((stored t key ∧ keepsOutside s t key z ∧ t.net = s.net) ∨
           (mayMove key ∧ t.mem = s.mem ∧ ∃ ps, t.net = s.net ++ ps ∧
             (∀ p ∈ ps, p.gid = gid ∧ p.kind = .store ∧ ∃ k, p.key = some k ∧ key ≤ k ∧ k + p.data.length ≤ key + z) ∧
             ∀ j < z, ∃ p ∈ ps, ∃ k, p.key = some k ∧ k ≤ key + j ∧ p.data[key + j - k]? = ls.data[j]?))) ∧
      (∀ pkg off, ls.key = none → s.place g ls.va = some (.home pkg off) → pkg ≠ g.pkg → (s.pkg pkg).member = true →
        ∃ t h ps, exec (.storeQueueDrain gid) s = .next t ∧ t.mem = s.mem ∧ t.theGroup gid h ∧ left h ∧ t.net = s.net ++ ps ∧
          (∀ p ∈ ps, p.key = none ∧ p.dst = pkg ∧ p.src = g.pkg ∧ p.gid = gid ∧ p.lane = ls.lane ∧ p.sb = none ∧
            p.kind = (match e.red with | some fn => .red fn e.et | none => .store) ∧ p.id ∈ h.unacked) ∧
          (∀ j < z, ∃ p ∈ ps, ∃ i ≤ j, p.va = ls.va + i ∧ p.data[j - i]? = ls.data[j]?) ∧
          (e.ord ≠ 0 ∨ e.red.isSome = true → ∃ p, ps = [p] ∧ p.va = ls.va ∧ p.data = ls.data)) ∧
      (ls.key = none → (s.place g ls.va = none ∨ ∃ pkg off, s.place g ls.va = some (.home pkg off) ∧ pkg ≠ g.pkg ∧ (s.pkg pkg).member = false) →
        ∃ t h r, exec (.storeQueueDrain gid) s = .next t ∧ t.mem = s.mem ∧ t.net = s.net ∧ t.theGroup gid h ∧ left h ∧
          t.imprecise = s.imprecise ++ [r] ∧ r.kind = 1 ∧ r.code = 0x06 ∧ r.pc = e.pc ∧ r.addr = ls.va ∧ r.gid = gid)) ∧
    (∀ (e : StoreEntry) (rest : List StoreEntry), g.sq = e :: rest → s.drainable g e = false →
      ∃ t, exec (.storeQueueDrain gid) s = .next t ∧ t.mem = s.mem ∧ t.net = s.net ∧ t.theGroup gid g) ∧
    (∀ (id : Nat) (r : Response), r ∈ s.resp → r.pkt.id = id → r.pkt.sb = none →
      ∃ t h, exec (.storeAck id) s = .next t ∧ t.mem = s.mem ∧ t.theGroup gid h ∧ h.unacked = g.unacked.filter (fun i => i != id) ∧
        ((∀ x ∈ s.allGroups, id ∉ x.acqOut) → h.readPend = g.readPend.filter (fun i => i != id)) ∧
        (∀ q, q ∈ t.pend ↔ q ∈ s.pend ∧ q.2.2.2 ≠ id) ∧ (∀ q, q ∈ t.resp ↔ q ∈ s.resp ∧ q.pkt.id ≠ id))

/-- R109, R146, R205, R436: accesses under way. -/
def Obligations.FabricAccessResults : Prop :=
  ∀ (s : State) (p : Packet),
    (s.net.find? (fun q => q.id == p.id) = some p → s.packetBlocked p = false →
      let run := exec (.remoteAccess p.id) s
      let off := fun (t : State) => ∀ q, q ∈ t.net ↔ q ∈ s.net ∧ q.id ≠ p.id
      let answers := fun (t : State) (code : Nat) (data : List Byte) => t.resp = s.resp ++ [⟨p, code, data, 0, s.time⟩] ∧ off t
      -- a load answers the bytes it has taken before and the others as they are; a WEAK one may take one more byte alone
      let loads := fun (t : State) (z : Nat) (bs : List Byte) =>
        let all := p.data ++ bs.drop p.data.length
        answers t 0 all ∨ p.ord = 0 ∧ p.data.length + 1 < z ∧ t.resp = s.resp ∧
          t.net = s.net.map fun q => if q.id = p.id then { p with data := all.take (p.data.length + 1) } else q
      let lives := p.crew = 0 ∨ (s.crew? p.crew).isSome = true
      (p.key = none → (s.reaches p.src p.dst = false ∨ s.tooOld p.sent = true) → (∀ r ∈ s.resp, r.pkt.id ≠ p.id) →
        ∃ t, run = .next t ∧ answers t 1 [] ∧ (p.kind.isLoad = true → t.mem = s.mem) ∧
          ∀ pa g, p.kind = .store → (s.translate p.dst p.ctx p.off p.need).1 = some pa → s.theGroup p.gid g →
            s.quietFor g p.data.length (keyPkg p.dst pa) → keepsOutside s t (keyPkg p.dst pa) p.data.length ∧
              ∀ j < p.data.length, t.byte (keyPkg p.dst pa + j) = s.byte (keyPkg p.dst pa + j) ∨ some (t.byte (keyPkg p.dst pa + j)) = p.data[j]?) ∧
      (p.key = none → s.reaches p.src p.dst = true → s.tooOld p.sent = false →
        (p.res0 ≠ 0 → ∃ t, run = .next t ∧ answers t 6 [] ∧ t.mem = s.mem) ∧
        (p.res0 = 0 → (s.translate p.dst p.ctx p.off p.need).1 = none → ∃ t, run = .next t ∧ answers t 7 [] ∧ t.mem = s.mem) ∧
        (∀ pa, p.res0 = 0 → (s.translate p.dst p.ctx p.off p.need).1 = some pa →
          let key := keyPkg p.dst pa
          (∀ z, p.kind = .load z → s.poisonedAt key z = false → key % 64 + z ≤ 64 → (narrow p.ord p.sc = false ∨ s.pend = []) →
            ∃ t, run = .next t ∧ loads t z (s.bytes key z) ∧ t.mem = s.mem) ∧
          (∀ g, p.kind = .store → s.theGroup p.gid g → s.quietFor g p.data.length key → lives →
            ∃ t, run = .next t ∧ answers t 0 [] ∧ t.bytes key p.data.length = p.data ∧ keepsOutside s t key p.data.length))) ∧
      (∀ key g, p.key = some key → s.theGroup p.gid g →
        (∀ z, p.kind = .load z → p.sb.isSome = true → s.quietFor g z key → key % 64 + z ≤ 64 →
          s.line? (unitL1 p.src p.core) key = none → s.line? (unitDie p.src p.core) key = none →
          ∃ t, run = .next t ∧ loads t z (s.bytes key z) ∧ t.mem = s.mem) ∧
        (p.kind = .store → p.sb = none → s.quietFor g p.data.length key → lives →
          ∃ t, run = .next t ∧ off t ∧ t.resp = s.resp ∧ t.bytes key p.data.length = p.data ∧ keepsOutside s t key p.data.length))) ∧
    (∀ (r : Response) (g : Group) (k : Nat), s.resp.find? (fun q => q.pkt.id == r.pkt.id && q.pkt.sb.isSome) = some r → r.pkt.sb = some k →
      s.theGroup r.pkt.gid g →
      (∀ (e : SbEntry) (pos : Nat), g.sb.find? (fun e => e.id == k) = some e → e.writes = [(.v r.pkt.lane pos, none)] →
        wideEt r.pkt.et = false →
        (r.code = 0 → r.res0 = 0 →
          ∃ t h, exec (.fabricResponse r.pkt.id) s = .next t ∧ t.mem = s.mem ∧ t.theGroup g.id h ∧ (∀ q ∈ t.resp, q.pkt.id ≠ r.pkt.id) ∧
            ∃ e' ∈ h.sb, e'.id = k ∧ e'.writes = [(.v r.pkt.lane pos, some (extend r.pkt.et (natOf r.data % 2 ^ etBits r.pkt.et)))]) ∧
        (r.code ∈ [1, 5, 6, 8] → r.res0 = 0 →
          ∃ t h, exec (.fabricResponse r.pkt.id) s = .next t ∧ t.mem = s.mem ∧ t.theGroup g.id h ∧
            (∃ e' ∈ h.sb, e'.id = k ∧ e'.writes = [(.v r.pkt.lane pos, some 0)]) ∧
            (r.code ≠ 1 → ∃ x, t.imprecise = s.imprecise ++ [x] ∧ x.kind = 4 ∧ x.code = r.code))) ∧
      (∀ (q : Split) (c : Crew), r.code = 7 → r.res0 = 0 → (∃ e ∈ g.sb, e.id = k) → g.splits.find? (fun q => flag q.mask r.pkt.lane) = some q →
        (∀ q' ∈ g.splits, q'.idx = q.idx → q' = q) → g.priv = false → s.crew? g.crew = some c → c.st = .run →
        ∃ t c', exec (.fabricResponse r.pkt.id) s = .next t ∧ t.mem = s.mem ∧ t.crew? c.id = some c' ∧ c'.st = .halting ∧
          (c'.event.map fun e => (e.code, e.crew, e.group, e.pc)) = some (0x06, c.num, g.num, r.pkt.pc)))

/-- R405 to R407: imprecise faults. -/
def Obligations.ImpreciseFaultResults : Prop :=
  ∀ (s : State) (r : Imprecise) (rest : List Imprecise), s.imprecise = r :: rest → s.ctxLive r.pkg r.ctx = true →
    let h := keyPkg r.pkg (s.ctxField r.pkg r.ctx 0x38 8)
    let n := s.num (h + 0x10) 8
    let ring := 2 ^ field (s.num (h + 8) 1) 4 0
    let slot := keyPkg r.pkg (s.num h 8) + 64 * (n % ring)
    let full := (n + 2 ^ 64 - s.num (h + 0x18) 8) % 2 ^ 64 = ring
    let run := exec .impreciseFault s
    (∀ c, s.crew? r.crewId = some c → r.kind ≤ 4 → c.st = .run → c.event = none →
      ∃ t c', run = .next t ∧ t.imprecise = rest ∧ t.crew? c.id = some c' ∧ c'.st = .halting ∧
        (c'.event.map fun e => (e.code, e.crew, e.group)) =
          some ((match r.kind with | 1 => 0x06 | 2 => 0x0A | 3 => 0x07 | _ => 0x0E), r.crew, r.group) ∧
        (c'.event.map Event.fatal) = some true ∧
        (¬ full → (slot + 64 ≤ h ∨ h + 0x20 ≤ slot) → t.num (h + 0x10) 8 = (n + 1) % 2 ^ 64 ∧
          ∃ flags, t.bytes slot 64 = r.bytes flags s.time) ∧
        (full → t.num (h + 0x20) 8 = (s.num (h + 0x20) 8 + 1) % 2 ^ 64 ∧ keepsOutside s t (h + 0x20) 8)) ∧
    (4 < r.kind ∨ s.crew? r.crewId = none →
      ∃ t, run = .next t ∧ t.imprecise = rest ∧ t.crews = s.crews ∧
        (¬ full → (slot + 64 ≤ h ∨ h + 0x20 ≤ slot) → t.num (h + 0x10) 8 = (n + 1) % 2 ^ 64 ∧ ∃ flags, t.bytes slot 64 = r.bytes flags s.time) ∧
        (full → t.num (h + 0x20) 8 = (s.num (h + 0x20) 8 + 1) % 2 ^ 64 ∧ keepsOutside s t (h + 0x20) 8))

/-- R124 to R133, R322, R323: copy commands. -/
def Obligations.CopyCommandResults : Prop :=
  ∀ (y : BitVec 1) (d a b : BitVec 6) (t : Tile) (tr : Tree) (desc : List Byte),
    let va := fun (m : State) => m.g.s2 a.toNat
    let below := fun (m : State) => m.leadTile = .inr t ∧ m.treeOf t = some tr ∧ t.dom ≠ 0 ∧ t.depth + 1 < tr.rcd.levels.length
    let copies := fun (i : Instr) (fn : Nat) =>
      let down := fn = 0 ∨ fn = 2
      let ready := fun (m : State) => below m ∧ va m % 64 = 0 ∧ m.relWaits t.dom = false ∧
        (m.ownStruct m.g t (va m) 128).1 = some desc
      let read := fun (m : State) => (m.ownStruct m.g t (va m) 128).2
      let grp := (tr.level (t.depth + 1)).dom = 0
      let src := fun (m : State) => m.handle? m.g.pkg m.g.ctx (leField desc 0 2)
      let dst := fun (m : State) => m.handle? m.g.pkg m.g.ctx (leField desc 2 2)
      let rcd := fun (m : State) => (⟨fn, desc, if grp ∧ ¬ down then none else src m, if grp ∧ down then none else dst m,
        decide ((src m = none ∧ ¬ (grp ∧ ¬ down)) ∨ (dst m = none ∧ ¬ (grp ∧ down)))⟩ : CopyRec)
      let code := fun (m : State) => if copyField fn (tr.grpKids t) desc then 0x80000010 else (read m).copyCode m.g t tr (rcd m)
      (∀ s m : State, m = s.merged → s.issues i = true → ready m → code m = 0 →
        (m.engineCmds (copyEngine t)).length < 32 →
        ∃ t' c, accepts i s m t' y d c ∧ c.engine = copyEngine t ∧ c.tile = some t.id ∧ c.kind = .copy (rcd m) 0 Fold.none ∧
          c.bar = (read m).ownBarrier tr.ctx t (leField desc 8 4)) ∧
      (∀ (s m : State) (w : Nat), m = s.merged → s.issues i = true → ready m → w ≠ 0 → code m = w →
        ∃ t', repliesOnly i s m t' y d w) ∧
      WaitsAfter i (fun m => ready m ∧ code m = 0 ∧ 32 ≤ (m.engineCmds (copyEngine t)).length) id (fun _ => .fence) ∧
      WaitsAfter i (fun m => va m % 64 = 0 ∧ m.relWaits (((m.tileOf m.g).map Tile.dom).getD 0) = true) id (fun _ => .held) ∧
      Completes i (fun m => va m % 64 ≠ 0) (fun m => m.repliedY y d 0x80000010) ∧
      (∀ s m : State, m = s.merged → s.issues i = true → va m % 64 = 0 → m.g.priv = false → m.g.num ≠ 0 → m.tileOf m.g = some t →
        m.treeOf t = some tr → m.relWaits t.dom = false → (m.ownStruct m.g t (va m) 128).1 = some desc → copyField fn (tr.grpKids t) desc = false →
        ∃ t', repliesOnly i s m t' y d 0x80000011) ∧
      Completes i (fun m => va m % 64 = 0 ∧ m.relWaits 0 = false ∧ m.tileOf m.g = none)
        (fun m => m.repliedY y d (if m.g.priv = false ∧ m.g.num ≠ 0 then 0x80000011 else 0x80000012))
    let item := fun (m : State) => (m.g.sreg a.toNat).toNat
    let here := fun (m : State) => m.earlier = false ∧ m.tileOf m.g = some t ∧ m.treeOf t = some tr ∧ t.dom ≠ 0 ∧ t.depth + 1 < tr.rcd.levels.length
    copies (.mcopy y d a) 0 ∧ copies (.ucopy y d a) 1 ∧ copies (.gcopy y d a) 2 ∧ copies (.reduce y d a) 3 ∧
    WaitsAfter (.cqry d a b) (fun m => m.earlier = true) id (fun _ => .held) ∧
    Completes (.cqry d a b) (fun m => m.earlier = false ∧ 2 < item m) (fun m => m.replied d 0x80000010) ∧
    Completes (.cqry d a b) (fun m => m.earlier = false ∧ item m ≤ 2 ∧ m.tileOf m.g = none) (fun m => m.replied d 0x80000012) ∧
    Completes (.cqry d a b) (fun m => here m ∧ item m = 0) (fun m => m.replied d (m.engineCmds (copyEngine t)).length) ∧
    Completes (.cqry d a b) (fun m => here m ∧ item m = 1)
      (fun m => m.replied d ((m.engineCmds (copyEngine t)).filter fun c => c.tile == some t.id).length) ∧
    (∀ (bt : Batch) (k : Child), t.batch = some bt → Completes (.cqry d a b)
      (fun m => here m ∧ item m = 2 ∧ bt.head < bt.n ∧ bt.kid? (m.g.sreg b.toNat).toNat = some k)
      (fun m => m.replied d (if k.overflow then 17 else k.copies.length)))

/-- R125 to R129 and R134: a down-copy moves its box. -/
def Obligations.CopyArrivalResults : Prop :=
  ∀ (s : State) (c : Cmd) (r : CopyRec) (t kid : Tile) (tr : Tree) (hs hd : Handle) (k ph pm pl ch cm cl obj : Nat),
    s.cmd? c.id = some c → c.kind = .copy r 0 Fold.none → c.tile.bind s.tile? = some t → s.treeOf t = some tr →
    (s.headOf c = false → exec (.copyArrival c.id) s = .next s) ∧
    (s.headOf c = true → r.fn = 0 → r.bad = false → cdKids r.desc = [k] → s.partHeld c t.id k = false → s.kidTile t c.batch k = some kid →
      r.src = some hs → r.dst = some hd → s.copySide (some hs) t false = some (.mem (.window ph pm pl) hs.layout (s.version (some t.id) hs false)) →
      s.copySide (some hd) kid true = some (.mem (.window ch cm cl) hd.layout (s.version (some kid.id) hd true)) →
      hs.layout.et = hd.layout.et → hs.layout.et ≠ 16 → s.poison = [] → (∀ x ∈ s.taint, x.1 ≠ c.id) → (∀ x ∈ s.mixed, x.1 ≠ c.id) → c.id ∉ s.corrected →
      c.bar = some obj → s.openBar obj → barLnk (s.barWord obj 0) = false →
      let at_ := fun (org : Nat → Int) (step : Nat → Int) (e : List Nat) =>
        ((List.range e.length).zip e).map fun je => org je.1 + step je.1 * (tcoord (tr.level t.depth) k je.1 : Int) + (je.2 : Int)
      let from_ := fun (e : List Nat) => (at_ (cdSorg r.desc) (cdStep r.desc) e).take hs.layout.ndim
      let to_ := fun (e : List Nat) => (at_ (cdDorg r.desc) (fun _ => 0) e).take hd.layout.ndim
      let srcs := fun (e : List Nat) => (hs.layout.element (s.version (some t.id) hs false) ((from_ e).map Int.toNat)).map fun p => ph + p.off
      let dsts := fun (e : List Nat) => (hd.layout.element (s.version (some kid.id) hd true) ((to_ e).map Int.toNat)).map fun p => ch + p.off
      let pts := boxPoints r.exts
      (∀ e ∈ pts, hs.layout.inside (from_ e) = true ∧ hd.layout.inside (to_ e) = true ∧
        (∀ q ∈ srcs e, s.seatKey (.window ph pm pl) (q - ph) = some q) ∧
        (∀ q ∈ dsts e, s.seatKey (.window ch cm cl) (q - ch) = some q ∧ s.vatHolding q = none ∧ ∀ o ∈ s.liveBars, q < o ∨ o + 32 ≤ q)) →
      (pts.flatMap dsts).Nodup → (∀ q ∈ pts.flatMap dsts, q ∉ pts.flatMap srcs ∧ (q < obj ∨ obj + 32 ≤ q)) →
      ∃ t', exec (.copyArrival c.id) s = .next t' ∧ t'.cmd? c.id = none ∧ arrivedAt s t' obj Fold.none ∧
        (∀ e ∈ pts, (dsts e).map t'.byte = (srcs e).map s.byte) ∧
        ∀ q, q ∉ pts.flatMap dsts → (q < obj ∨ obj + 32 ≤ q) → t'.byte q = s.byte q)

/-- R135 to R137, R325 to R328: vats. -/
def Obligations.VatResults : Prop :=
  ∀ (y : BitVec 1) (d a b : BitVec 6) (t : Tile) (vat : Nat),
    let ref := fun (m : State) => (m.g.sreg a.toNat).toNat
    let x := fun (m : State) => (m.g.sreg b.toNat).toNat
    let named := fun (m : State) => m.relWaits 1 = false ∧ m.refStruct (ref m / 2 ^ 30 % 4) (ref m % 2 ^ 30) false = (.inr (t, vat), m)
    let ctl := fun (m : State) => m.num vat 4
    let f8 := fun (m : State) (o : Nat) => m.num (vat + o) 1
    let f16 := fun (m : State) (o : Nat) => m.num (vat + o) 2
    let poisoned := fun (m : State) => flag (ctl m) 7 = true
    let slots := fun (m : State) => 2 ^ (ctl m % 16)
    let init := Instr.vinit y d a b
    let take := Instr.vtake d a
    let put := Instr.vput y d a b
    let data := fun (m : State) => (m.g.sreg (b.toNat + 1)).toNat
    let wrong := fun (m : State) => x m / 2 ^ 16 = 0 ∨ 16384 < x m / 2 ^ 16 ∨ x m / 2 ^ 5 % 2 ^ 11 ≠ 0 ∨ x m % 16 = 0 ∨ 8 < x m % 16 ∨
      data m % 256 ≠ 0 ∨ (data m < ref m % 2 ^ 30 + 64 ∧ ref m % 2 ^ 30 < data m + 2 ^ (x m % 16) * (x m / 2 ^ 16 * 256))
    let fits := fun (m : State) => data m + 2 ^ (x m % 16) * (x m / 2 ^ 16 * 256) ≤ t.memb
    let busy := fun (m : State) => flag (ctl m) 5 = true ∨ f16 m 0x16 ≠ 0
    (∀ i ∈ [init, take, put, Instr.vqry d a b], WaitsAfter i (fun m => m.relWaits 1 = true) id (fun _ => .held)) ∧
    Completes init (fun m => m.relWaits 1 = false ∧ wrong m) (fun m => m.repliedY y d 0x80000010) ∧
    Completes init (fun m => named m ∧ ¬ wrong m ∧ ¬ fits m) (fun m => m.repliedY y d 0x8000001D) ∧
    Completes init (fun m => named m ∧ ¬ wrong m ∧ fits m ∧ busy m) (fun m => m.repliedY y d 0x80000013) ∧
    (∀ s m : State, m = s.merged → s.issues init = true → named m → ¬ wrong m → fits m → ¬ busy m →
      let n := 2 ^ (x m % 16)
      let drain := flag (x m) 4 = true
      ∃ t', exec init s = .next t' ∧ t'.g.pc = m.g.pcAfter init ∧ t'.g.sb = (m.repliedY y d 0).g.sb ∧ m.g.keepsRegs t'.g none2 none2 none1 none1 ∧
        t'.bytes vat 64 = bytesOf 4 (x m % 32) ++ bytesOf 4 (x m / 2 ^ 16) ++ bytesOf 4 (data m) ++ bytesOf 4 0 ++
          bytesOf 2 (if drain then 0 else n) ++ bytesOf 2 (if drain then n else 0) ++ List.replicate 44 0 ∧
        keepsOutside m t' vat 64 ∧ t'.vatDev vat = ⟨vat, []⟩) ∧
    (∀ s m : State, m = s.merged → s.issues take = true → named m →
      (poisoned m → ∃ t', repliesOnly take s m t' 1 d 0x80000002) ∧
      (¬ poisoned m → f16 m 0x12 ≠ 0 →
        ∃ t', exec take s = .next t' ∧ t'.g.pc = m.g.pcAfter take ∧ t'.g.sb = (m.replied d (f8 m 0x0D)).g.sb ∧
          m.g.keepsRegs t'.g none2 none2 none1 none1 ∧ f16 t' 0x12 = f16 m 0x12 - 1 ∧ f8 t' 0x0D = (f8 m 0x0D + 1) % slots m % 256 ∧
          f16 t' 0x14 = (f16 m 0x14 + 1) % 2 ^ 16 ∧ f16 t' 0x10 = f16 m 0x10 ∧ ctl t' = ctl m ∧ keepsOutside m t' vat 64) ∧
      (¬ poisoned m → f16 m 0x12 = 0 → flag (ctl m) 6 = true → ∃ t', repliesOnly take s m t' 1 d 0x80000001) ∧
      (¬ poisoned m → f16 m 0x12 = 0 → flag (ctl m) 6 = false →
        ∃ t', exec take s = .next t' ∧ t'.g.pc = m.g.pc ∧ (t'.g.stop = none → t'.g.issuing.wait = .vtake vat d.toNat) ∧
          (t'.vatDev vat).waiters = (m.vatDev vat).waiters ++ [(m.g.id, m.g.cur, d.toNat)] ∧
          f16 t' 0x16 = (f16 m 0x16 + 1) % 2 ^ 16 ∧ keepsOutside m t' (vat + 0x16) 2 ∧ m.g.keepsRegs t'.g none2 none2 none1 none1)) ∧
    (∀ s m : State, m = s.merged → s.issues put = true → named m → ¬ poisoned m →
      let n := slots m
      let p := f8 m 0x0E
      let map := m.num (vat + 0x20) 32
      let held := x m < n ∧ (x m + n - p % n) % n < f16 m 0x14 ∧ flag map (x m) = false
      (255 < x m → ∃ t', repliesOnly put s m t' y d 0x80000010) ∧
      (x m ≤ 255 → ¬ held → ∃ t', repliesOnly put s m t' y d 0x8000001E) ∧
      (x m ≤ 255 → held → flag map p = false →
        ∃ t', exec put s = .next t' ∧ t'.g.pc = m.g.pcAfter put ∧ t'.g.sb = (m.repliedY y d 0).g.sb ∧ keepsOutside m t' vat 64 ∧
          m.g.keepsRegs t'.g none2 none2 none1 none1 ∧
          (x m ≠ p → t'.num (vat + 0x20) 32 = map + 2 ^ x m ∧ keepsOutside m t' (vat + 0x20) 32) ∧
          (x m = p → flag map ((p + 1) % n % 256) = false →
            t'.num (vat + 0x20) 32 = map ∧ f8 t' 0x0E = (p + 1) % n % 256 ∧ f16 t' 0x14 = f16 m 0x14 - 1 ∧
            f16 t' 0x10 = (f16 m 0x10 + 1) % 2 ^ 16 ∧ f16 t' 0x12 = f16 m 0x12))) ∧
    Completes put (fun m => named m ∧ poisoned m) (fun m => m.repliedY y d 0x80000002) ∧
    Completes (.vqry d a b) (fun m => named m ∧ x m ≤ 15) (fun m => m.replied d (m.num (vat + 4 * x m) 4)) ∧
    Completes (.vqry d a b) (fun m => named m ∧ 15 < x m) (fun m => m.replied d 0x80000010)

/-- R136 to R140 and R329: stream engines. -/
def Obligations.StreamResults : Prop :=
  ∀ (y : BitVec 1) (d a b : BitVec 6) (t own : Tile) (key vat obj : Nat),
    let ref := fun (m : State) => (m.g.sreg a.toNat).toNat
    let barRef := fun (m : State) => (m.g.sreg b.toNat).toNat
    let prog := fun (m : State) => m.bytes key 64
    let h := fun (m : State) => m.handle? m.g.pkg m.g.ctx (leField (prog m) 0 2)
    let ready := fun (m : State) => m.relWaits 1 = false ∧ m.refStruct (ref m / 2 ^ 30 % 4) (ref m % 2 ^ 30) (barRef m / 2 ^ 30 % 4 == 0) = (.inr (t, key), m) ∧
      m.refStruct (ref m / 2 ^ 30 % 4) (leField (prog m) 4 4 / 64 * 64) false = (.inr (t, vat), m) ∧
      m.tileOf m.g = some own ∧ own.dom = barRef m / 2 ^ 30 % 4 ∧ m.ownBarrier m.g.ctx own (barRef m % 2 ^ 30) = some obj
    let starts := fun (i : Instr) (drain : Bool) =>
      let code := fun (m : State) => m.streamCode t (some vat) (prog m) (h m) drain (some obj) (barRef m)
      let running := fun (m : State) => (m.streams.filter fun x => x.engine == streamEngine t).length
      (∀ s m : State, m = s.merged → s.issues i = true → ready m → code m = 0 → running m < 2 →
        ∃ t' x, exec i s = .next t' ∧ t'.g.pc = m.g.pcAfter i ∧ t'.g.sb = (m.repliedY y d 0).g.sb ∧ t'.streams = m.streams ++ [x] ∧
          x.drain = drain ∧ x.prog = prog m ∧ x.vat = vat ∧ x.bar = obj ∧ x.hnd = h m ∧ x.n = 0 ∧ x.crew = m.g.crew ∧
          x.engine = streamEngine t ∧ flag (t'.num vat 4) 5 = true ∧ keepsOutside m t' vat 4 ∧ m.g.keepsRegs t'.g none2 none2 none1 none1) ∧
      (∀ w, w ≠ 0 → Completes i (fun m => ready m ∧ code m = w) (fun m => m.repliedY y d w)) ∧
      (∀ w, Completes i (fun m => m.relWaits 1 = false ∧ m.refStruct (ref m / 2 ^ 30 % 4) (ref m % 2 ^ 30) (barRef m / 2 ^ 30 % 4 == 0) = (.inl w, m))
        (fun m => m.repliedY y d (if w = 0x8000001D ∧ m.tileBarrier m.g (barRef m) = none then 0x8000001C else w))) ∧
      WaitsAfter i (fun m => ready m ∧ code m = 0 ∧ 2 ≤ running m) id (fun _ => .fence) ∧
      WaitsAfter i (fun m => m.relWaits 1 = true) id (fun _ => .held)
    let named := fun (m : State) => m.relWaits 1 = false ∧ m.refStruct (ref m / 2 ^ 30 % 4) (ref m % 2 ^ 30) false = (.inr (t, vat), m)
    starts (.sfill y d a b) false ∧ starts (.sdrain y d a b) true ∧
    Completes (.sstop y d a) (fun m => named m ∧ flag (m.num vat 4) 5 = true)
      (fun m => State.repliedY { m with streams := m.streams.map fun x => if x.vat = vat then { x with stopping := true } else x } y d 0) ∧
    Completes (.sstop y d a) (fun m => named m ∧ flag (m.num vat 4) 5 = false) (fun m => m.repliedY y d 0x8000001F) ∧
    (∀ (s s1 : State) (x : Stream) (f : Fold), s.streams.find? (fun q => q.id == x.id) = some x → (s.tile? x.wtile).isSome = true →
      x.stopping = false → x.killed = false → s.num (x.vat + 0x10) 2 ≠ 0 →
      State.streamTry { s with free := s.free + 1 } x = (s1, f, none) →
      (∀ k < 64, s1.byte (x.vat + k) = s.byte (x.vat + k)) → s1.streams = s.streams → s1.vatDev x.vat = ⟨x.vat, []⟩ → x.n + 1 < spTotal x.prog →
      ∃ t', exec (.streamSlotDone x.id) s = .next t' ∧ keepsOutside s1 t' x.vat 64 ∧
        t'.num (x.vat + 0x0C) 1 = (s.num (x.vat + 0x0C) 1 + 1) % 2 ^ (s.num x.vat 4 % 16) % 256 ∧
        t'.num (x.vat + 0x10) 2 = s.num (x.vat + 0x10) 2 - 1 ∧ t'.num (x.vat + 0x12) 2 = (s.num (x.vat + 0x12) 2 + 1) % 2 ^ 16 ∧
        t'.num (x.vat + 0x14) 2 = s.num (x.vat + 0x14) 2 ∧
        ∃ x' ∈ t'.streams, x'.id = x.id ∧ x'.n = x.n + 1 ∧ x'.fold = x.fold.and f) ∧
    (∀ (s : State) (x : Stream), s.streams.find? (fun q => q.id == x.id) = some x → x.killed = true → (s.tile? x.wtile).isSome = true →
      s.openBar x.bar → barLnk (s.barWord x.bar 0) = false → (x.bar + 32 ≤ x.vat ∨ x.vat + 64 ≤ x.bar) →
      ∃ t', exec (.streamFault x.id) s = .next t' ∧ flag (t'.num x.vat 4) 7 = true ∧ flag (t'.num x.vat 4) 5 = false ∧ t'.num (x.vat + 1) 1 = (if Config.killedBy330 then 3 else 4) ∧
        t'.num (x.vat + 0x16) 2 = 0 ∧ (t'.vatDev x.vat).waiters = [] ∧ (∀ q ∈ t'.streams, q.id ≠ x.id))

/-- R338 to R340, R348 to R350: the commands of the matrix queue at issue. -/
def Obligations.MatrixCommandResults : Prop :=
  ∀ (y : BitVec 1) (d a b : BitVec 6),
    let off := fun (m : State) => (m.g.sreg a.toNat).toNat
    let kb := fun (m : State) => (m.g.sreg b.toNat).toNat
    let eng := fun (m : State) => engineId 5 m.g.pkg m.g.core
    let accepted := fun (i : Instr) (conv : Bool) (al n barAt : Nat) (kind : State → Tile → List Byte → CmdKind) =>
      let whole := fun (m : State) => conv = true → m.g.convergent = true
      let named := fun (m : State) (t : Tile) (bs : List Byte) (obj : Nat) =>
        m.coreStruct (off m) al n = (.inr (t, bs), m) ∧ m.ownBarrier m.g.ctx t (leField bs barAt 4) = some obj
      (∀ (s m : State) (t : Tile) (bs : List Byte) (obj : Nat), m = s.merged → s.issues i = true → whole m → named m t bs obj →
        (m.engineCmds (eng m)).length < 16 →
        ∃ t' c, exec i s = .next t' ∧ t'.g.pc = m.g.pcAfter i ∧ t'.mem = m.mem ∧ t'.exts = m.exts ∧ t'.cmds = m.cmds ++ [c] ∧
          c.kind = kind m t bs ∧ c.engine = eng m ∧ c.pkg = m.g.pkg ∧ c.core = m.g.core ∧ c.gid = m.g.id ∧ c.crew = m.g.crew ∧
          c.bar = some obj ∧ c.reply = (if y = 1 then some m.g.nextSb else none) ∧
          t'.g.sb = (if y = 1 then m.g.sb ++ [⟨m.g.nextSb, [(.s d.toNat, none)], false⟩] else m.g.sb) ∧
          t'.g.unretired = m.g.unretired ++ [⟨c.id, false, false, [], c.src, c.dst⟩] ∧ m.g.keepsRegs t'.g none2 none2 none1 none1) ∧
      WaitsAfter i (fun m => whole m ∧ (∃ t bs obj, named m t bs obj) ∧ 16 ≤ (m.engineCmds (eng m)).length) id (fun _ => .fence) ∧
      Completes i (fun m => whole m ∧ off m % al ≠ 0) (fun m => m.repliedY y d 0x80000010) ∧
      (∀ w, Completes i (fun m => whole m ∧ m.coreStruct (off m) al n = (.inl w, m)) (fun m => m.repliedY y d w)) ∧
      Completes i (fun m => whole m ∧ ∃ t bs, m.coreStruct (off m) al n = (.inr (t, bs), m) ∧ m.ownBarrier m.g.ctx t (leField bs barAt 4) = none)
        (fun m => m.repliedY y d 0x8000001C) ∧
      Traps i (fun m l => conv = true ∧ m.g.convergent = false ∧ l = m.g.lowLane) 0x08
    let mma := fun (complex : Bool) (m : State) (t : Tile) (bs : List Byte) =>
      let k := MatBlock.ofBytes bs
      let code := m.matCode m.g t k complex ((k.korg + kb m) % 2 ^ 32)
      if code = 0 then CmdKind.mma complex bs (kb m) (m.g.satM && !complex) 0 (m.handle? m.g.pkg m.g.ctx k.ah) (m.handle? m.g.pkg m.g.ctx k.bh)
        (if k.out = 0 then none else m.handle? m.g.pkg m.g.ctx k.oh) (m.g.indices k.ireg)
      else .mma complex bs (kb m) false code none none none []
    let delta := fun (query : Bool) (m : State) (t : Tile) (bs : List Byte) =>
      let k := DeltaBlock.ofBytes bs
      let code := m.deltaCode m.g t k query
      CmdKind.delta query bs code (if code = 0 ∧ query = false ∧ k.ckpt = true then
        (m.extent? m.g k.reg).bind fun e => m.regionSpan m.g.pkg m.g.ctx k.ckh 2 (256 * k.cko) (e.rows * e.cols * 4) else none)
    let move := fun (fn : Nat) (m : State) (t : Tile) (bs : List Byte) => CmdKind.celmove fn bs (m.moveCode m.g t bs (fn == 5))
    accepted (.mma y d a b) true 64 64 0x38 (mma false) ∧ accepted (.mmac y d a b) true 64 64 0x38 (mma true) ∧
    accepted (.delta y d a) true 64 64 0x24 (delta false) ∧ accepted (.dqry y d a) true 64 64 0x24 (delta true) ∧
    accepted (.celld y d a) false 16 16 0x0C (move 3) ∧ accepted (.celst y d a) false 16 16 0x0C (move 4) ∧
    accepted (.celz y d a) false 16 16 0x0C (move 5)

/-- R103, R163, R167, R175, R341, R349: the work of matrix and cellar commands. -/
def Obligations.MatrixWorkResults : Prop :=
  ∀ (s : State) (c : Cmd) (t : Tile) (e : Extent) (obj : Nat),
    s.cmd? c.id = some c → s.celWaits c = false → c.bar = some obj → s.openBar obj → barLnk (s.barWord obj 0) = false → c.id ∉ s.corrected →
    let apart := fun (p n q k : Nat) => p + n ≤ q ∨ q + k ≤ p
    let done := fun (t' : State) (f : Fold) => exec (.matrixArrival c.id) s = .next t' ∧ t'.cmd? c.id = none ∧ arrivedAt s t' obj f
    let ext := fun (head : Nat) => s.exts.find? (fun x => x.pkg == c.pkg && x.core == c.core && x.head == head) = some e
    let clean := s.ancestor 1 9 c.tile = some t ∧ s.poison = [] ∧ (∀ x ∈ s.taint, x.1 ≠ c.id) ∧ ∀ x ∈ s.mixed, x.1 ≠ c.id
    let plain := fun (lo n : Nat) => (∀ o ∈ s.liveBars, lo + n ≤ o ∨ o + 32 ≤ lo) ∧ ∀ v ∈ s.vats, lo + n ≤ v.vat ∨ v.vat + 64 ≤ lo
    let still := fun (idx : List (Nat × Word)) => ∀ g, s.group? c.gid = some g → ∀ i pos x, idx[i]? = some (pos, x) →
      s.stackWord g i pos = x ∧ ∀ q ∈ (g.lane i).spans, q.cmd = c.id → pos ∉ q.touched ∧ ∀ o ∈ q.olds, o.1 = pos → o.2 = x
    let open_ := fun (o n : Nat) => ∀ j < n, o + j < t.memb ∧ s.guardKey (t.home + o + j) = false
    (∀ (bs : List Byte) (kb : Nat) (sat : Bool) (ah bh : Handle) (idx : List (Nat × Word)) (sa sb : Seat),
      let b := MatBlock.ofBytes bs
      let k0 := (b.korg + kb) % 2 ^ 32
      c.kind = .mma false bs kb sat 0 (some ah) (some bh) none idx → clean → ext b.creg → b.cls < 4 → e.lay ≠ 1 → b.perm = 0 →
      ((Scale.parse b.asd b.k).map Scale.sf).getD 0 = 0 → ((Scale.parse b.bsd b.k).map Scale.sf).getD 0 = 0 →
      s.seat ah c.tile = some sa → s.seat bh c.tile = some sb → still idx →
      b.ccol + b.n ≤ e.cols → apart obj 32 (e.word 0) ((b.crow + idx.length) * e.cols * 4) →
      let at_ := fun (r k : Nat) => b.dec b.afc (s.engineRead c.id sa ah.layout (s.version c.tile ah false) [((k0 + k : Nat) : Int), ((r : Nat) : Int)]).code
      let bt := fun (k j : Nat) => b.dec b.bfc (s.engineRead c.id sb bh.layout (s.version c.tile bh false) [((b.norg + j : Nat) : Int), ((k0 + k : Nat) : Int)]).code
      let key := fun (i j : Nat) => e.word ((b.crow + i) * e.cols + b.ccol + j)
      ∃ t' f, done t' f ∧
        (∀ i pos r, idx[i]? = some (pos, r) → ∀ j < b.n, t'.num (key i j) 4 =
          (chunkSum sat b.chunk (BitVec.ofNat 32 (s.num (key i j) 4)) ((List.range b.k).map fun k => (at_ r.toNat k).mul (bt k j))).1.toNat) ∧
        ∀ q, (∀ i < idx.length, ∀ j < b.n, q < key i j ∨ key i j + 4 ≤ q) → (q < obj ∨ obj + 32 ≤ q) → t'.byte q = s.byte q) ∧
    (∀ (bs : List Byte) (fn : Nat),
      let off := leField bs 8 4
      let n := leField bs 4 2 * e.rowWords
      let lo := e.word (leField bs 2 2 * e.rowWords)
      let mem := t.home + off
      c.kind = .celmove fn bs 0 → 3 ≤ fn → fn ≤ 5 → clean → ext (leField bs 0 1) → (fn ≠ 5 → open_ off (4 * n)) → (fn = 4 → plain mem (4 * n)) →
      apart lo (4 * n) mem (4 * n) → apart obj 32 lo (4 * n) → apart obj 32 mem (4 * n) →
      ∃ t' f, done t' f ∧
        (∀ j < n, (fn = 3 → t'.num (lo + 4 * j) 4 = s.num (mem + 4 * j) 4) ∧ (fn = 4 → t'.num (mem + 4 * j) 4 = s.num (lo + 4 * j) 4) ∧
          (fn = 5 → t'.num (lo + 4 * j) 4 = 0)) ∧
        ∀ q, (q < obj ∨ obj + 32 ≤ q) → (fn ≠ 4 → q < lo ∨ lo + 4 * n ≤ q) → (fn = 4 → q < mem ∨ mem + 4 * n ≤ q) → t'.byte q = s.byte q) ∧
    (∀ (bs : List Byte) (query : Bool),
      let b := DeltaBlock.ofBytes bs
      let dv := e.rows
      let dk := e.cols
      let out := t.home + b.ooff
      let dec := fun (x : Nat) => if b.wide then f32.decode x else bf16.decode x
      let vec := fun (o n tok : Nat) => (List.range n).map fun j => dec (s.num (t.home + o + (tok * n + j) * b.z) b.z)
      let one := fun (o tok : Nat) => f32.decode (s.num (t.home + o + 4 * tok) 4)
      let row := fun (n i : Nat) => (List.range n).foldl (fun r tok => if query then r else
          (deltaRow r (vec b.koff dk tok) ((vec b.voff dv tok).getD i .nan) (one b.aoff tok) (one b.boff tok)).1)
        ((List.range dk).map fun j => BitVec.ofNat 32 (s.num (e.word (i * dk + j)) 4))
      c.kind = .delta query bs 0 none → clean → ext b.reg → open_ b.ooff (b.t * dv * 4) → plain out (b.t * dv * 4) →
      (∀ r ∈ b.reads query dv dk, open_ r.1 r.2 ∧ apart r.1 r.2 b.ooff (b.t * dv * 4)) →
      apart out (b.t * dv * 4) (e.word 0) (4 * dv * dk) → apart obj 32 out (b.t * dv * 4) → apart obj 32 (e.word 0) (4 * dv * dk) →
      ∃ t' f, done t' f ∧
        (∀ tok < b.t, ∀ i < dv, t'.num (out + 4 * (tok * dv + i)) 4 = (rowSum (row (tok + 1) i) (vec b.qoff dk tok)).1.toNat) ∧
        (∀ i < dv, ∀ j < dk, t'.num (e.word (i * dk + j)) 4 = ((row b.t i).getD j 0).toNat) ∧
        ∀ q, (q < obj ∨ obj + 32 ≤ q) → (q < out ∨ out + b.t * dv * 4 ≤ q) →
          (query = false → q < e.word 0 ∨ e.word 0 + 4 * dv * dk ≤ q) → t'.byte q = s.byte q) ∧
    (∀ x, x ≠ 0 → ((∃ cx bs kb sat ah bh oh idx, c.kind = .mma cx bs kb sat x ah bh oh idx) ∨ (∃ query bs ck, c.kind = .delta query bs x ck) ∨
        ∃ fn bs, c.kind = .celmove fn bs x) →
      ∃ t', done t' (Fold.failure x) ∧ keepsBytes s t' [obj])

/-- R168 to R173, R345 to R347, R420: the cellar. -/
def Obligations.CellarResults : Prop :=
  (∀ (d a : BitVec 6) (t : Tile) (b : List Byte) (dir : Nat),
    let i := Instr.celget d a
    let off := fun (m : State) => (m.g.sreg a.toNat).toNat
    let q := CelReq.ofBytes b
    let ready := fun (m : State) => m.relWaits 1 = false ∧ off m % 16 = 0 ∧ m.coreStruct (off m) 16 16 = (.inr (t, b), m) ∧ m.celReqBad m.g b = false ∧
      dir = m.celDir m.g.pkg m.g.ctx q.key
    let n := max 1 (ceilDiv (q.rows * q.cols * layWords q.lay) 1024)
    let freeAt := fun (m : State) (n h : Nat) => h + n ≤ 64 ∧ ∀ j < n, m.regionFree m.g.pkg m.g.core (h + j) = true
    let mine := fun (m : State) => m.exts.find? fun e => e.pkg == m.g.pkg && e.core == m.g.core && e.ctx == m.g.ctx && e.key == q.key
    let same := fun (e : Extent) => e.lay = q.lay ∧ e.rows = q.rows ∧ e.cols = q.cols
    WaitsAfter i (fun m => m.relWaits 1 = true) id (fun _ => .held) ∧
    Completes i (fun m => m.relWaits 1 = false ∧ off m % 16 ≠ 0) (fun m => m.replied d 0x80000001) ∧
    (∀ w, Completes i (fun m => m.relWaits 1 = false ∧ off m % 16 = 0 ∧ m.coreStruct (off m) 16 16 = (.inl w, m)) (fun m => m.replied d w)) ∧
    Completes i (fun m => m.relWaits 1 = false ∧ off m % 16 = 0 ∧ m.coreStruct (off m) 16 16 = (.inr (t, b), m) ∧ m.celReqBad m.g b = true)
      (fun m => m.replied d 0x80000001) ∧
    Completes i (fun m => ready m ∧ m.num dir 1 = 0 ∧ ∀ h, ¬ freeAt m n h) (fun m => (m.celPress m.g.pkg m.g.core q.key).replied d 0x80000003) ∧
    (∀ (s m : State) (h : Nat), m = s.merged → s.issues i = true → ready m → m.num dir 1 = 0 → freeAt m n h → (∀ k < h, ¬ freeAt m n k) →
      let lo := keyCel m.g.pkg m.g.core (h * 4096)
      (dir + 12 ≤ lo ∨ lo + 4096 * n ≤ dir) →
      ∃ t' e, exec i s = .next t' ∧ t'.g.pc = m.g.pcAfter i ∧ t'.g.sb = (m.replied d (2 ^ 9 + h)).g.sb ∧ m.g.keepsRegs t'.g none2 none2 none1 none1 ∧
        t'.exts = m.exts ++ [e] ∧ e.pkg = m.g.pkg ∧ e.core = m.g.core ∧ e.ctx = m.g.ctx ∧ e.key = q.key ∧ e.head = h ∧ e.n = n ∧ same e ∧ e.pin = q.pin ∧
        e.shnd = q.shnd ∧ e.soff = q.soff ∧ e.valid = 0 ∧ (∀ j < 4096 * n, t'.byte (lo + j) = 0) ∧
        t'.num dir 1 = 1 ∧ t'.num (dir + 2) 2 = m.g.core % 2 ^ 16 ∧ t'.num (dir + 4) 2 = q.shnd ∧ t'.num (dir + 8) 4 = q.soff ∧
        ∀ k, (k < lo ∨ lo + 4096 * n ≤ k) → (k < dir ∨ dir + 12 ≤ k) → t'.byte k = m.byte k) ∧
    Completes i (fun m => ready m ∧ m.num dir 1 = 1 ∧ m.num (dir + 2) 2 ≠ m.g.core) (fun m => m.replied d 0x80000002) ∧
    (∀ e, Completes i (fun m => ready m ∧ m.num dir 1 = 1 ∧ m.num (dir + 2) 2 = m.g.core ∧ mine m = some e ∧ same e)
      (fun m => (m.modExtent e.pkg e.core e.head fun x =>
        { x with pin := x.pin || q.pin, users := if x.users.contains m.g.crew then x.users else x.users ++ [m.g.crew] }).replied d e.head)) ∧
    (∀ e, Completes i (fun m => ready m ∧ m.num dir 1 = 1 ∧ m.num (dir + 2) 2 = m.g.core ∧ mine m = some e ∧ ¬ same e)
      (fun m => m.replied d 0x80000005)) ∧
    Completes i (fun m => ready m ∧ m.num dir 1 = 2 ∧ m.spillHeader m.g q.key dir = none) (fun m => m.replied d 0x80000004) ∧
    (∀ (s m : State) (h k : Nat) (hd : List Byte) (r : Region), m = s.merged → s.issues i = true → ready m → m.num dir 1 = 2 →
      m.spillHeader m.g q.key dir = some (hd, r, k) → freeAt m k h → (∀ x < h, ¬ freeAt m k x) →
      let lo := keyCel m.g.pkg m.g.core (h * 4096)
      let words := min (leField hd 0x0C 4) (leField hd 8 2) * (leField hd 0x0A 2 * layWords (leField hd 6 1)) * 4
      (dir + 12 ≤ lo ∨ lo + 4096 * k ≤ dir) → words ≤ 4096 * k →
      ∃ t' e, exec i s = .next t' ∧ t'.g.pc = m.g.pcAfter i ∧ t'.g.sb = (m.replied d (2 ^ 8 + h)).g.sb ∧ m.g.keepsRegs t'.g none2 none2 none1 none1 ∧
        t'.exts = m.exts ++ [e] ∧ e.key = q.key ∧ e.head = h ∧ e.n = k ∧ e.lay = leField hd 6 1 ∧ e.rows = leField hd 8 2 ∧ e.cols = leField hd 0x0A 2 ∧
        e.valid = leField hd 0x0C 4 ∧ e.pin = true ∧ t'.num dir 1 = 1 ∧
        (∀ j < words, t'.byte (lo + j) = m.byte (m.regionKey m.g.pkg r (4096 * m.num (dir + 8) 4 + 64 + j))) ∧
        (∀ j, words ≤ j → j < 4096 * k → t'.byte (lo + j) = 0) ∧
        ∀ x, (x < lo ∨ lo + 4096 * k ≤ x) → (x < dir ∨ dir + 12 ≤ x) → t'.byte x = m.byte x) ∧
    WaitsAfter i (fun m => ready m ∧ 2 < m.num dir 1) id (fun _ => .celget)) ∧
  (∀ (y : BitVec 1) (d a b : BitVec 6) (e : Extent),
    let x := fun (m : State) => (m.g.sreg a.toNat).toNat
    let p := fun (m : State) => (m.g.sreg b.toNat).toNat
    let pin := Instr.celpin y d a b
    let any_ := fun (m : State) => m.exts.find? fun e => e.pkg == m.g.pkg && e.core == m.g.core && e.head == x m && !m.celFreeing e.pkg e.core (x m)
    let free := fun (i : Instr) (evict : Bool) (found : State → Option Extent) =>
      WaitsAfter i (fun m => m.relWaits 1 = true) id (fun _ => .held) ∧
      Completes i (fun m => m.relWaits 1 = false ∧ 64 ≤ x m) (fun m => m.repliedY y d 0x80000010) ∧
      Completes i (fun m => m.relWaits 1 = false ∧ x m < 64 ∧ found m = none) (fun m => m.repliedY y d 0x80000024) ∧
      (∀ s m : State, m = s.merged → s.issues i = true → m.relWaits 1 = false → x m < 64 → found m = some e →
        (evict = true → (m.spillSlot e).isSome = true) →
        let k := m.celDir e.pkg e.ctx e.key
        ∃ t' c, exec i s = .next t' ∧ t'.g.pc = m.g.pcAfter i ∧ t'.cmds = m.cmds ++ [c] ∧ c.kind = .celfree e.head evict ∧ c.core = e.core ∧
          c.reply = (if y = 1 then some m.g.nextSb else none) ∧
          t'.g.sb = (if y = 1 then m.g.sb ++ [⟨m.g.nextSb, [(.s d.toNat, none)], false⟩] else m.g.sb) ∧ m.g.keepsRegs t'.g none2 none2 none1 none1 ∧
          t'.exts = m.exts ∧ keepsOutside m t' k 1 ∧ t'.num k 1 = if m.num k 1 = 1 ∧ m.num (k + 2) 2 = e.core then 3 else m.num k 1)
    WaitsAfter pin (fun m => m.relWaits 1 = true) id (fun _ => .held) ∧
    Completes pin (fun m => m.relWaits 1 = false ∧ (64 ≤ x m ∨ 2 ≤ p m)) (fun m => m.repliedY y d 0x80000010) ∧
    Completes pin (fun m => m.relWaits 1 = false ∧ x m < 64 ∧ p m < 2 ∧ m.extent? m.g (x m) = none) (fun m => m.repliedY y d 0x80000024) ∧
    Completes pin (fun m => m.relWaits 1 = false ∧ x m < 64 ∧ p m < 2 ∧ m.extent? m.g (x m) = some e)
      (fun m => (m.modExtent e.pkg e.core e.head fun e => { e with pin := p m == 1, crew := if p m = 1 then e.crew else m.g.crew }).repliedY y d 0) ∧
    free (.celfree y d a) false (fun m => m.extent? m.g (x m)) ∧ free (.celfreeEvict y d a) true any_ ∧
    Completes (.celfreeEvict y d a) (fun m => m.relWaits 1 = false ∧ x m < 64 ∧ any_ m = some e ∧ m.spillSlot e = none)
      (fun m => m.repliedY y d 0x80000024)) ∧
  (∀ (s : State) (c : Cmd) (e : Extent) (k : Nat),
    s.cmd? c.id = some c → s.celWaits c = false → s.exts.find? (fun x => x.pkg == c.pkg && x.core == c.core && x.head == e.head) = some e →
    k = s.celDir e.pkg e.ctx e.key → s.num k 1 = 3 → s.num (k + 2) 2 = e.core →
    let gone := fun (t' : State) => exec (.matrixArrival c.id) s = .next t' ∧ t'.cmd? c.id = none ∧
      ∀ x ∈ t'.exts, ¬ (x.pkg = e.pkg ∧ x.core = e.core ∧ x.head = e.head)
    (c.kind = .celfree e.head false → ∃ t', gone t' ∧ t'.num k 1 = 0 ∧ keepsOutside s t' k 1) ∧
    (∀ r, c.kind = .celfree e.head true → s.spillSlot e = some r →
      let slot := fun (j : Nat) => s.regionKey e.pkg r (4096 * e.soff + j)
      let n := 64 + e.valid * e.rowWords * 4
      (∀ j < n, ∀ x < n, slot j = slot x → j = x) → (∀ j < n, slot j < k ∨ k + 12 ≤ slot j) →
      ∃ t', gone t' ∧ t'.num k 1 = 2 ∧ t'.num (k + 4) 2 = e.shnd % 2 ^ 16 ∧ t'.num (k + 6) 2 = (e.gen + 1) % 2 ^ 16 ∧ t'.num (k + 8) 4 = e.soff % 2 ^ 32 ∧
        (∀ j < 64, t'.byte (slot j) = (e.header ((e.gen + 1) % 2 ^ 16) s.time).getD j 0) ∧
        (∀ j < n - 64, t'.byte (slot (64 + j)) = s.byte (e.word 0 + j)) ∧
        ∀ q, (q < k ∨ k + 12 ≤ q) → (∀ j < n, q ≠ slot j) → t'.byte q = s.byte q))

/-- R194, R195, R351, R355, R356: address groups and the waits of the fabric. -/
def Obligations.FabricGroupResults : Prop :=
  (∀ (d a : BitVec 6) (h b : List Byte),
    let i := Instr.agset d a
    let va := fun (m : State) => m.g.s2 a.toNat
    let n := leField h 0 2
    let tmo := leField h 2 2
    let ms := (List.range n).map fun r => leField b (2 * r) 2
    let head := fun (m m1 : State) => m.relWaits 5 = false ∧ va m % 8 = 0 ∧ m.readFor m.g (va m) 8 = (some h, m1)
    let legal := 2 ≤ n ∧ n ≤ 4096 ∧ tmo ≤ 1000 ∧ leField h 4 4 = 0
    let list := fun (m m1 m2 : State) => head m m1 ∧ legal ∧ m1.readFor m.g (va m + 8) (2 * n) = (some b, m2)
    let good := fun (m : State) => (∀ x ∈ ms, x < 4096) ∧ ms.Nodup ∧ m.g.pkg ∈ ms
    let waiting := fun (m : State) => m.ags.filter fun q => q.ctx == m.g.ctx && q.freedAt.isNone && q.members.contains m.g.pkg && !q.joined.contains m.g.pkg
    let same := fun (m : State) => (waiting m).find? fun q => q.members == ms && q.tmo == tmo
    let ids := fun (m : State) => m.agFree m.g.ctx (m.ctxField m.g.pkg m.g.ctx 0x30 2) (m.ctxField m.g.pkg m.g.ctx 0x32 2)
    let room := fun (m : State) => (same m).isSome = true ∨ ids m ≠ []
    let lost := fun (m : State) => (∃ x ∈ ms, (m.pkg x).member = true ∧ m.reaches m.g.pkg x = false) ∨
      (m.extended = true ∧ ∀ p < Config.planes, ∃ x ∈ ms, p ∈ (m.pkg x).failedPlanes)
    let denied := fun (m : State) => ((same m).isNone = true ∧ waiting m ≠ []) ∨ ∃ x ∈ ms, (m.pkg x).member = false ∨ m.ctxLive x m.g.ctx = false
    WaitsAfter i (fun m => m.relWaits 5 = true) id (fun _ => .held) ∧
    (∀ s m m1 m2 : State, m = s.merged → s.issues i = true →
      let answers := fun (w : Nat) => ∃ t', repliesOnly i s m t' 1 d w
      (m.relWaits 5 = false → va m % 8 ≠ 0 → answers 0x80000001) ∧
      (m.relWaits 5 = false → va m % 8 = 0 → m.readFor m.g (va m) 8 = (none, m1) → answers 0x80000001) ∧
      (head m m1 → ¬ legal → answers 0x80000001) ∧
      (head m m1 → legal → m1.readFor m.g (va m + 8) (2 * n) = (none, m2) → answers 0x80000001) ∧
      (list m m1 m2 → ¬ good m → answers 0x80000001) ∧
      (list m m1 m2 → good m → ¬ room m → answers 0x80000002) ∧
      (list m m1 m2 → good m → room m → lost m → answers 0x80000003) ∧
      (list m m1 m2 → good m → room m → ¬ lost m → denied m → answers 0x80000004) ∧
      (∀ q, list m m1 m2 → good m → ¬ lost m → ¬ denied m → same m = some q →
        ∃ t', repliesOnly i s m t' 1 d (q.gen * 2 ^ 12 + q.id) ∧ ∃ q' ∈ t'.ags, q'.id = q.id ∧ q'.gen = q.gen ∧ q'.joined = q.joined ++ [m.g.pkg]) ∧
      (list m m1 m2 → good m → ¬ lost m → ¬ denied m → same m = none → ids m ≠ [] →
        ∃ t' x, x ∈ ids m ∧ repliesOnly i s m t' 1 d (x.2 * 2 ^ 12 + x.1) ∧
          ∃ q' ∈ t'.ags, q'.id = x.1 ∧ q'.gen = x.2 ∧ q'.ctx = m.g.ctx ∧ q'.members = ms ∧ q'.tmo = tmo ∧ q'.joined = [m.g.pkg] ∧ q'.freedAt = none))) ∧
  (∀ (y : BitVec 1) (d a : BitVec 6) (q : AddrGroup),
    let i := Instr.agfree y d a
    let x := fun (m : State) => (m.g.sreg a.toNat).toNat
    let found := fun (m : State) => m.relWaits 5 = false ∧ m.addrGroup? m.g.ctx (x m % 2 ^ 16) = some q
    let mine := fun (m : State) (c : Cmd) => c.pkg = m.g.pkg ∧ c.ctx = m.g.ctx ∧ c.agHandle = some (x m % 2 ^ 16)
    WaitsAfter i (fun m => m.relWaits 5 = true) id (fun _ => .held) ∧
    Completes i (fun m => m.relWaits 5 = false ∧ m.addrGroup? m.g.ctx (x m % 2 ^ 16) = none) (fun m => m.repliedY y d 0x80000005) ∧
    Completes i (fun m => found m ∧ q.members.head? ≠ some m.g.pkg) (fun m => m.repliedY y d 0x80000004) ∧
    Completes i (fun m => found m ∧ q.members.head? = some m.g.pkg ∧ 2 ^ 16 ≤ x m) (fun m => m.repliedY y d 0x80000010) ∧
    WaitsAfter i (fun m => found m ∧ q.members.head? = some m.g.pkg ∧ x m < 2 ^ 16 ∧ ∃ c ∈ m.cmds, mine m c) id (fun _ => .held) ∧
    (∀ s m : State, m = s.merged → s.issues i = true → found m → q.members.head? = some m.g.pkg → x m < 2 ^ 16 → (∀ c ∈ m.cmds, ¬ mine m c) →
      ∃ t', exec i s = .next t' ∧ t'.g.pc = m.g.pcAfter i ∧ t'.g.sb = (m.repliedY y d 0).g.sb ∧ t'.mem = m.mem ∧ m.g.keepsRegs t'.g none2 none2 none1 none1 ∧
        t'.addrGroup? m.g.ctx (x m) = none ∧ ∀ t ∈ t'.tuples, ¬ (t.ctx = m.g.ctx ∧ t.grp = q.id))) ∧
  (∀ (d a : BitVec 6) (c code : Nat),
    let of := fun (m : State) => m.g.colls.find? fun q => q.1 == m.g.s2 a.toNat
    Completes .flush (fun m => m.flushWaits = false) id ∧ WaitsAfter .flush (fun m => m.flushWaits = true) id (fun _ => .fence) ∧
    Completes (.collw d a) (fun m => of m = none) (fun m => m.replied d 0x80000026) ∧
    (∀ va, WaitsAfter (.collw d a) (fun m => of m = some (va, c, none)) id (fun _ => .collw)) ∧
    (∀ va, Completes (.collw d a) (fun m => of m = some (va, c, some code)) (fun m => (m.acquire m.g 5).replied d code)))

/-- R352 to R354: acceptance of fabric commands. -/
def Obligations.FabricCommandResults : Prop :=
  ∀ (y : BitVec 1) (d a : BitVec 6),
    let va := fun (m : State) => m.g.s2 a.toNat
    let accepted := fun (i : Instr) (s m t' : State) (obj : Nat) (kind : CmdKind) =>
      ∃ c, exec i s = .next t' ∧ t'.g.pc = m.g.pcAfter i ∧ t'.mem = m.mem ∧ t'.cmds = m.cmds ++ [c] ∧ c.kind = kind ∧ c.pkg = m.g.pkg ∧
        c.ctx = m.g.ctx ∧ c.gid = m.g.id ∧ c.bar = some obj ∧ c.sent = false ∧ c.reply = (if y = 1 then some m.g.nextSb else none) ∧
        t'.g.sb = (if y = 1 then m.g.sb ++ [⟨m.g.nextSb, [(.s d.toNat, none)], false⟩] else m.g.sb) ∧ m.g.keepsRegs t'.g none2 none2 none1 none1
    let outOf := fun (m : State) (q : Option AddrGroup) => match q with
      | none => some 8
      | some q => if q.members.contains m.g.pkg then none else some 7
    let ops := fun (i : Instr) (reduce : Bool) =>
      (∀ s m m1 m2 : State, m = s.merged → s.issues i = true → m.relWaits 5 = false →
        let answers := fun (w : Nat) => ∃ t', repliesOnly i s m t' y d w
        (m.extended = false → answers 0x80000025) ∧
        (m.extended = true →
          (va m % 32 ≠ 0 → answers 0x80000010) ∧
          (va m % 32 = 0 → m.fetchStruct m.g (va m) 32 = (none, m1) → answers 0x80000010) ∧
          ∀ b : List Byte, va m % 32 = 0 → m.fetchStruct m.g (va m) 32 = (some b, m1) →
            let op := leField b 2 1
            let et := leField b 3 1
            let cnt := leField b 4 2
            let bad := leField b 6 1 / 8 ≠ 0 ∨ leField b 7 1 ≠ 0 ∨ leField b 0x1C 4 ≠ 0 ∨ leField b 8 8 / 2 ^ 40 ≠ 0 ∨ leField b 8 8 % 4 ≠ 0 ∨
              leField b 0x10 8 % 4 ≠ 0 ∨
              if reduce then cnt = 0 ∨ 64 < cnt ∨ mldrAdmits op et = false
              else op ≠ 0 ∨ et ≠ 0 ∨ cnt < 4 ∨ 256 < cnt ∨ cnt % 4 ≠ 0
            let n := if reduce then cnt * etBytes (mldrResult op et) else cnt
            let need := if reduce then 2 else 1
            let q := m.addrGroup? m.g.ctx (leField b 0 2)
            (bad → answers 0x80000010) ∧
            (¬ bad → m1.localKeys m.g (leField b 0x10 8) n need = (none, m2) → answers 0x8000001D) ∧
            ∀ keys, ¬ bad → m1.localKeys m.g (leField b 0x10 8) n need = (some keys, m2) →
              (m2.levelBarrier m.g (leField b 6 1) (leField b 0x18 4) = none → answers (if m.g.priv then 0x8000001D else 0x8000001C)) ∧
              ∀ obj, m2.levelBarrier m.g (leField b 6 1) (leField b 0x18 4) = some obj →
                if reduce then
                  let seq := ((q.filter fun q => q.members.contains m.g.pkg).map fun q => seqOf q.seqs m.g.pkg).getD 0
                  ∃ t', accepted i s m t' obj (.mldr b keys seq (outOf m q) 0 []) ∧
                    ∀ x, q = some x → x.members.contains m.g.pkg = true →
                      ((t'.addrGroup? m.g.ctx (leField b 0 2)).map fun z => seqOf z.seqs m.g.pkg) = some ((seq + 1) % 2 ^ 16)
                else ∃ t', accepted i s m t' obj (.mst b keys (if outOf m q = none then (q.map AddrGroup.members).getD [] else []) ((outOf m q).getD 0) 0))) ∧
      WaitsAfter i (fun m => m.relWaits 5 = true) id (fun _ => .held)
    let coll := Instr.coll y d a
    let here := fun (m : State) => (∃ off, m.place m.g (va m) = some (.home m.g.pkg off)) ∧ va m % 128 = 0
    ops (.mst y d a) false ∧ ops (.mldr y d a) true ∧
    WaitsAfter coll (fun m => m.relWaits 5 = true) id (fun _ => .held) ∧
    (∀ s m m1 : State, m = s.merged → s.issues coll = true → m.relWaits 5 = false →
      let answers := fun (w : Nat) => ∃ t', repliesOnly coll s m t' y d w
      (¬ here m → answers 0x80000010) ∧
      (here m → m.readFor m.g (va m) 128 = (none, m1) → answers 0x80000010) ∧
      ∀ bs : List Byte, here m → m.readFor m.g (va m) 128 = (some bs, m1) →
        let b := CollBlock.ofBytes bs
        let q := m.addrGroup? m.g.ctx (leField bs 4 2)
        let p := (q.map fun q => q.members.length).getD (max 2 (b.root + 1))
        let r := (q.map fun q => q.rank m.g.pkg).getD 0
        let z := b.z
        let src := if b.op = 4 ∧ r ≠ b.root then some (⟨0, 0, 0, 0⟩ : Region) else m1.regionSpan m.g.pkg m.g.ctx b.srch 1 b.soff (b.srcLen p * z)
        let dst := m1.regionSpan m.g.pkg m.g.ctx b.dsth 2 b.doff (b.dstLen p * z)
        let bar := m1.levelBarrier m.g b.blv b.bar
        let bad := b.bad m.extended p
        (bad = true → answers 0x80000010) ∧
        (bad = false → bar = none → answers (if m.g.priv then 0x8000001D else 0x8000001C)) ∧
        (bad = false → bar.isSome = true → (src = none ∨ dst = none) → answers 0x8000001D) ∧
        ∀ obj rs rd, bad = false → bar = some obj → src = some rs → dst = some rd →
          ((b.alg = 3 ∧ m.extended = false) → answers 0x80000025) ∧
          (¬ (b.alg = 3 ∧ m.extended = false) →
            let seq := ((q.filter fun q => q.members.contains m.g.pkg).map fun q => seqOf q.colls m.g.pkg).getD 0
            ∃ t', accepted coll s m t' obj (.coll bs (b.resolve m.extended p) seq rs rd (outOf m q) 0) ∧
              (∃ id, t'.g.colls = keepColls ((va m, id, none) :: m.g.colls)) ∧
              ∀ x, q = some x → x.members.contains m.g.pkg = true →
                ((t'.addrGroup? m.g.ctx (leField bs 4 2)).map fun z => seqOf z.colls m.g.pkg) = some ((seq + 1) % 2 ^ 16)))

/-- R193 to R212: what the fabric's events do. -/
def Obligations.FabricEventResults : Prop :=
  (∀ (s : State) (c : Cmd), s.cmd? c.id = some c → s.poison = [] → (∀ x ∈ s.taint, x.1 ≠ c.id) → (∀ x ∈ s.mixed, x.1 ≠ c.id) → c.id ∉ s.corrected →
    let ended := fun (t' : State) (obj code flags : Nat) => exec (.fabricArrival c.id) s = .next t' ∧ t'.cmd? c.id = none ∧
      arrivedAt s t' obj ((outcomeFold code flags).and (Fold.bit 6 (flag flags 6)))
    let plain := fun (k : Nat) => (∀ o ∈ s.liveBars, k < o ∨ o + 32 ≤ k) ∧ s.vatHolding k = none
    let barrier := fun (obj : Nat) => c.bar = some obj ∧ s.openBar obj ∧ barLnk (s.barWord obj 0) = false
    (∀ (b : List Byte) (keys ks : List Nat) (x out fl : Nat) (s1 : State), c.kind = .mst b keys [x] out fl →
      (s.addrGroup? c.ctx (leField b 0 2)).isSome = true →
      (s.reaches c.pkg x = true → s.tooOld c.time = false → State.translateSpan { s with free := s.free + 1 } x c.ctx (leField b 8 8) 2 (leField b 4 2) = (some ks, s1) →
        ks.Nodup → ks.length = keys.length → c.bar.isSome = true →
        (∀ k ∈ ks, plain k) →
        ∃ t', exec (.fabricArrival c.id) s = .next t' ∧ ks.map t'.byte = keys.map s.byte ∧ (∀ k, k ∉ ks → t'.byte k = s.byte k) ∧
          ∃ c', t'.cmd? c.id = some c' ∧ c'.kind = .mst b keys [] (firstOut out 0) fl) ∧
      ((s.reaches c.pkg x = false ∨ s.tooOld c.time = true) → ∃ t', exec (.fabricArrival c.id) s = .next t' ∧ t'.mem = s.mem ∧
        ∃ c', t'.cmd? c.id = some c' ∧ c'.kind = .mst b keys [] (firstOut out 1) fl)) ∧
    (∀ b keys out flags obj, c.kind = .mst b keys [] out flags → barrier obj → ∃ t', ended t' obj out flags ∧ keepsBytes s t' [obj]) ∧
    (∀ b keys seq code flags data obj, c.kind = .mldr b keys seq (some code) flags data → barrier obj → keys.Nodup → data.length = keys.length →
      (∀ k ∈ keys, (k < obj ∨ obj + 32 ≤ k) ∧ plain k) → (∀ x ∈ data, x.2 = false) →
      ∃ t', ended t' obj code flags ∧ (code = 0 → keys.map t'.byte = data.map Prod.fst) ∧
        ∀ k, (k < obj ∨ obj + 32 ≤ k) → (code = 0 → k ∉ keys) → t'.byte k = s.byte k) ∧
    (∀ b alg seq src dst code flags obj, c.kind = .coll b alg seq src dst (some code) flags → barrier obj →
      (∀ sp ∈ c.dst, sp.1 + sp.2 ≤ obj ∨ obj + 32 ≤ sp.1) →
      ∃ t', ended t' obj code flags ∧ ∀ k, (k < obj ∨ obj + 32 ≤ k) → (code ≠ 0 → ∀ sp ∈ c.dst, k < sp.1 ∨ sp.1 + sp.2 ≤ k) → t'.byte k = s.byte k)) ∧
  (∀ (s : State) (c : Cmd) (a : AddrGroup) (cs : List Cmd) (bs0 : List Byte) (alg seq : Nat) (r0 r1 : Region) (f0 : Nat),
    s.cmd? c.id = some c → c.kind = .coll bs0 alg seq r0 r1 none f0 → c.sent = true → (c.agHandle.bind (s.addrGroup? c.ctx)) = some a →
    cs = s.collPeers c a seq → cs.length = a.members.length → 0 < cs.length → a.planes ≠ [] → s.poison = [] → s.taint = [] → s.mixed = [] →
    (∀ q ∈ cs, s.agAbsent a q.pkg = false) →
    (cs.map Cmd.id).Nodup → (∀ q ∈ cs, ∀ x ∈ s.cmds, x.id = q.id → x = q) →
    let shape := fun (bs : List Byte) => let b := CollBlock.ofBytes bs; [b.op, b.alg, b.et, b.rop, b.count, b.cmpk, b.root, b.bita, b.bitb, b.bitn]
    let place := fun (q : Cmd) (n : Nat) => match q.kind with
      | .coll bs _ _ _ dst _ _ => (List.range n).map fun j => s.regionKey q.pkg dst ((CollBlock.ofBytes bs).doff + j)
      | _ => []
    let chunks := fun (q : Cmd) (n : Nat) => match q.kind with
      | .coll bs _ _ _ dst _ _ => (List.range n).flatMap fun j =>
          (List.range 4).map fun i => keyPkg q.pkg (dst.clist + 4 * (((CollBlock.ofBytes bs).doff + j) / 2 ^ 21)) + i
      | _ => []
    let z := (CollBlock.ofBytes bs0).z
    let all := (CollBlock.ofBytes bs0).dstLen a.members.length * z
    (∀ q ∈ cs, q.bar.isSome = true ∧ (∀ k ∈ place q all, (∀ o ∈ s.liveBars, k < o ∨ o + 32 ≤ k) ∧ s.vatHolding k = none) ∧
      ∃ bs src dst, q.kind = .coll bs alg seq src dst none 0 ∧ shape bs = shape bs0 ∧
        ((∀ sp ∈ q.dst, inSpans q.src sp.1 = false) ∨
          let b := CollBlock.ofBytes bs
          b.op = 5 ∧ src = dst ∧ b.soff = b.doff)) →
    (cs.flatMap fun q => place q all).Nodup →
    (∀ q ∈ cs, ∀ x ∈ cs, ∀ k ∈ chunks q all, k ∉ place x all) →
    ∃ t', exec (.fabricArrival c.id) s = .next t' ∧
      (∀ k, (∀ q ∈ cs, k ∉ place q all) → t'.byte k = s.byte k) ∧
      ∀ r q bs src dst, cs[r]? = some q → q.kind = .coll bs alg seq src dst none 0 →
        let b := CollBlock.ofBytes bs
        let first := match (cs.headD c).kind with
          | .coll bs _ _ _ _ _ _ => (CollBlock.ofBytes bs).soff
          | _ => 0
        let res := b.result alg a first (cs.map fun x => s.collSource x a.members.length) r
        (place q all).map t'.byte = res.1.flatMap (bytesOf z) ∧ ∃ q' ∈ t'.cmds, q'.id = q.id ∧ q'.kind = .coll bs alg seq src dst (some 0) res.2.f) ∧
  (∀ (s : State) (c : Cmd) (b : List Byte) (keys : List Nat) (seq : Nat), s.cmd? c.id = some c → c.sent = false → c.kind = .mldr b keys seq none 0 [] →
    let ag := s.addrGroup? c.ctx (leField b 0 2)
    let has := fun (t' : State) (out : Nat) => exec (.switchContribution c.id) s = .next t' ∧ t'.mem = s.mem ∧
      ∃ c', t'.cmd? c.id = some c' ∧ c'.sent = true ∧ c'.kind = .mldr b keys seq (some out) 0 []
    (ag = none → ∃ t', has t' 8) ∧
    (∀ a, ag = some a → s.tooOld c.time = true → ∃ t', has t' 1) ∧
    (∀ a, ag = some a → s.tooOld c.time = false → a.planes = [] → ∃ t', has t' 3) ∧
    (∀ a, ag = some a → s.tooOld c.time = false → a.planes ≠ [] → s.agAbsent a c.pkg = true → ∃ t', has t' 1) ∧
    (∀ a t ks s1, ag = some a → s.tooOld c.time = false → a.planes ≠ [] → s.agAbsent a c.pkg = false →
      let key := fun (t : Tuple) => t.ctx == c.ctx && t.grp == a.id && t.gen == a.gen && t.offset == leField b 8 8 && t.seq == seq
      let et := leField b 3 1
      let op := leField b 2 1
      (∀ x ∈ s.tuples, key x = true → s.time < x.start + a.timeout) → s.tuples.find? key = some t →
      let room := s.slotFree ⟨a.planeAt (leField b 8 8), c.ctx, a, t.parts.map Prod.fst⟩ (a.rank c.pkg)
      (room = false → exec (.switchContribution c.id) s = .next s) ∧ (room = true → t.denied = false → t.bad = [] → s.poison = [] →
      t.params = [et, op, leField b 4 2] → t.parts.length + 1 = a.members.length →
      s.translateSpan c.pkg c.ctx (leField b 8 8) 1 (leField b 4 2 * etBytes et) = (some ks, s1) → (∀ x ∈ s.taint, x.1 ≠ c.id) → (∀ x ∈ s.mixed, x.1 ≠ c.id) →
      let parts := t.parts ++ [(a.rank c.pkg, c.id, ks.map s.byte)]
      let val := fun (e r : Nat) => ((parts.find? fun p => p.1 == r).map fun p => leField p.2.2 (etBytes et * e) (etBytes et)).getD 0
      let es := (List.range (leField b 4 2)).map fun e => mldrElement op et t.plane a.members (val e)
      ∃ t', exec (.switchContribution c.id) s = .next t' ∧ t'.mem = s.mem ∧ (∀ x ∈ t'.tuples, key x = false) ∧
        ∀ q ∈ s.cmds, (∃ p ∈ parts, p.2.1 = q.id) → ∀ bq kq nq fq dq, q.kind = .mldr bq kq nq none fq dq →
          ∃ q' ∈ t'.cmds, q'.id = q.id ∧ q'.kind = .mldr bq kq nq (some 0) (es.foldl (fun f e => f ||| e.2) 0)
            ((es.flatMap fun e => bytesOf (etBytes (mldrResult op et)) e.1).map fun x => (x, false))))) ∧
  (∀ (s : State) (c : Cmd) (a : AddrGroup) (bs : List Byte) (alg seq : Nat) (src dst : Region) (f : Nat),
    s.cmd? c.id = some c → c.sent = false → c.kind = .coll bs alg seq src dst none f → (c.agHandle.bind (s.addrGroup? c.ctx)) = some a →
    s.tooOld c.time = false → alg ≠ 3 → s.agAbsent a c.pkg = false →
    ∃ t', exec (.switchContribution c.id) s = .next t' ∧ t'.mem = s.mem ∧ ∃ c' ∈ t'.cmds, c'.id = c.id ∧ c'.kind = c.kind ∧ c'.sent = true ∧ c'.time = s.time) ∧
  (∀ (s : State) (t : Tuple) (a : AddrGroup), s.tuples = [t] → (s.ags.find? fun q => q.ctx == t.ctx && q.id == t.grp) = some a →
    (s.time < t.start + a.timeout → exec (.tupleTimeout t.grp t.seq) s = .next s) ∧
    (t.start + a.timeout ≤ s.time → ∃ t', exec (.tupleTimeout t.grp t.seq) s = .next t' ∧ t'.tuples = [] ∧ t'.mem = s.mem ∧
      ∀ q ∈ s.cmds, (∃ p ∈ t.parts, p.2.1 = q.id) → ∀ bq kq nq fq dq, q.kind = .mldr bq kq nq none fq dq →
        ∃ q' ∈ t'.cmds, q'.id = q.id ∧ q'.kind = .mldr bq kq nq (some (if t.denied then 7 else 2)) fq dq)) ∧
  (∀ (s : State) (c : Cmd) (a : AddrGroup) (bs : List Byte) (alg seq : Nat) (src dst : Region) (f : Nat),
    s.cmd? c.id = some c → c.kind = .coll bs alg seq src dst none f → (c.agHandle.bind (s.addrGroup? c.ctx)) = some a →
    ((c.sent = false ∨ s.time < c.time + a.timeout) → exec (.collStepTimeout c.id) s = .next s) ∧
    (c.sent = true → c.time + a.timeout ≤ s.time → ∃ t', exec (.collStepTimeout c.id) s = .next t' ∧
      let cs := s.collJoined a seq
      (∀ q ∈ cs, ∀ b n m x y g, q.kind = .coll b n m x y none g → ∃ q' ∈ t'.cmds, q'.id = q.id ∧
        q'.kind = .coll b n m x y (some (if s.collDiffer cs then 7 else 2)) g) ∧
      ∀ k, (∀ q ∈ cs, ∀ sp ∈ q.dst, k < sp.1 ∨ sp.1 + sp.2 ≤ k) → t'.byte k = s.byte k)) ∧
  (∀ (s : State) (p : Packet),
    (s.net.find? (fun q => q.id == p.id && q.key.isNone) = some p →
      ((s.extended = false ∨ s.time ≤ p.sent + 10 ^ 7) → exec (.fabricPacketExpiry p.id) s = .next s) ∧
      (s.extended = true → p.sent + 10 ^ 7 < s.time → ∃ t', exec (.fabricPacketExpiry p.id) s = .next t' ∧ (p.kind.isLoad = true → t'.mem = s.mem) ∧
        (∀ q ∈ t'.net, q.id ≠ p.id) ∧ ⟨p, 1, [], 0, s.time⟩ ∈ t'.resp)) ∧
    (∀ r : Response, (∀ q ∈ s.net, q.id ≠ p.id) → p = r.pkt → s.resp.find? (fun q => q.pkt.id == p.id && q.pkt.key.isNone && q.code != 1) = some r →
      ((s.extended = false ∨ s.time ≤ r.sent + 10 ^ 7) → exec (.fabricPacketExpiry p.id) s = .next s) ∧
      (s.extended = true → r.sent + 10 ^ 7 < s.time → ∃ t', exec (.fabricPacketExpiry p.id) s = .next t' ∧ t'.mem = s.mem ∧
        (∀ q ∈ t'.resp, q.pkt.id = p.id → q = ⟨p, 1, [], 0, s.time⟩) ∧ ⟨p, 1, [], 0, s.time⟩ ∈ t'.resp))) ∧
  (∀ (s : State) (pkg plane : Nat),
    (∀ what, (Config.planes ≤ plane ∨ 2 < what) → exec (.linkFailure pkg plane what) s = .next s) ∧
    (Config.planes ≤ plane → exec (.packageReachable pkg plane) s = .next s) ∧
    (plane < Config.planes → (s.pkg? pkg).isSome = true →
      (∃ t', exec (.linkFailure pkg plane 1) s = .next t' ∧ ∀ q ∈ s.pkgs, Config.leafOf plane q.num = Config.leafOf plane pkg →
        plane ∈ (t'.pkg q.num).failedPlanes) ∧
      (∃ t', exec (.linkFailure pkg plane 2) s = .next t' ∧ t'.pkgs = s.pkgs ∧ ∀ x ∈ s.ags, x.freedAt = none →
        (∃ q ∈ s.pkgs, q.num ∈ x.members ∧ Config.leafOf plane q.num = Config.leafOf plane pkg) →
        ∃ y ∈ t'.ags, y.id = x.id ∧ y.ctx = x.ctx ∧ y.members = x.members ∧ plane ∈ y.failed) ∧
      (∃ t', exec (.linkFailure pkg plane 0) s = .next t' ∧ plane ∈ (t'.pkg pkg).failedPlanes ∧
        (Config.planes ≤ (t'.pkg pkg).failedPlanes.length → (t'.pkg pkg).reachable = false) ∧
        ∀ q, q ≠ pkg → (t'.pkg q).failedPlanes = (s.pkg q).failedPlanes ∧ (t'.pkg q).reachable = (s.pkg q).reachable) ∧
      ∃ t', exec (.packageReachable pkg plane) s = .next t' ∧ (t'.pkg pkg).reachable = true ∧
        (t'.pkg pkg).failedPlanes = (s.pkg pkg).failedPlanes.filter (fun q => q != plane) ∧ t'.mem = s.mem ∧ ∀ q, q ≠ pkg → t'.pkg q = s.pkg q))

/-- R25, R316 to R319: the commands of the level sequencer. -/
def Obligations.ChildCommandResults : Prop :=
  ∀ (y : BitVec 1) (d a b : BitVec 6) (t : Tile) (tr : Tree) (bt : Batch),
    let here := fun (m : State) => m.tileOf m.g = some t ∧ m.treeOf t = some tr
    let free := fun (m : State) => m.earlier = false
    let lead := fun (m : State) => m.g.priv = true ∨ m.g.num = 0
    let mine := fun (m : State) => free m ∧ lead m ∧ m.tileOf m.g = some t
    let w := fun (m : State) => (m.g.sreg a.toNat).toNat
    let n := fun (m : State) => w m % 2 ^ 16
    let batchOf := fun (t' : State) (q : Batch → Prop) => ∃ x z, t'.tile? t.id = some x ∧ x.batch = some z ∧ q z
    let launches := fun (i : Instr) (withDep : Bool) (t0 : State → Nat) (get : State → Option (List Byte) × State) =>
      let res0 := fun (m : State) => w m / 2 ^ 17 != 0
      let fld := fun (m : State) => (withDep && match (get m).1 with | none => true | some x => depRes0 x) || res0 m
      let hnd := fun (m : State) => match (get m).1 with
        | none => false
        | some x => [0, 0x30, 0x60].any fun o => leField x o 2 != 0 && ((get m).2.handle? m.g.pkg m.g.ctx (leField x o 2)).isNone
      let map := fun (m : State) => (get m).2.portMap m.g tr (t.depth + 1) (n m)
      let code := fun (m : State) => (map m).2.launchCode m.g (n m) (fld m) (hnd m) (map m).1.isNone
      (∀ s m : State, m = s.merged → s.issues i = true → free m →
        (fld m = true → ∃ t', repliesOnly i s m t' y d 0x80000010) ∧
        (fld m = false → ¬ lead m → ∃ t', repliesOnly i s m t' y d 0x80000011) ∧
        (fld m = false → lead m → m.tileOf m.g = none → ∃ t', repliesOnly i s m t' y d 0x80000012) ∧
        (here m → code m ≠ 0 → ∃ t', repliesOnly i s m t' y d (code m)) ∧
        (here m → code m = 0 → ∃ t', repliesOnly i s m t' y d 0 ∧ batchOf t' fun z => z.n = n m ∧ z.head = 0 ∧ z.last = none ∧
          z.t0 = (if flag (w m) 16 then t0 m else m.time) ∧ z.kids = (List.range (n m)).map Child.fresh ∧ z.dep = (if withDep then (get m).1 else none)))
    let st := fun (k : Nat) => ((bt.kid? k).bind fun c => c.st.reported)
    let w0 := fun (m : State) => match m.g.issuing.wait with | .joinall k f => (k, f) | _ => (0, 0)
    let flags := fun (m : State) (h : Nat) =>
      (List.range (h - bt.head)).foldl (fun f j => f ||| joinFlag ((st (bt.head + j)).getD 0)) (w0 m).2
    let taken := fun (i : Instr) (s m t' : State) (h : Nat) => exec i s = .next t' ∧ t'.mem = m.mem ∧ m.g.keepsRegs t'.g none2 none2 none1 none1 ∧
      batchOf t' fun z => z.head = h ∧ z.n = bt.n ∧ z.kids = bt.kids
    let item := fun (k v : Nat) => Completes (.tileq d a) (fun m => free m ∧ m.tileOf m.g = some t ∧ t.batch = some bt ∧ w m = k) (fun m => m.replied d v)
    let left := fun (c : Child) => c.st = .waiting ∨ c.st = .relaunch
    (∀ i ∈ [Instr.launch y d a b, .launchd y d a b, .join d, .joinall d, .tileq d a, .cancel y d],
      WaitsAfter i (fun m => m.earlier = true) id (fun _ => .held)) ∧
    launches (.launch y d a b) false (fun m => m.g.s2 b.toNat) (fun m => (none, m)) ∧
    launches (.launchd y d a b) true (fun m => m.g.s2 (b.toNat + 2))
      (fun m => if m.g.s2 b.toNat % 16 = 0 then m.fetchStruct m.g (m.g.s2 b.toNat) 144 else (none, m)) ∧
    (∀ i ∈ [Instr.join d, Instr.joinall d], Completes i (fun m => free m ∧ ¬ lead m) (fun m => m.replied d 0x80000011) ∧
      Completes i (fun m => free m ∧ lead m ∧ m.tileOf m.g = none) (fun m => m.replied d 0x80000012)) ∧
    Completes (.join d) (fun m => mine m ∧ ∀ z, t.batch = some z → z.n ≤ z.head) (fun m => m.replied d 0x80000000) ∧
    (∀ c x, Completes (.join d) (fun m => mine m ∧ t.batch = some bt ∧ bt.head < bt.n ∧ bt.kid? bt.head = some c ∧ c.st = .done x)
      (fun m => ((m.modBatch t.id fun z => { z with head := z.head + 1 }).acquire m.g t.dom).replied d (c.idx + x * 2 ^ 16 + c.reln * 2 ^ 20))) ∧
    WaitsAfter (.join d) (fun m => mine m ∧ t.batch = some bt ∧ bt.head < bt.n ∧ st bt.head = none) id (fun _ => .join) ∧
    Completes (.joinall d) (fun m => mine m ∧ t.batch = none) (fun m => m.replied d 0) ∧
    (∀ s m : State, m = s.merged → s.issues (.joinall d) = true → mine m → t.batch = some bt → bt.head ≤ bt.n → bt.kid? bt.n = none →
      ((∀ k, bt.head ≤ k → k < bt.n → (st k).isSome = true) →
        ∃ t', taken (.joinall d) s m t' bt.n ∧ t'.g.pc = m.g.pcAfter (.joinall d) ∧
          t'.g.sb = (m.replied d ((w0 m).1 + (bt.n - bt.head) + flags m bt.n * 2 ^ 16)).g.sb) ∧
      (∀ h, bt.head ≤ h → h < bt.n → st h = none → (∀ k, bt.head ≤ k → k < h → (st k).isSome = true) →
        ∃ t', taken (.joinall d) s m t' h ∧ t'.g.pc = m.g.pc ∧ t'.g.sb = m.g.sb ∧
          (t'.g.stop = none → t'.g.issuing.wait = .joinall ((w0 m).1 + (h - bt.head)) (flags m h)))) ∧
    Completes (.tileq d a) (fun m => free m ∧ 6 < w m) (fun m => m.replied d 0x80000010) ∧
    Completes (.tileq d a) (fun m => free m ∧ w m ≤ 6 ∧ m.tileOf m.g = none) (fun m => m.replied d 0x80000012) ∧
    Completes (.tileq d a) (fun m => free m ∧ m.tileOf m.g = some t ∧ t.batch = none ∧ w m < 6) (fun m => m.replied d 0) ∧
    item 0 (if bt.n ≤ bt.head then 0 else bt.n) ∧ item 1 bt.head ∧ item 2 (bt.kids.filter Child.started).length ∧ item 3 bt.head ∧
    item 4 (bt.kids.filter fun c => decide (bt.head < c.idx) && c.st.reported.isSome).length ∧ item 5 bt.entries.length ∧
    Completes (.tileq d a) (fun m => free m ∧ m.tileOf m.g = some t ∧ w m = 6) (fun m => m.replied d t.reln) ∧
    Completes (.cancel y d) (fun m => free m ∧ ¬ lead m) (fun m => m.repliedY y d 0x80000011) ∧
    Completes (.cancel y d) (fun m => free m ∧ lead m ∧ m.tileOf m.g = none) (fun m => m.repliedY y d 0x80000012) ∧
    Completes (.cancel y d) (fun m => mine m ∧ m.tile? t.id = some t ∧ t.batch = none) (fun m => m.repliedY y d 0) ∧
    (∀ s m : State, m = s.merged → s.issues (.cancel y d) = true → mine m → t.batch = some bt → t.parent.isSome = true → (bt.kids.map Child.idx).Nodup →
      ∃ t', repliesOnly (.cancel y d) s m t' y d (bt.kids.filter fun c => c.st == .waiting || c.st == .relaunch).length ∧
        batchOf t' fun z => z.head = bt.head ∧ z.kids.map Child.idx = bt.kids.map Child.idx ∧
          ∀ c ∈ bt.kids, ∃ c' ∈ z.kids, c'.idx = c.idx ∧ (left c → c'.st = .done 2 ∧ c'.freed = true) ∧ (¬ left c → c' = c))

/-- R22 to R33: what becomes of children. -/
def Obligations.ChildEventResults : Prop :=
  ∀ (s : State) (t : Tile) (tr : Tree) (b : Batch) (c : Child), s.tile? t.id = some t → s.treeOf t = some tr → t.batch = some b → b.kid? c.idx = some c →
    let up := tr.level t.depth
    let batchOf := fun (t' : State) (q : Batch → Prop) => ∃ x z, t'.tile? t.id = some x ∧ x.batch = some z ∧ q z
    (∀ d, b.dep = some d → c.entered = false → c.st = .waiting → b.entries.length < 64 → (∀ o ∈ b.kids, o.idx < c.idx → o.entered = true ∨ o.st ≠ .waiting) →
      let verOf := fun (r : DepSet) => match ((b.entries.filter fun o => decide (o.idx < c.idx)).filterMap fun o => o.write.filter fun w => s.setsMeet t w r).getLast? with
        | some w => w.ver
        | none => ((s.handleOf t r.handle).map Handle.committed).getD 0
      let i := Instr.dependenceEntry t.id c.idx
      (depWrite d up c.idx = none → ∃ t', exec i s = .next t' ∧ t'.mem = s.mem ∧ batchOf t' fun z => ∃ c', z.kid? c.idx = some c' ∧ c'.entered = true ∧
        c'.write = none ∧ c'.reads = (depReads d up c.idx).map fun r => { r with ver := verOf r }) ∧
      (∀ w h, depWrite d up c.idx = some w → s.handleOf t w.handle = some h →
        (b.freeVersion h = none → exec i s = .next s) ∧
        (∀ v, b.freeVersion h = some v → ∃ t', exec i s = .next t' ∧ t'.mem = s.mem ∧ (t'.handleOf t w.handle).map Handle.last = some (some v) ∧
          batchOf t' fun z => ∃ c', z.kid? c.idx = some c' ∧ c'.entered = true ∧ c'.write = some { w with ver := v } ∧
            c'.reads = (depReads d up c.idx).map fun r => { r with ver := verOf r }))) ∧
    ((c.st ≠ .waiting ∨ t.live = false) → exec (.childStart t.id c.idx) s = .next s) ∧
    (c.st = .waiting → t.live = true → s.gangHolds tr b c.idx = false → s.crewGone t.crew = false → s.depFails t b up c.idx = true →
      ∃ t', exec (.childStart t.id c.idx) s = .next t' ∧ batchOf t' fun z => ∃ c', z.kid? c.idx = some c' ∧ c'.st = .done 3) ∧
    (∀ s1, c.st = .waiting → t.live = true → s.gangHolds tr b c.idx = false → s.crewGone t.crew = false → s.depFails t b up c.idx = false →
      tr.portSet (t.depth + 1) = false → s.mayStart tr t b c false false = true → s.startKid tr t c false = some s1 → (∀ x ∈ s.tiles, x.id < s.next) →
      let l := tr.level (t.depth + 1)
      1 ≤ l.dom → l.dom ≤ 3 → exec (.childStart t.id c.idx) s = .next s1 ∧
        (batchOf s1 fun z => z.last = some s.time ∧ ∃ c', z.kid? c.idx = some c' ∧ c'.started = true ∧ c'.reln = c.reln ∧ c'.st = .running s.next) ∧
        ∃ kid, s1.tile? s.next = some kid ∧ kid.parent = some t.id ∧ kid.idx = c.idx ∧ kid.depth = t.depth + 1 ∧ kid.dom = l.dom ∧ kid.memb = l.memb ∧
          kid.tree = tr.id ∧ kid.batch = none ∧ kid.reln = c.reln ∧ ∀ j < 32 * l.barobj, s1.byte (kid.home + 0x40 + j) = 0) ∧
    (c.st ≠ .relaunch → t.id ≠ 0 → exec (.childRelaunch t.id c.idx) s = .next s) ∧
    (∀ s1, c.st = .relaunch → t.id ≠ 0 → tr.portSet (t.depth + 1) = false → (∀ l, b.last = some l → l + (s.pkg t.pkg).stag ≤ s.time) →
      s.startKid tr t c true = some s1 → (∀ x ∈ s.tiles, x.id < s.next) →
      exec (.childRelaunch t.id c.idx) s = .next s1 ∧ batchOf s1 fun z => ∃ c', z.kid? c.idx = some c' ∧ c'.reln = c.reln + 1 ∧ c'.st = .running s.next) ∧
    (∀ x : Tile, s.tile? x.id = some x → x.parent = some t.id → x.id ≠ t.id → x.dom ≠ 0 → x.idx = c.idx →
      (s.tileDone x = false → exec (.tileComplete x.id) s = .next s) ∧
      (s.tileDone x = true → ∃ t', exec (.tileComplete x.id) s = .next t' ∧ t'.tile? x.id = none ∧ t'.crew? x.crew = none ∧
        (∀ g ∈ s.groupsOf x.crew, g.id ≠ 0 → t'.group? g.id = none) ∧ batchOf t' fun z => ∃ c', z.kid? c.idx = some c' ∧ c'.st = .done 0)) ∧
    (∀ k, s.tile? k = none → exec (.tileComplete k) s = .next s)

/-- R165, R342 to R344, R244, R331, R332: fences, waits and queries of the matrix engine (log entry 1 for item 4), pod time. -/
def Obligations.MatrixWaitAndTimeResults : Prop :=
  (∀ (d a : BitVec 6),
    let n := fun (m : State) => (m.g.sreg a.toNat).toNat
    let old := fun (m : State) => m.g.own.take (m.g.own.length - n m)
    let q := fun (m : State) => m.engineCmds (engineId 5 m.g.pkg m.g.core)
    let free := fun (m : State) (r : Nat) => m.regionFree m.g.pkg m.g.core r
    Completes .mfence (fun m => m.g.sq = [] ∧ m.g.sb = []) id ∧
    WaitsAfter .mfence (fun m => m.g.sq ≠ [] ∨ m.g.sb ≠ []) id (fun _ => .fence) ∧
    Completes (.mwait a) (fun m => 16 ≤ n m ∨ m.g.own.length ≤ n m) (fun m => m.refresh m.g 1) ∧
    Completes (.mwait a) (fun m => n m < 16 ∧ n m < m.g.own.length ∧ ∀ u ∈ old m, u.arrived = true)
      (fun m => (m.setG (m.g.retire fun u => (old m).any fun o => o.id == u.id)).refresh m.g 1) ∧
    WaitsAfter (.mwait a) (fun m => n m < 16 ∧ ∃ u ∈ old m, u.arrived = false) id (fun _ => .fence) ∧
    Completes (.mqry d a) (fun m => n m = 0) (fun m => m.replied d (min 16 m.g.own.length)) ∧
    Completes (.mqry d a) (fun m => n m = 1) (fun m => m.replied d (q m).length) ∧
    Completes (.mqry d a) (fun m => n m = 2) (fun m => m.replied d ((List.range 64).filter (free m)).length) ∧
    (∀ w, Completes (.mqry d a) (fun m => n m = 3 ∧ (∃ h, h + w ≤ 64 ∧ ∀ j < w, free m (h + j) = true) ∧
        ∀ k h, h + k ≤ 64 → (∀ j < k, free m (h + j) = true) → k ≤ w) (fun m => m.replied d w)) ∧
    (∃ x : State → Nat, (∀ m, x m < 2 ^ 32) ∧
      (∀ m, (∀ c ∈ q m, (Cmd.cycles c).isSome = true) → x m ≤ ((q m).map fun c => (Cmd.cycles c).getD 0).sum ∧
        min (2 ^ 32 - 1) (((q m).drop 1).map fun c => (Cmd.cycles c).getD 0).sum ≤ x m) ∧
      Completes (.mqry d a) (fun m => n m = 4) (fun m => State.replied { m with free := m.free + 2 } d (x m))) ∧
    Completes (.mqry d a) (fun m => 4 < n m) (fun m => m.replied d 0x80000010)) ∧
  (∀ (y : BitVec 1) (d a b : BitVec 6),
    let item := fun (m : State) => (m.g.sreg a.toNat).toNat
    let p := fun (m : State) => m.pkg m.g.pkg
    let tm := fun (m : State) => m.g.s2 a.toNat
    let ref := fun (m : State) => (m.g.sreg b.toNat).toNat
    let list := fun (m : State) => ((m.crew? m.g.crew).map Crew.tsigs).getD []
    let bar := fun (m : State) => m.refBarrier m.g.ctx m.g.tile (ref m)
    let free := fun (m : State) => m.earlier = false
    let named := fun (m : State) => free m ∧ ref m / 2 ^ 30 % 4 ≠ 0
    (∀ i ∈ [Instr.timeq d a, .tsig y d a b], WaitsAfter i (fun m => m.earlier = true) id (fun _ => .held)) ∧
    Completes (.timeq d a) (fun m => free m ∧ item m = 0) (fun m => m.replied d (p m).stag) ∧
    Completes (.timeq d a) (fun m => free m ∧ item m = 1) (fun m => (m.setG { m.g with sample := some m.time }).replied d (m.time % 2 ^ 32)) ∧
    Completes (.timeq d a) (fun m => free m ∧ item m = 2) (fun m => m.replied d (m.g.sample.getD 0 / 2 ^ 32 % 2 ^ 32)) ∧
    Completes (.timeq d a) (fun m => free m ∧ item m = 3) (fun m => m.replied d ((if (p m).sync then 1 else 0) + if (p m).skewHeld then 2 else 0)) ∧
    Completes (.timeq d a) (fun m => free m ∧ 3 < item m) (fun m => m.replied d 0x80000010) ∧
    Completes (.tsig y d a b) (fun m => free m ∧ ref m / 2 ^ 30 % 4 = 0) (fun m => m.repliedY y d 0x80000010) ∧
    Completes (.tsig y d a b) (fun m => named m ∧ 16 ≤ (list m).length) (fun m => m.repliedY y d 0x80000013) ∧
    Completes (.tsig y d a b) (fun m => named m ∧ (list m).length < 16 ∧ bar m = none) (fun m => m.repliedY y d (if m.g.priv then 0x8000001D else 0x8000001C)) ∧
    Completes (.tsig y d a b) (fun m => named m ∧ (list m).length < 16 ∧ (bar m).isSome = true ∧ m.time < tm m)
      (fun m => (m.modCrew m.g.crew fun c => { c with tsigs := c.tsigs ++ [⟨tm m, ref m, false⟩] }).repliedY y d 0) ∧
    (∀ (s m : State) (obj : Nat), m = s.merged → s.issues (.tsig y d a b) = true → named m → (list m).length < 16 → bar m = some obj → tm m ≤ m.time →
      m.openBar obj → barLnk (m.barWord obj 0) = false → m.g.notAt obj →
      ∃ t', exec (.tsig y d a b) s = .next t' ∧ t'.g.pc = m.g.pcAfter (.tsig y d a b) ∧ t'.g.sb = (m.repliedY y d 0).g.sb ∧
        arrivedAt m t' obj Fold.none ∧ keepsBytes m t' [obj] ∧ m.g.keepsRegs t'.g none2 none2 none1 none1)) ∧
  (∀ (s : State) (c : Crew) (n : Nat) (x : Tsig), s.crew? c.id = some c → c.tsigs[n]? = some x →
    (s.time < x.time → exec (.tsigFire c.id n) s = .next s) ∧
    (∀ obj, x.time ≤ s.time → s.refBarrier c.ctx c.tile x.ref = some obj → s.openBar obj → barLnk (s.barWord obj 0) = false →
      ∃ t', exec (.tsigFire c.id n) s = .next t' ∧ arrivedAt s t' obj (Fold.bit 10 x.late) ∧ keepsBytes s t' [obj] ∧
        (t'.crew? c.id).map Crew.tsigs = some (c.tsigs.eraseIdx n))) ∧
  (∀ (s : State) (g : Group) (split x : Nat) (p : Split), s.theGroup g.id g → g.split? split = some p → p.wait = .sleep x →
    ((s.time < x ∨ g.stop.isSome = true) → exec (.sleepWake g.id split) s = .next s) ∧
    (x ≤ s.time → g.stop = none → ∃ t', exec (.sleepWake g.id split) s = .next t' ∧ t'.mem = s.mem ∧
      ∃ h ∈ t'.allGroups, h.id = g.id ∧ ∃ q ∈ h.splits, q.idx = split ∧ q.wait = .none ∧ q.pc = (p.pc + 4) % 2 ^ 64)) ∧
  (∀ (s : State) (pkg : Nat) (sync skew : Bool), (s.pkg? pkg).isSome = true →
    ∃ t', exec (.podTimeSyncChange pkg sync skew) s = .next t' ∧ (t'.pkg pkg).sync = sync ∧ (t'.pkg pkg).skewHeld = skew ∧ t'.mem = s.mem ∧
      ∀ q, q ≠ pkg → t'.pkg q = s.pkg q)

/-- R320, R376 to R386: queues and their packets. -/
def Obligations.QueuePacketResults : Prop :=
  (∀ (y : BitVec 1) (d a b : BitVec 6),
    let i := Instr.qpush y d a b
    let x := fun (m : State) => (m.g.sreg a.toNat).toNat
    WaitsAfter i (fun m => m.relWaits 4 = true) id (fun _ => .held) ∧
    Completes i (fun m => m.relWaits 4 = false ∧ 2 ^ 12 ≤ x m) (fun m => m.repliedY y d 0x80000010) ∧
    Completes i (fun m => m.relWaits 4 = false ∧ x m < 2 ^ 12 ∧ m.qCtx m.g.pkg (x m) ≠ m.g.ctx) (fun m => m.repliedY y d 0x80000020) ∧
    Completes i (fun m => m.relWaits 4 = false ∧ x m < 2 ^ 12 ∧ m.qCtx m.g.pkg (x m) = m.g.ctx)
      (fun m => (m.kickReg m.g.pkg m.g.ctx (m.qSlot m.g.pkg (x m)) (m.g.s2 b.toNat)).repliedY y d 0)) ∧
  (∀ (s : State) (pkg q : Nat),
    let key := s.queueKey pkg q
    let ridx := s.qRidx pkg q
    let failed := fun (t' : State) (err at_ : Nat) => t'.qState pkg q = 2 ∧ t'.num (key + 0x0F) 1 = err % 256 ∧ t'.num (key + 0x28) 8 = at_ ∧
      keepsOutside s t' key 64 ∧ t'.qRidx pkg q = ridx
    (∀ ctx slot w, let i := Instr.kick pkg ctx slot w
      (¬ (s.takesRdma pkg = true ∧ ctx < 4096 ∧ slot < 512 ∧ w < 2 ^ 64) → exec i s = .next s) ∧
      (s.takesRdma pkg = true → ctx < 4096 → slot < 512 → w < 2 ^ 64 →
        (s.kickOwner pkg ctx slot = none → ∃ t', exec i s = .next t' ∧ t'.mem = s.mem ∧ t'.imprecise.length = s.imprecise.length + 1) ∧
        (s.kickOwner pkg ctx slot = some q →
          (ridx + s.qRing pkg q < w → ∃ t', exec i s = .next t' ∧ failed t' 4 ridx) ∧
          (w ≤ ridx + s.qRing pkg q → ∃ t', exec i s = .next t' ∧ t'.qWidx pkg q = max (s.qWidx pkg q) w ∧ keepsOutside s t' (key + 0x18) 8)))) ∧
    (∀ i ∈ [Instr.nopPacket pkg q, Instr.timestampPacket pkg q, Instr.waitPacket pkg q, Instr.signalPacket pkg q, Instr.gangPacket pkg q],
      (s.headReady pkg q = false → exec i s = .next s) ∧
      (∀ t, s.headReady pkg q = true → s.packetAt pkg q ridx = (none, t) → ∃ t', exec i s = .next t' ∧ failed t' 5 ridx) ∧
      (∀ b t, s.headReady pkg q = true → s.packetAt pkg q ridx = (some b, t) → pktErr b ≠ 0 → ∃ t', exec i s = .next t' ∧ failed t' (pktErr b) ridx)) ∧
    (∀ (b : List Byte) (t : State), s.headReady pkg q = true → s.packetAt pkg q ridx = (some b, t) → pktErr b = 0 → s.fenceMet pkg q b = true →
      s.num (key + 0x20) 8 = 0 →
      let n := (ridx + 1) % 2 ^ 64
      let va := leField b 0x10 8
      let started := fun (t' : State) (i : Instr) (keep : List QPacket) => exec i s = .next t' ∧ t'.qRidx pkg q = n ∧ t'.qpkts = s.qpkts ++ keep
      let me := fun (written : Bool) (obj : Option Nat) => (⟨pkg, q, ridx, b, written, obj⟩ : QPacket)
      let word := fun (need k : Nat) => va % 8 = 0 ∧ (t.homeAt pkg (s.qCtx pkg q) va need).1 = some k ∧ (k + 8 ≤ key ∨ key + 64 ≤ k)
      let only := fun (t' : State) (k : Nat) => ∀ x, (x < k ∨ k + 8 ≤ x) → (x < key + 0x10 ∨ key + 0x18 ≤ x) → t'.byte x = s.byte x
      let quiet := fun (k : Nat) => s.poison = [] ∧ ∀ j < 8, (∀ c ∈ s.cmds, inSpans c.src (k + j) = false ∧ inSpans c.dst (k + j) = false) ∧ s.vatHolding (k + j) = none ∧
        ∀ o ∈ s.liveBars, k + j < o ∨ o + 32 ≤ k + j
      (pktType b = 0 → ∃ t', started t' (.nopPacket pkg q) [] ∧ keepsOutside s t' (key + 0x10) 8) ∧
      (∀ k, pktType b = 5 → word 2 k → quiet k → ∃ t', started t' (.timestampPacket pkg q) [] ∧ t'.num k 8 = s.time % 2 ^ 64 ∧ only t' k) ∧
      (∀ k, pktType b = 3 → leField b 8 1 = 0 → word 1 k →
        ∃ t', started t' (.waitPacket pkg q) (if waitHolds b (s.num k 8) then [] else [me false none]) ∧ keepsOutside s t' (key + 0x10) 8) ∧
      (∀ k, pktType b = 3 → leField b 8 1 = 1 → va % 32 = 0 → (t.homeAt pkg (s.qCtx pkg q) va 3).1 = some k →
        ∃ t', started t' (.waitPacket pkg q) [me false (some k)] ∧ keepsOutside s t' (key + 0x10) 8) ∧
      (∀ k, pktType b = 4 → leField b 8 1 = 0 → word (2 + leField b 9 1) k → quiet k → (t.homeAt pkg (s.qCtx pkg q) va (2 + leField b 9 1)).2.free = t.free →
        ∃ t' written, started t' (.signalPacket pkg q) [me written none] ∧ (written = false → keepsOutside s t' (key + 0x10) 8)) ∧
      (pktType b = 4 → leField b 8 1 = 1 → ∃ t' written, started t' (.signalPacket pkg q) [me written none] ∧ keepsOutside s t' (key + 0x10) 8 ∧
        (written = true → (leField b 0x0C 4, va, leField b 0x18 8) ∈ t'.hostWords) ∧ (written = false → t'.hostWords = s.hostWords))) ∧
    (∀ (x : QPacket), s.qpkts.find? (fun p => p.pkg == pkg && p.queue == q && p.index == x.index && pktType p.bytes == 3 && p.obj.isNone) = some x →
      ∀ k t, leField x.bytes 0x10 8 % 8 = 0 → s.homeAt pkg (s.qCtx pkg q) (leField x.bytes 0x10 8) 1 = (some k, t) →
        ∃ t', exec (.waitPacketPoll pkg q x.index) s = .next t' ∧ t'.mem = s.mem ∧
          (waitHolds x.bytes (s.num k 8) = true → ∀ p ∈ t'.qpkts, ¬ (p.pkg = pkg ∧ p.queue = q ∧ p.index = x.index)) ∧
          (waitHolds x.bytes (s.num k 8) = false → t'.qpkts = s.qpkts)) ∧
    (∀ idx, s.qpkts = [] → exec (.waitPacketPoll pkg q idx) s = .next s ∧ exec (.signalAck pkg q idx) s = .next s) ∧
    (∀ (x : QPacket), s.qpkts.find? (fun p => p.pkg == pkg && p.queue == q && p.index == x.index && pktType p.bytes == 4) = some x →
      (x.written = true → ∃ t', exec (.signalAck pkg q x.index) s = .next t' ∧ t'.mem = s.mem ∧ ∀ p ∈ t'.qpkts, ¬ (p.pkg = pkg ∧ p.queue = q ∧ p.index = x.index)) ∧
      (x.written = false → leField x.bytes 8 1 = 1 → ∃ t', exec (.signalAck pkg q x.index) s = .next t' ∧ t'.mem = s.mem ∧
        (leField x.bytes 0x0C 4, leField x.bytes 0x10 8, leField x.bytes 0x18 8) ∈ t'.hostWords ∧
        ((∀ p ∈ t'.qpkts, ¬ (p.pkg = pkg ∧ p.queue = q ∧ p.index = x.index)) ∨ ∃ p ∈ t'.qpkts, p.index = x.index ∧ p.written = true))) ∧
    (∀ (b : List Byte) (t t1 u : State) (r : LaunchRec) (core : Nat), s.noteHeads.headReady pkg q = true → s.noteHeads.packetAt pkg q ridx = (some b, t) → pktErr b = 0 →
      pktType b = 1 → s.noteHeads.fenceMet pkg q b = true → t.launchArgs pkg (t.qCtx pkg q) b 1 = (.inr r, t1) →
      ((r.timed = true ∧ t1.time < r.t0) ∨ t1.childFirst pkg core = true ∨ t1.outranked pkg q = true → exec (.launchPacket pkg q core) s = .next t1) ∧
      (¬ (r.timed = true ∧ t1.time < r.t0) → t1.childFirst pkg core = false → t1.outranked pkg q = false → t1.launchRoot pkg q core b r = some u →
        exec (.launchPacket pkg q core) s = .next u ∧ ∃ tr ∈ u.trees, tr.rcd = r ∧ tr.queue = q ∧ tr.index = ridx ∧ tr.tag = leField b 4 4 ∧
          tr.report = leField b 0x10 8 ∧ ∃ root ∈ u.tiles, root.tree = tr.id ∧ root.parent = none ∧ root.live = true ∧ root.core = core ∧ root.pkg = pkg)))

/-- R387 to R389: gangs. -/
def Obligations.GangResults : Prop :=
  (∀ (s t t1 t2 : State) (pkg q : Nat) (b : List Byte) (ms : Nat ⊕ List Nat), s.headReady pkg q = true → s.packetAt pkg q (s.qRidx pkg q) = (some b, t) →
    pktErr b = 0 → pktType b = 2 → s.fenceMet pkg q b = true → (∀ g ∈ s.gangs, ¬ (g.pkg = pkg ∧ g.queue = q ∧ g.index = s.qRidx pkg q)) →
    let kind := leField b 0x18 1
    let mask := leField b 0x1A 2
    let ctx := s.qCtx pkg q
    let i := Instr.gangPacket pkg q
    let dies := partDies kind mask
    let failed := fun (e : Nat) => ∃ t', exec i s = .next t' ∧ t'.qState pkg q = 2 ∧ t'.num (s.queueKey pkg q + 0x0F) 1 = e % 256 ∧ t'.gangs = s.gangs
    (if kind = 3 then t.gangMembers pkg ctx (leField b 0x20 8) else (.inr [], t)) = (ms, t1) →
    let n := match ms with | .inr l => if kind = 3 then l.length else dies.length | .inl _ => 0
    (∀ e, t1.launchArgs pkg ctx b n = (.inl e, t2) → failed e) ∧
    (∀ r e, t1.launchArgs pkg ctx b n = (.inr r, t2) → ms = .inl e → failed e) ∧
    (∀ r l, t1.launchArgs pkg ctx b n = (.inr r, t2) → ms = .inr l →
      (t2.partitionBad pkg kind mask r l = true → failed 6) ∧
      (t2.partitionBad pkg kind mask r l = false → ∃ t' g, exec i s = .next t' ∧ t'.mem = s.mem ∧ t'.gangs = s.gangs ++ [g] ∧ g.pkg = pkg ∧ g.queue = q ∧
        g.index = s.qRidx pkg q ∧ g.rcd = r ∧ g.kind = kind ∧ g.members = l ∧ g.report = leField b 0x10 8 ∧ g.st = 1 ∧ g.attempt = 0 ∧ g.timer = s.time ∧
        (∀ p ∈ g.parts, p.st = 0 ∧ p.inbox = [(.reserve, 0)] ∧ p.outbox = [] ∧ p.hold = none) ∧
        g.parts.map GangPart.dies = if kind = 3 then List.replicate (l.length + 1) (List.range 9) else dies))) ∧
  (∀ (s : State) (g : Gang) (p : GangPart) (a : Nat) (core : Nat), s.gang? g.id = some g → g.part? p.part = some p →
    let now := fun (t' : State) (f : Gang → GangPart → Prop) => ∃ g' p', t'.gang? g.id = some g' ∧ g'.part? p.part = some p' ∧ f g' p'
    let heads := fun (l : List (GangMsg × Nat)) (m : GangMsg) => l.head? = some (m, a)
    let idle := fun (i : Instr) => exec i s = .next s
    let others := s.gangs.find? fun x => x.id != g.id && x.parts.any fun r => r.st == 1 && r.pkg == p.pkg && r.dies == p.dies
    let sent := fun (g' : Gang) (m : GangMsg) => ∀ x ∈ g'.parts, x.inbox.getLast? = some (m, g.attempt)
    let rolled := fun (t' : State) => ∃ g', t'.gang? g.id = some g' ∧ g'.st = 2 ∧ g'.timer = s.time ∧ sent g' .release ∧ ∀ x ∈ g'.parts, x.ok = false
    -- messages that are not next, and timers that have not run out
    ((∀ x, p.inbox.head? ≠ some (.reserve, x)) → idle (.reserve g.id p.part core)) ∧
    ((∀ x, p.inbox.head? ≠ some (.commit, x)) → idle (.commit g.id p.part)) ∧
    ((∀ x, p.inbox.head? ≠ some (.release, x)) → idle (.release g.id p.part)) ∧
    ((∀ x, p.outbox.head? ≠ some (.held, x)) → idle (.held g.id p.part)) ∧
    ((∀ x, p.outbox.head? ≠ some (.no, x)) → idle (.gangNo g.id p.part)) ∧
    ((g.st ≠ 1 ∨ s.time < g.timer + 100000) → idle (.reserveTimerExpiry g.id)) ∧
    ((p.st ≠ 1 ∨ s.time < p.timer + 120000) → idle (.holdTimerExpiry g.id p.part)) ∧
    ((g.st ≠ 2 ∨ s.time < g.timer + 100000 * 2 ^ min g.attempt 4) → idle (.backoffExpiry g.id)) ∧
    ((p.st ≠ 2 ∨ s.time < p.start) → idle (.gangPartStart g.id p.part)) ∧
    -- the part
    (s.agentsRun p.pkg = true →
      (heads p.inbox .reserve →
        (p.st ≠ 0 ∨ (∃ x, others = some x ∧ g.older x = false) ∨ (others = none ∧ s.holdAt g p core = none ∧ s.canHold g p = false) →
          ∃ t', exec (.reserve g.id p.part core) s = .next t' ∧ now t' fun _ p' =>
            p'.inbox = p.inbox.drop 1 ∧ p'.outbox = p.outbox ++ [(.no, a)] ∧ p'.st = p.st ∧ p'.hold = p.hold) ∧
        (∀ h, p.st = 0 → others = none → s.holdAt g p core = some h →
          ∃ t', exec (.reserve g.id p.part core) s = .next t' ∧ now t' fun _ p' =>
            p'.inbox = p.inbox.drop 1 ∧ p'.outbox = p.outbox ++ [(.held, a)] ∧ p'.st = 1 ∧ p'.hold = some h ∧ p'.timer = s.time ∧ p'.core = core) ∧
        (∀ x h, p.st = 0 → others = some x → g.older x = true →
          let t := s.modGang x.id fun y => { y with parts := y.parts.map fun (r : GangPart) =>
            if r.st = 1 ∧ r.pkg = p.pkg ∧ r.dies = p.dies then r.free.answer .no y.attempt else r }
          t.holdAt g p core = some h → ∃ t', exec (.reserve g.id p.part core) s = .next t' ∧
            (now t' fun _ p' => p'.outbox = p.outbox ++ [(.held, a)] ∧ p'.st = 1 ∧ p'.hold = some h) ∧
            ∃ x', t'.gang? x.id = some x' ∧ ∀ r ∈ x'.parts, ¬ (r.st = 1 ∧ r.pkg = p.pkg ∧ r.dies = p.dies))) ∧
      (heads p.inbox .release → ∃ t', exec (.release g.id p.part) s = .next t' ∧ now t' fun _ p' =>
        p'.inbox = p.inbox.drop 1 ∧ (p.st = 1 → p'.st = 0 ∧ p'.hold = none) ∧ (p.st ≠ 1 → p'.st = p.st ∧ p'.hold = p.hold)) ∧
      (heads p.inbox .commit → p.st = 1 → ∃ t', exec (.commit g.id p.part) s = .next t' ∧ now t' fun _ p' =>
        p'.inbox = p.inbox.drop 1 ∧ p'.st = 2 ∧ p'.start = g.start ∧ p'.late = decide (g.start < s.time) ∧ p'.hold = p.hold)) ∧
    (p.st = 1 → p.timer + 120000 ≤ s.time → ∃ t', exec (.holdTimerExpiry g.id p.part) s = .next t' ∧ now t' fun _ p' => p'.st = 0 ∧ p'.hold = none) ∧
    (∀ u, g.kind ≠ 3 → p.part ≠ rootPart → p.st = 2 → p.start ≤ s.time → s.agentsRun p.pkg = true → (∀ x ∈ s.gangs, x.id = g.id → x = g) →
      let t := s.modPart g.id p.part fun x => { x with st := 3, hold := none }
      let tr : Tree := ⟨t.next, p.pkg, g.ctx, g.rcd, g.queue, g.index, g.tag, g.report, g.id, p.part, p.late, g.attempt, p.dies, g.members, 0⟩
      State.startRoot { t with trees := t.trees ++ [tr], next := t.next + 1 } tr 0 p.core = some u →
      ∃ t', exec (.gangPartStart g.id p.part) s = .next t' ∧ (now t' fun _ p' => p'.st = 3 ∧ p'.hold = none) ∧ tr ∈ t'.trees ∧
        ∃ root ∈ t'.tiles, root.tree = tr.id ∧ root.parent = none ∧ root.live = true ∧ root.core = p.core ∧ root.pkg = p.pkg) ∧
    -- the coordinator
    (s.agentsRun g.pkg = true →
      (heads p.outbox .held → g.st = 1 → a = g.attempt → s.time ≤ g.timer + 100000 →
        ((∃ x ∈ g.parts, x.part ≠ p.part ∧ x.ok = false) → ∃ t', exec (.held g.id p.part) s = .next t' ∧ t'.mem = s.mem ∧ now t' fun g' p' =>
          p'.outbox = p.outbox.drop 1 ∧ p'.ok = true ∧ g'.st = 1) ∧
        ((∀ x ∈ g.parts, x.part ≠ p.part → x.ok = true) → s.headReady g.pkg g.queue = true → s.qRidx g.pkg g.queue = g.index →
          s.num (s.queueKey g.pkg g.queue + 0x20) 8 = 0 →
          ∃ t' g', exec (.held g.id p.part) s = .next t' ∧ t'.gang? g.id = some g' ∧ g'.st = 3 ∧ sent g' .commit ∧
            g'.start = (let soon := s.time + (if g.kind = 3 then 100000 else 10000); if g.rcd.timed then max g.rcd.t0 soon else soon) ∧
            t'.qRidx g.pkg g.queue = (g.index + 1) % 2 ^ 64 ∧ ∃ x ∈ t'.qpkts, x.pkg = g.pkg ∧ x.queue = g.queue ∧ x.index = g.index)) ∧
      (heads p.outbox .no → g.st = 1 → a = g.attempt → ∃ t', exec (.gangNo g.id p.part) s = .next t' ∧ t'.mem = s.mem ∧ rolled t') ∧
      (g.st = 2 → g.timer + 100000 * 2 ^ min g.attempt 4 ≤ s.time → s.qRidx g.pkg g.queue = g.index →
        ∃ t' g', exec (.backoffExpiry g.id) s = .next t' ∧ t'.mem = s.mem ∧ t'.gang? g.id = some g' ∧ g'.st = 1 ∧ g'.attempt = g.attempt + 1 ∧ g'.timer = s.time ∧
          ∀ x ∈ g'.parts, x.inbox.getLast? = some (.reserve, g.attempt + 1))) ∧
    (g.st = 1 → g.timer + 100000 ≤ s.time → ∃ t', exec (.reserveTimerExpiry g.id) s = .next t' ∧ t'.mem = s.mem ∧ rolled t'))

/-- R423 to R426, R434: the host; the layout of arguments and bodies is the model's (log entry 25). -/
def Obligations.HostCommandResults : Prop :=
  (∀ (s : State) (pkg ctx hnd off n kind : Nat) (data : List Byte) (ks : List Nat),
    let said := fun (i : Instr) (k : Nat) (bs : List Byte) => exec i s = .next (s.tell pkg k bs)
    (s.rdmaKeys pkg ctx hnd 2 off data.length = none → said (.rdmaWrite pkg ctx hnd off data) 4 []) ∧
    (s.rdmaKeys pkg ctx hnd 2 off data.length = some ks → ks.Nodup → s.poison = [] →
      (∀ k ∈ ks, (∀ c ∈ s.cmds, inSpans c.src k = false ∧ inSpans c.dst k = false) ∧ s.vatHolding k = none ∧ ∀ o ∈ s.liveBars, k < o ∨ o + 32 ≤ k) →
      ∃ t', exec (.rdmaWrite pkg ctx hnd off data) s = .next t' ∧ t'.host = s.host ++ [⟨pkg, 6, []⟩] ∧ ks.map t'.byte = data ∧
        (∀ k, k ∉ ks → t'.byte k = s.byte k) ∧ t'.g = s.g ∧ t'.groups = s.groups) ∧
    (s.rdmaKeys pkg ctx hnd 1 off n = none → said (.rdmaRead pkg ctx hnd off n) 4 []) ∧
    (s.rdmaKeys pkg ctx hnd 1 off n = some ks → (∀ k ∈ ks, s.poisonedAt k 1 = false) → said (.rdmaRead pkg ctx hnd off n) 5 (ks.map s.byte)) ∧
    (s.rdmaKeys pkg ctx hnd 1 off n = some ks → (∃ k ∈ ks, s.poisonedAt k 1 = true) → said (.rdmaRead pkg ctx hnd off n) 4 []) ∧
    said (.rdmaNak pkg kind) 4 (bytesOf 4 kind)) ∧
  (∀ (s : State) (pkg : Nat) (msg : List Byte),
    let p := s.pkg pkg
    let x := leField msg 4 4
    let well := fun (c args : Nat) => s.powered pkg = true ∧ msg.length = 64 ∧ leField msg 0 1 = c ∧ leField msg 1 1 = 0 ∧ ∀ b ∈ msg.drop (4 + args), b = 0
    let all := [(Instr.query pkg msg, 1, 0), (Instr.setp pkg msg, 2, 4), (Instr.setfloor pkg msg, 3, 4), (Instr.attest pkg msg, 5, 36),
      (Instr.idkey pkg msg, 6, 4), (Instr.joinmem pkg msg, 7, 0)]
    let answers := fun (i : Instr) (st : Nat) (body : List Byte) => exec i s = .next (s.answer pkg msg st body)
    let pkgIs := fun (t' : State) (q : Package) => t'.pkg pkg = q ∧ ∀ k, k ≠ pkg → t'.pkg k = s.pkg k
    let die := p.die x
    let id := 16 * pkg + x
    let report := s.attestBody pkg die id ((msg.drop 8).take 32)
    (∀ i ∈ all, ((s.powered pkg = false ∨ msg.length ≠ 64) → exec i.1 s = .next s) ∧
      (s.powered pkg = true → msg.length = 64 → (leField msg 0 1 = 0 ∨ 7 < leField msg 0 1) → answers i.1 1 []) ∧
      (s.powered pkg = true → msg.length = 64 → 1 ≤ leField msg 0 1 → leField msg 0 1 ≤ 7 → leField msg 0 1 ≠ i.2.1 → exec i.1 s = .next s) ∧
      (s.powered pkg = true → msg.length = 64 → leField msg 0 1 = i.2.1 → (leField msg 1 1 ≠ 0 ∨ ∃ b ∈ msg.drop (4 + i.2.2), b ≠ 0) → answers i.1 1 [])) ∧
    (well 1 0 → answers (.query pkg msg) 0 (bytesOf 1 p.service ++ bytesOf 1 p.pstate ++ (p.dies.map fun d => BitVec.ofNat 8 (dieCode d.st)) ++
      (p.hbm.map fun t => BitVec.ofNat 8 (stackCode t)) ++ bytesOf 1 (if p.trip then 1 else 0))) ∧
    (well 2 4 → let free := !s.crews.any fun c => c.pkg == pkg
      (4 < x → x ≠ 7 → answers (.setp pkg msg) 1 []) ∧
      ((x ≤ 4 ∨ x = 7) → powerAccepted p.pstate x free = false → answers (.setp pkg msg) 2 []) ∧
      (x ≤ 4 → powerAccepted p.pstate x free = true → ∃ t', exec (.setp pkg msg) s = .next t' ∧ pkgIs t' { p with pstate := x } ∧
        (x ≠ 4 ∨ (s.net = [] ∧ s.cmds = []) → t'.mem = s.mem)) ∧
      (x = 7 → powerAccepted p.pstate x free = true → ∃ t', exec (.setp pkg msg) s = .next t' ∧
        pkgIs t' { Package.reset pkg with member := p.member, reachable := p.reachable, pstate := 7 } ∧
        (∀ k, keyPkgOf k = pkg → s.net = [] → (∀ c ∈ s.cmds, ∀ sp ∈ c.dst, ∀ j < sp.2, keyPkgOf (sp.1 + j) = keyPkgOf sp.1) → (∀ u ∈ s.undef, u.1 ≤ k → k < u.2.1 → keyPkgOf u.1 = pkg) → t'.byte k = Config.unwritten) ∧
        ∀ c ∈ t'.crews, c.pkg ≠ pkg)) ∧
    (well 3 4 → (1000000 < x → answers (.setfloor pkg msg) 1 []) ∧
      (x ≤ 1000000 → ∃ t', exec (.setfloor pkg msg) s = .next t' ∧ pkgIs t' { p with stag := x } ∧ t'.mem = s.mem)) ∧
    ((s.powered pkg = false ∨ msg.length ≠ 64) → exec (.cleartrip pkg msg) s = .next { s with free := s.free + 1 }) ∧
    (well 4 0 → ∃ t' st, exec (.cleartrip pkg msg) s = .next t' ∧ t'.mem = s.mem ∧
      ((st = 0 ∧ pkgIs t' { p with trip := false }) ∨ (st = 2 ∧ t'.pkgs = s.pkgs)) ∧ t'.host = (s.answer pkg msg st []).host) ∧
    (well 5 36 → (8 < x → answers (.attest pkg msg) 1 []) ∧ (x ≤ 8 → die.st ≠ .ready → answers (.attest pkg msg) 3 []) ∧
      (x ≤ 8 → die.st = .ready → answers (.attest pkg msg) 0 (report ++ octets 48 (Config.signR id report) ++ octets 48 (Config.signS id report)))) ∧
    (well 6 4 → (8 < x → answers (.idkey pkg msg) 1 []) ∧ (x ≤ 8 → die.st ≠ .ready → answers (.idkey pkg msg) 3 []) ∧
      (x ≤ 8 → die.st = .ready → answers (.idkey pkg msg) 0 (bytesOf 1 4 ++ octets 48 (Config.publicX id) ++ octets 48 (Config.publicY id)))) ∧
    (well 7 0 → ((∃ c, 1 ≤ c ∧ c < 4096 ∧ s.ctxLive pkg c = true) → answers (.joinmem pkg msg) 2 []) ∧
      ((∀ c, 1 ≤ c → c < 4096 → s.ctxLive pkg c = false) → p.service ≠ 0 →
        ∃ t', exec (.joinmem pkg msg) s = .next t' ∧ (t'.pkg pkg).inService = p.readyStacks)))

/-- R365, R411, R426 to R433: bring-up, trips, resets, soft errors. -/
def Obligations.PowerAndResetResults : Prop :=
  (∀ (s : State) (pkg die stack core : Nat) (image : List Byte) (pass : Bool),
    let p := s.pkg pkg
    let d := p.die die
    let inDies := die < p.dies.length
    let frame := fun (t' : State) => ∀ k, k ≠ pkg → t'.pkg k = s.pkg k
    let dieIs := fun (i : Instr) (x : Die) => ∃ t', exec i s = .next t' ∧ (t'.pkg pkg).die die = x ∧ frame t'
    (((s.pkg? pkg).isSome = true ∨ (if s.extended then 4096 else 1024) ≤ pkg) → exec (.powerOn pkg) s = .next s) ∧
    (s.pkg? pkg = none → pkg < (if s.extended then 4096 else 1024) → ∃ t', exec (.powerOn pkg) s = .next t' ∧ t'.pkg pkg = Package.reset pkg ∧ frame t' ∧ t'.mem = s.mem) ∧
    (s.powered pkg = false → ∀ i ∈ [Instr.firmwareLoaded pkg die image, .firmwareVerified pkg die, .stackTrainingDone pkg stack pass, .dieLinksUp pkg die, .thermalCalibrationDone pkg,
      .thermalTrip pkg, .coreReset pkg core, .dieReset pkg die, .packageReset pkg], exec i s = .next s) ∧
    (s.powered pkg = true → inDies →
      (d.st = .rom → dieIs (.firmwareLoaded pkg die image) { d with st := .verify, fwBytes := image }) ∧
      (d.st ≠ .rom → dieIs (.firmwareLoaded pkg die image) d) ∧
      (d.st ≠ .verify → exec (.firmwareVerified pkg die) s = .next s) ∧
      (d.st = .verify → Config.imageAccepted die d.fwBytes = false → dieIs (.firmwareVerified pkg die) { d with st := .failed }) ∧
      (d.st = .verify → Config.imageAccepted die d.fwBytes = true → p.hbm.length = 12 → ∃ t', exec (.firmwareVerified pkg die) s = .next t' ∧
        ((∀ q ∈ s.pkgs, q.service = 0 ∧ q.num < 1024) → t'.extended = Config.extendedAsked pkg d.fwBytes) ∧ ((∃ q ∈ s.pkgs, 2 ≤ q.service) → t'.extended = s.extended) ∧
        ((t'.pkg pkg).die die).fw = some (Config.imageVersion d.fwBytes, Config.sha384 d.fwBytes) ∧
        (∀ k ∈ dieStacks die, (t'.pkg pkg).hbm.getD k .untrained = .training) ∧
        ((t'.pkg pkg).die die).st = if d.links = true ∧ dieStacks die = [] then .ready else .training) ∧
      (d.st = .failed → exec (.dieLinksUp pkg die) s = .next s) ∧
      (d.st ≠ .failed → ∃ t', exec (.dieLinksUp pkg die) s = .next t' ∧ ((t'.pkg pkg).die die).links = true ∧
        ((t'.pkg pkg).die die).st = if d.st = .training ∧ ∀ k ∈ dieStacks die, p.hbm.getD k .untrained = .ready ∨ p.hbm.getD k .untrained = .failed then .ready else d.st)) ∧
    (s.powered pkg = true → p.hbm.getD stack .untrained ≠ .training → exec (.stackTrainingDone pkg stack pass) s = .next s) ∧
    (s.powered pkg = true → p.hbm.getD stack .untrained = .training → ∃ t', exec (.stackTrainingDone pkg stack pass) s = .next t' ∧
      ((t'.pkg pkg).hbm.getD stack .untrained = if pass then .ready else .failed) ∧
      ∀ k < 9, (p.die k).st = .training → (p.die k).links = true →
        (∀ j ∈ dieStacks k, (t'.pkg pkg).hbm.getD j .untrained = .ready ∨ (t'.pkg pkg).hbm.getD j .untrained = .failed) → ((t'.pkg pkg).die k).st = .ready) ∧
    (s.powered pkg = true → ∃ t', exec (.thermalCalibrationDone pkg) s = .next t' ∧ (t'.pkg pkg).thermal = true ∧ frame t') ∧
    (s.powered pkg = true → p.trip = true → exec (.thermalTrip pkg) s = .next s) ∧
    (s.powered pkg = true → p.trip = false → ∃ t', exec (.thermalTrip pkg) s = .next t' ∧ t'.pkg pkg = { p with trip := true, tripAt := s.time } ∧ frame t' ∧
      t'.mem = s.mem ∧ t'.host = s.host ++ [⟨pkg, 3, bytesOf 4 3 ++ List.replicate 60 0⟩]) ∧
    (s.powered pkg = true → (s.core pkg core).released = true → ∃ t', exec (.coreReset pkg core) s = .next t' ∧ t'.mem = s.mem ∧
      (let c := t'.core pkg core
       c.released = true ∧ c.hvec = 4 * Config.bootVector pkg core % 2 ^ 64 ∧ c.ecause = 0 ∧ c.epc = 0 ∧ c.einfo = 0 ∧ c.preq = 0 ∧ c.grace = 20 ∧
       c.slotFault = decide (c.hvec = 0) ∧ c.cur = none ∧ c.evq = (s.core pkg core).cur.toList ++ (s.core pkg core).evq) ∧
      (∃ v h : Group, t'.groups = (s.dropGroups fun g => g.priv && g.pkg == pkg && g.core == core && g.id != 0).groups ++ [v, h] ∧
        (∀ x ∈ [v, h], x.priv = true ∧ x.pkg = pkg ∧ x.core = core ∧ x.ctx = 0) ∧
        v.handler = false ∧ v.splits.map Split.pc = [4 * Config.bootVector pkg core % 2 ^ 64] ∧ h.handler = true ∧ h.splits = []) ∧
      t'.crews.map Crew.id = s.crews.map Crew.id) ∧
    (s.powered pkg = true → 9 ≤ die → exec (.dieReset pkg die) s = .next s) ∧
    (s.powered pkg = true → die < 9 → inDies → ∃ t', exec (.dieReset pkg die) s = .next t' ∧ ((t'.pkg pkg).die die).dmem = 0 ∧ ((t'.pkg pkg).die die).busy = false) ∧
    (s.powered pkg = true → ∃ t', exec (.packageReset pkg) s = .next t' ∧ t'.pkg pkg = { p with slice := 0, pctx := 0 } ∧ frame t' ∧ t'.mem = s.mem) ∧
    ((s.pkg? pkg).isNone = true → exec (.powerCycle pkg) s = .next s) ∧
    ((s.pkg? pkg).isSome = true → ∃ t', exec (.powerCycle pkg) s = .next t' ∧ t'.pkg pkg = { Package.reset pkg with member := p.member } ∧ frame t' ∧
      (∀ c ∈ t'.crews, c.pkg ≠ pkg) ∧ (∀ c ∈ t'.cores, c.pkg ≠ pkg) ∧
      ∀ k, keyPkgOf k = pkg → s.net = [] → (∀ c ∈ s.cmds, ∀ sp ∈ c.dst, ∀ j < sp.2, keyPkgOf (sp.1 + j) = keyPkgOf sp.1) →
        (∀ u ∈ s.undef, u.1 ≤ k → k < u.2.1 → keyPkgOf u.1 = pkg) → t'.byte k = Config.unwritten)) ∧
  (∀ (s : State) (addr idx : Nat),
    let hit := fun (k : Nat) => exec (.softError k addr idx false) s
    (∀ c ∈ s.cmds, c.id = addr → exec (.softError 4 addr idx true) s = .next { s with corrected := addr :: s.corrected }) ∧
    (∀ k, k ≠ 4 → exec (.softError k addr idx true) s = .next s) ∧
    (∃ t', hit 0 = .next t' ∧ eccWord addr ∈ t'.poison ∧ t'.mem = s.mem ∧ ∀ w, w ≠ eccWord addr → (w ∈ t'.poison ↔ w ∈ s.poison)) ∧
    (∀ g, s.theGroup addr g →
      let of := fun (k : Nat) (f : Group → Prop) => ∃ t', hit k = .next t' ∧ t'.mem = s.mem ∧ ∃ h ∈ t'.allGroups, h.id = addr ∧ f h
      (idx / 8192 < g.lanes.length → of 1 fun h => idx % 8192 ∈ (h.lane (idx / 8192)).poison) ∧
      (idx % 72 ≠ 0 → of 2 fun h => idx % 72 ∈ h.bad) ∧ (idx % 72 = 0 → of 2 fun h => h = g) ∧
      (idx / 8 < g.lanes.length → of 3 fun h => 2 ^ 20 + idx % 8 ∈ (h.lane (idx / 8)).poison) ∧
      ∀ v vs, g.portQ (idx / 64) (idx % 64) = v :: vs → of 5 fun h => h.portQ (idx / 64) (idx % 64) = { v with bad := true } :: vs))

/-- R214 to R226: sample words of every form. -/
def Obligations.DecodeKnownWords : Prop :=
  decode false 0x00000000 0 0 = .ok (.nop ⟨0, 0⟩) ∧
  decode false 0x00040000 0 0 = .ok (.yield ⟨0, 0⟩) ∧
  decode false 0x100C1094 0 0 = .ok (.iadd 3 1 2 ⟨1, 4⟩) ∧
  decode false 0x32140FC0 0 0 = .ok (.movi 5 63 ⟨0, 0⟩) ∧
  decode false 0x2F081000 0x00002003 0 = .ok (.icmp 2 1 3 2 ⟨0, 0⟩) ∧
  decode false 0x05FFFFF2 0 0 = .ok (.braJ 0xFFFFF 2) ∧
  decode false 0x400420C0 0 0 = .ok (.sadd 1 2 3 ⟨0, 0⟩) ∧
  decode false 0x63105180 0 0 = .ok (.ffma 4 5 6 ⟨0, 0⟩) ∧
  decode false 0x98202040 0 0 = .ok (.ldI 8 2 1 ⟨0, 0⟩) ∧
  decode false 0xB3106040 0 0 = .ok (.barw 4 6 1 ⟨0, 0⟩) ∧
  decode true 0xC11C0000 0x2000 0 = .ok (.csrr 7 0x2000 ⟨0, 0⟩) ∧
  decode false 0xE024945A 0 0 = .ok (.mma 1 9 10 11) ∧
  decode false 0xE0000215 0 0 = .ok (.launch 0 0 1 2) ∧
  decode false 0x37000000 0 0 = .error .illegal ∧
  decode false 0xE0000007 0 0 = .error .illegal ∧
  decode false 0x00001000 0 0 = .error .illegal ∧
  decode false 0xC11C0000 0x2000 0 = .error .priv ∧
  decode false 0xC11C1000 0x2000 0 = .error .priv

/-- R213 to R226: decode of encode is the identity, every operand at every value its field admits. -/
def Obligations.DecodeOfEncode : Prop :=
  ∀ (i : Instr) (x y : Word), i.isEvent = false → i.wf = true →
    ∃ w l1 l2 rest, encode i ++ [x, y] = w :: l1 :: l2 :: rest ∧ decode (privSlot i) w l1 l2 = .ok i ∧ wordCount w = (encode i).length

/-- R213 to R226: no bit of a word is dropped by the decoder. -/
def Obligations.EncodeOfDecode : Prop :=
  ∀ (slot : Bool) (w l1 l2 : Word),
    (∀ i, decode slot w l1 l2 = .ok i → encode i = [w, l1, l2].take (wordCount w) ∧ i.isEvent = false) ∧
    (decode slot w l1 l2 = .error .priv → slot = false ∧ 0xC0 ≤ w.toNat / 2 ^ 24 ∧ w.toNat / 2 ^ 24 ≤ 0xCE)

/-- R213, R226: fetch, decode and exec make a step; the agenda is the model's (log entry 3). -/
def Obligations.StepRunsDecoded : Prop :=
  (∀ (s : State) (dt gid idx : Nat) (rest : List Turn), s.agenda = ⟨dt, .issue gid idx⟩ :: rest →
    let s0 := { s with agenda := rest, time := s.time + dt }
    let t := s0.onSplit gid idx
    ((t.g.id = gid ∧ t.canIssue = true) →
      (∀ w l1 l2 t', t.fetch = (.words w l1 l2, t') →
        (∀ i, decode t'.g.priv w l1 l2 = .ok i → step s = exec i t') ∧
        (decode t'.g.priv w l1 l2 = .error .illegal → step s = .next (t'.takeTrap 0x01 0 t'.g.lowLane)) ∧
        (decode t'.g.priv w l1 l2 = .error .priv → t'.g.priv = false → step s = .next (t'.takeTrap 0x02 0 t'.g.lowLane))) ∧
      (∀ c t', t.fetch = (.trap c, t') → step s = .next (t'.takeTrap c 0 t'.g.lowLane))) ∧
    (¬ (t.g.id = gid ∧ t.canIssue = true) → step s = .next s0)) ∧
  (∀ (s : State) (dt : Nat) (i : Instr) (rest : List Turn), s.agenda = ⟨dt, .event i⟩ :: rest → i.isEvent = true →
    step s = exec i { s with agenda := rest, time := s.time + dt }) ∧
  (∀ (s : State) (pc pkg off pa : Nat), s.place s.g pc = some (.home pkg off) → pc % 4 = 0 →
    (s.translate pkg s.g.ctx off 4).1 = some pa → (s.translate pkg s.g.ctx off 4).2.poisonedAt (keyPkg pkg pa) 4 = false →
      let k := keyPkg pkg pa
      let m := (s.translate pkg s.g.ctx off 4).2
      (s.fetchWord pc).1 = .inl (BitVec.ofNat 32 ((m.byte k).toNat + 2 ^ 8 * (m.byte (k + 1)).toNat + 2 ^ 16 * (m.byte (k + 2)).toNat + 2 ^ 24 * (m.byte (k + 3)).toNat)))

/-- R226, R362, R371, R401: issue and traps. -/
def Obligations.IssueChecksAndTraps : Prop :=
  (∀ (i : Instr) (s m : State), i.isEvent = false → m = s.merged → (s.g.split? s.g.cur).isSome = true →
    let u := uses m i
    let trap := fun (c : Nat) => exec i s = .next (m.takeTrap c 0 m.g.lowLane)
    (∃ t, exec i s = .next t) ∧
    (privSlot i = true → m.g.priv = false → trap 0x02) ∧
    ((privSlot i = true → m.g.priv = true) →
      (i.wf = false → trap 0x01) ∧
      (i.wf = true → m.g.chk = true → m.g.early u = true → trap 0x03 ∨ trap 0x01) ∧
      (i.wf = true → (m.g.chk && m.g.early u) = false → m.g.blocked u = true →
        exec i s = .next (m.setG (m.g.waitAt .held m.time)) ∨ trap 0x01) ∧
      (i.wf = true → (m.g.chk && m.g.early u) = false → m.g.blocked u = false → m.g.poisoned u = true →
        exec i s = .next (m.takeTrap 0x0A 0 (m.g.poisonLane u)) ∨ trap 0x01))) ∧
  (∀ (i : Instr) (s : State), i.isEvent = false → s.g.split? s.g.cur = none → exec i s = .fault .noIssuer) ∧
  (∀ (s : State) (code arg lane : Nat), s.g.priv = true →
    let t := s.takeTrap code arg lane
    (t.core s.g.pkg s.g.core).slotFault = true ∧ t.g = s.g ∧ t.groups = s.groups ∧ t.mem = s.mem ∧
      t.host = s.host ++ [⟨s.g.pkg, 2, bytesOf 4 2 ++ bytesOf 4 code ++ bytesOf 8 s.g.pc ++ bytesOf 4 s.g.core ++ List.replicate 44 0⟩]) ∧
  (∀ (s : State) (c : Crew) (code arg lane : Nat), s.g.priv = false → s.crew? s.g.crew = some c → c.st = .run →
    let t := s.takeTrap code arg lane
    let pc := if code = 0x0C ∨ code = 0x0D then (s.g.pc + 4) % 2 ^ 64 else s.g.pc
    t.g.rest = s.g.rest ∧ t.mem = s.mem ∧ s.g.keepsRegs t.g none2 none2 none1 none1 ∧ (t.g.stop.map Stop.pc) = some pc ∧
      ∃ d, t.crew? c.id = some d ∧ d.st = .halting ∧ d.event = some ⟨code, c.num, s.g.num, arg, 0, pc, lane⟩)

/-- R428 to R431; the values the spec leaves open are log entry 4's. -/
def Obligations.ResetState : Prop :=
  State.reset.sound ∧ State.reset.mem = [] ∧ (∀ k, State.reset.byte k = Config.unwritten) ∧
  State.reset.pkgs.length = 1 ∧
  (∀ p ∈ State.reset.pkgs, p.dies.length = 9 ∧ (∀ d ∈ p.dies, d.st = .rom ∧ d.links = false ∧ d.fw = none) ∧
    p.hbm.length = 12 ∧ (∀ h ∈ p.hbm, h = .untrained) ∧ p.service = 0 ∧ p.trip = false ∧ p.thermal = false ∧ p.inService = []) ∧
  State.reset.crews = [] ∧ State.reset.groups = [] ∧ State.reset.g.splits = [] ∧ State.reset.tiles = [] ∧ State.reset.cmds = [] ∧
  State.reset.qpkts = [] ∧ State.reset.lines = [] ∧ State.reset.tlb = [] ∧ State.reset.poison = [] ∧
  (∀ gid idx, (State.reset.onSplit gid idx).canIssue = false)

/-- The canonical form of memory, which every turn of every agent keeps. -/
def Obligations.StepKeepsSound : Prop := ∀ s : State, s.sound → soundStep s
end

