-- ==== Sys2Proof/Laws/Arms.lean ====
section
/-! SUPPORT. exec unfolded, one lemma per instruction: the arm is the instruction's meaning. -/

namespace Sys2Proof.Machine

open Host (Outcome)

variable (σ : State)

@[simp] theorem exec_nop (ann : Ann) : exec (.nop ann) σ = execNop ann σ := rfl
@[simp] theorem exec_yield (ann : Ann) : exec (.yield ann) σ = execYield ann σ := rfl
@[simp] theorem exec_setm (i : BitVec 24) : exec (.setm i) σ = execSetm i σ := rfl
@[simp] theorem exec_setmh (i : BitVec 24) : exec (.setmh i) σ = execSetmh i σ := rfl
@[simp] theorem exec_getm (d : BitVec 6) (ann : Ann) : exec (.getm d ann) σ = execGetm d ann σ := rfl
@[simp] theorem exec_gets (d : BitVec 6) (a : BitVec 6) (ann : Ann) : exec (.gets d a ann) σ = execGets d a ann σ := rfl
@[simp] theorem exec_braJ (o : BitVec 20) (s : BitVec 4) : exec (.braJ o s) σ = execBraJ o s σ := rfl
@[simp] theorem exec_braL (pn : BitVec 1) (p : BitVec 3) (off : Word) (ann : Ann) : exec (.braL pn p off ann) σ = execBraL pn p off ann σ := rfl
@[simp] theorem exec_brx (a : BitVec 6) (ann : Ann) : exec (.brx a ann) σ = execBrx a ann σ := rfl
@[simp] theorem exec_call (n : BitVec 6) (off : Word) (ann : Ann) : exec (.call n off ann) σ = execCall n off ann σ := rfl
@[simp] theorem exec_callx (d : BitVec 6) (a : BitVec 6) (ann : Ann) : exec (.callx d a ann) σ = execCallx d a ann σ := rfl
@[simp] theorem exec_ret (d : BitVec 6) (ann : Ann) : exec (.ret d ann) σ = execRet d ann σ := rfl
@[simp] theorem exec_exit (ann : Ann) : exec (.exit ann) σ = execExit ann σ := rfl
@[simp] theorem exec_trap (i : BitVec 6) (ann : Ann) : exec (.trap i ann) σ = execTrap i ann σ := rfl
@[simp] theorem exec_brk (i : BitVec 6) (ann : Ann) : exec (.brk i ann) σ = execBrk i ann σ := rfl
@[simp] theorem exec_wait (file : BitVec 2) (a : BitVec 6) (ann : Ann) : exec (.wait file a ann) σ = execWait file a ann σ := rfl
@[simp] theorem exec_sleep (a : BitVec 6) (ann : Ann) : exec (.sleep a ann) σ = execSleep a ann σ := rfl
@[simp] theorem exec_phint (r0 : BitVec 6) (r1 : BitVec 6) (lo : Word) (hi : Word) (ann : Ann) : exec (.phint r0 r1 lo hi ann) σ = execPhint r0 r1 lo hi ann σ := rfl
@[simp] theorem exec_iadd (d : BitVec 6) (a : BitVec 6) (b : BitVec 6) (ann : Ann) : exec (.iadd d a b ann) σ = execIadd d a b ann σ := rfl
@[simp] theorem exec_isub (d : BitVec 6) (a : BitVec 6) (b : BitVec 6) (ann : Ann) : exec (.isub d a b ann) σ = execIsub d a b ann σ := rfl
@[simp] theorem exec_iaddc (d : BitVec 6) (a : BitVec 6) (b : BitVec 6) (p : BitVec 3) (pn : BitVec 1) (ann : Ann) : exec (.iaddc d a b p pn ann) σ = execIaddc d a b p pn ann σ := rfl
@[simp] theorem exec_imul (d : BitVec 6) (a : BitVec 6) (b : BitVec 6) (ann : Ann) : exec (.imul d a b ann) σ = execImul d a b ann σ := rfl
@[simp] theorem exec_imulh (d : BitVec 6) (a : BitVec 6) (b : BitVec 6) (ann : Ann) : exec (.imulh d a b ann) σ = execImulh d a b ann σ := rfl
@[simp] theorem exec_imad (d : BitVec 6) (a : BitVec 6) (b : BitVec 6) (ann : Ann) : exec (.imad d a b ann) σ = execImad d a b ann σ := rfl
@[simp] theorem exec_ineg (d : BitVec 6) (a : BitVec 6) (ann : Ann) : exec (.ineg d a ann) σ = execIneg d a ann σ := rfl
@[simp] theorem exec_iabs (d : BitVec 6) (a : BitVec 6) (ann : Ann) : exec (.iabs d a ann) σ = execIabs d a ann σ := rfl
@[simp] theorem exec_imin (d : BitVec 6) (a : BitVec 6) (b : BitVec 6) (ann : Ann) : exec (.imin d a b ann) σ = execImin d a b ann σ := rfl
@[simp] theorem exec_imax (d : BitVec 6) (a : BitVec 6) (b : BitVec 6) (ann : Ann) : exec (.imax d a b ann) σ = execImax d a b ann σ := rfl
@[simp] theorem exec_and (d : BitVec 6) (a : BitVec 6) (b : BitVec 6) (ann : Ann) : exec (.and d a b ann) σ = execAnd d a b ann σ := rfl
@[simp] theorem exec_or (d : BitVec 6) (a : BitVec 6) (b : BitVec 6) (ann : Ann) : exec (.or d a b ann) σ = execOr d a b ann σ := rfl
@[simp] theorem exec_xor (d : BitVec 6) (a : BitVec 6) (b : BitVec 6) (ann : Ann) : exec (.xor d a b ann) σ = execXor d a b ann σ := rfl
@[simp] theorem exec_andn (d : BitVec 6) (a : BitVec 6) (b : BitVec 6) (ann : Ann) : exec (.andn d a b ann) σ = execAndn d a b ann σ := rfl
@[simp] theorem exec_not (d : BitVec 6) (a : BitVec 6) (ann : Ann) : exec (.not d a ann) σ = execNot d a ann σ := rfl
@[simp] theorem exec_shlR (d : BitVec 6) (a : BitVec 6) (b : BitVec 6) (ann : Ann) : exec (.shlR d a b ann) σ = execShlR d a b ann σ := rfl
@[simp] theorem exec_shrR (d : BitVec 6) (a : BitVec 6) (b : BitVec 6) (ann : Ann) : exec (.shrR d a b ann) σ = execShrR d a b ann σ := rfl
@[simp] theorem exec_shaR (d : BitVec 6) (a : BitVec 6) (b : BitVec 6) (ann : Ann) : exec (.shaR d a b ann) σ = execShaR d a b ann σ := rfl
@[simp] theorem exec_rolR (d : BitVec 6) (a : BitVec 6) (b : BitVec 6) (ann : Ann) : exec (.rolR d a b ann) σ = execRolR d a b ann σ := rfl
@[simp] theorem exec_shlI (d : BitVec 6) (a : BitVec 6) (i : BitVec 5) (ann : Ann) : exec (.shlI d a i ann) σ = execShlI d a i ann σ := rfl
@[simp] theorem exec_shrI (d : BitVec 6) (a : BitVec 6) (i : BitVec 5) (ann : Ann) : exec (.shrI d a i ann) σ = execShrI d a i ann σ := rfl
@[simp] theorem exec_shaI (d : BitVec 6) (a : BitVec 6) (i : BitVec 5) (ann : Ann) : exec (.shaI d a i ann) σ = execShaI d a i ann σ := rfl
@[simp] theorem exec_rolI (d : BitVec 6) (a : BitVec 6) (i : BitVec 5) (ann : Ann) : exec (.rolI d a i ann) σ = execRolI d a i ann σ := rfl
@[simp] theorem exec_fsh (d : BitVec 6) (a : BitVec 6) (i : BitVec 5) (ann : Ann) : exec (.fsh d a i ann) σ = execFsh d a i ann σ := rfl
@[simp] theorem exec_popc (d : BitVec 6) (a : BitVec 6) (ann : Ann) : exec (.popc d a ann) σ = execPopc d a ann σ := rfl
@[simp] theorem exec_clz (d : BitVec 6) (a : BitVec 6) (ann : Ann) : exec (.clz d a ann) σ = execClz d a ann σ := rfl
@[simp] theorem exec_brev (d : BitVec 6) (a : BitVec 6) (ann : Ann) : exec (.brev d a ann) σ = execBrev d a ann σ := rfl
@[simp] theorem exec_bfx (d : BitVec 6) (a : BitVec 6) (pos : BitVec 5) (len : BitVec 6) (ann : Ann) : exec (.bfx d a pos len ann) σ = execBfx d a pos len ann σ := rfl
@[simp] theorem exec_bfi (d : BitVec 6) (a : BitVec 6) (b : BitVec 6) (pos : BitVec 5) (len : BitVec 6) (ann : Ann) : exec (.bfi d a b pos len ann) σ = execBfi d a b pos len ann σ := rfl
@[simp] theorem exec_bperm (d : BitVec 6) (a : BitVec 6) (b : BitVec 6) (ann : Ann) : exec (.bperm d a b ann) σ = execBperm d a b ann σ := rfl
@[simp] theorem exec_sel (d : BitVec 6) (a : BitVec 6) (b : BitVec 6) (p : BitVec 3) (pn : BitVec 1) (ann : Ann) : exec (.sel d a b p pn ann) σ = execSel d a b p pn ann σ := rfl
@[simp] theorem exec_icmp (d : BitVec 3) (a : BitVec 6) (b : BitVec 6) (fn : BitVec 4) (ann : Ann) : exec (.icmp d a b fn ann) σ = execIcmp d a b fn ann σ := rfl
@[simp] theorem exec_iaddi (d : BitVec 6) (a : BitVec 6) (i : BitVec 6) (ann : Ann) : exec (.iaddi d a i ann) σ = execIaddi d a i ann σ := rfl
@[simp] theorem exec_mov (d : BitVec 6) (a : BitVec 6) (ann : Ann) : exec (.mov d a ann) σ = execMov d a ann σ := rfl
@[simp] theorem exec_movi (d : BitVec 6) (i : BitVec 6) (ann : Ann) : exec (.movi d i ann) σ = execMovi d i ann σ := rfl
@[simp] theorem exec_lit (d : BitVec 6) (x : Word) (ann : Ann) : exec (.lit d x ann) σ = execLit d x ann σ := rfl
@[simp] theorem exec_movs (d : BitVec 6) (a : BitVec 6) (ann : Ann) : exec (.movs d a ann) σ = execMovs d a ann σ := rfl
@[simp] theorem exec_movv (d : BitVec 6) (a : BitVec 6) (i : BitVec 6) (ann : Ann) : exec (.movv d a i ann) σ = execMovv d a i ann σ := rfl
@[simp] theorem exec_lea (d : BitVec 6) (a : BitVec 6) (b : BitVec 6) (ann : Ann) : exec (.lea d a b ann) σ = execLea d a b ann σ := rfl
@[simp] theorem exec_sadd (d : BitVec 6) (a : BitVec 6) (b : BitVec 6) (ann : Ann) : exec (.sadd d a b ann) σ = execSadd d a b ann σ := rfl
@[simp] theorem exec_ssub (d : BitVec 6) (a : BitVec 6) (b : BitVec 6) (ann : Ann) : exec (.ssub d a b ann) σ = execSsub d a b ann σ := rfl
@[simp] theorem exec_smul (d : BitVec 6) (a : BitVec 6) (b : BitVec 6) (ann : Ann) : exec (.smul d a b ann) σ = execSmul d a b ann σ := rfl
@[simp] theorem exec_sand (d : BitVec 6) (a : BitVec 6) (b : BitVec 6) (ann : Ann) : exec (.sand d a b ann) σ = execSand d a b ann σ := rfl
@[simp] theorem exec_sor (d : BitVec 6) (a : BitVec 6) (b : BitVec 6) (ann : Ann) : exec (.sor d a b ann) σ = execSor d a b ann σ := rfl
@[simp] theorem exec_sxor (d : BitVec 6) (a : BitVec 6) (b : BitVec 6) (ann : Ann) : exec (.sxor d a b ann) σ = execSxor d a b ann σ := rfl
@[simp] theorem exec_sshl (d : BitVec 6) (a : BitVec 6) (b : BitVec 6) (ann : Ann) : exec (.sshl d a b ann) σ = execSshl d a b ann σ := rfl
@[simp] theorem exec_sshr (d : BitVec 6) (a : BitVec 6) (b : BitVec 6) (ann : Ann) : exec (.sshr d a b ann) σ = execSshr d a b ann σ := rfl
@[simp] theorem exec_scmp (d : BitVec 3) (a : BitVec 6) (b : BitVec 6) (fn : BitVec 4) (ann : Ann) : exec (.scmp d a b fn ann) σ = execScmp d a b fn ann σ := rfl
@[simp] theorem exec_smovSS (d : BitVec 6) (a : BitVec 6) (ann : Ann) : exec (.smovSS d a ann) σ = execSmovSS d a ann σ := rfl
@[simp] theorem exec_smovFS (d : BitVec 3) (a : BitVec 6) (ann : Ann) : exec (.smovFS d a ann) σ = execSmovFS d a ann σ := rfl
@[simp] theorem exec_smovSF (d : BitVec 6) (a : BitVec 3) (ann : Ann) : exec (.smovSF d a ann) σ = execSmovSF d a ann σ := rfl
@[simp] theorem exec_slitS (d : BitVec 6) (x : Word) (ann : Ann) : exec (.slitS d x ann) σ = execSlitS d x ann σ := rfl
@[simp] theorem exec_slitF (d : BitVec 3) (x : Word) (ann : Ann) : exec (.slitF d x ann) σ = execSlitF d x ann σ := rfl
@[simp] theorem exec_pand (d : BitVec 3) (a : BitVec 3) (b : BitVec 3) (ann : Ann) : exec (.pand d a b ann) σ = execPand d a b ann σ := rfl
@[simp] theorem exec_por (d : BitVec 3) (a : BitVec 3) (b : BitVec 3) (ann : Ann) : exec (.por d a b ann) σ = execPor d a b ann σ := rfl
@[simp] theorem exec_pxor (d : BitVec 3) (a : BitVec 3) (b : BitVec 3) (ann : Ann) : exec (.pxor d a b ann) σ = execPxor d a b ann σ := rfl
@[simp] theorem exec_pnot (d : BitVec 3) (a : BitVec 3) (ann : Ann) : exec (.pnot d a ann) σ = execPnot d a ann σ := rfl
@[simp] theorem exec_pmov (d : BitVec 3) (a : BitVec 3) (ann : Ann) : exec (.pmov d a ann) σ = execPmov d a ann σ := rfl
@[simp] theorem exec_shfl (d : BitVec 6) (a : BitVec 6) (b : BitVec 6) (ann : Ann) : exec (.shfl d a b ann) σ = execShfl d a b ann σ := rfl
@[simp] theorem exec_vote (d : BitVec 6) (a : BitVec 3) (ann : Ann) : exec (.vote d a ann) σ = execVote d a ann σ := rfl
@[simp] theorem exec_lred (d : BitVec 6) (a : BitVec 6) (i : BitVec 6) (ann : Ann) : exec (.lred d a i ann) σ = execLred d a i ann σ := rfl
@[simp] theorem exec_lscan (d : BitVec 6) (a : BitVec 6) (i : BitVec 6) (ann : Ann) : exec (.lscan d a i ann) σ = execLscan d a i ann σ := rfl
@[simp] theorem exec_matchV (d : BitVec 6) (a : BitVec 6) (ann : Ann) : exec (.matchV d a ann) σ = execMatchV d a ann σ := rfl
@[simp] theorem exec_compact (d : BitVec 6) (a : BitVec 6) (ann : Ann) : exec (.compact d a ann) σ = execCompact d a ann σ := rfl
@[simp] theorem exec_regroup (d : BitVec 3) (a : BitVec 6) (b : BitVec 6) (ann : Ann) : exec (.regroup d a b ann) σ = execRegroup d a b ann σ := rfl
@[simp] theorem exec_fadd (d : BitVec 6) (a : BitVec 6) (b : BitVec 6) (ann : Ann) : exec (.fadd d a b ann) σ = execFadd d a b ann σ := rfl
@[simp] theorem exec_fsub (d : BitVec 6) (a : BitVec 6) (b : BitVec 6) (ann : Ann) : exec (.fsub d a b ann) σ = execFsub d a b ann σ := rfl
@[simp] theorem exec_fmul (d : BitVec 6) (a : BitVec 6) (b : BitVec 6) (ann : Ann) : exec (.fmul d a b ann) σ = execFmul d a b ann σ := rfl
@[simp] theorem exec_ffma (d : BitVec 6) (a : BitVec 6) (b : BitVec 6) (ann : Ann) : exec (.ffma d a b ann) σ = execFfma d a b ann σ := rfl
@[simp] theorem exec_fmin (d : BitVec 6) (a : BitVec 6) (b : BitVec 6) (ann : Ann) : exec (.fmin d a b ann) σ = execFmin d a b ann σ := rfl
@[simp] theorem exec_fmax (d : BitVec 6) (a : BitVec 6) (b : BitVec 6) (ann : Ann) : exec (.fmax d a b ann) σ = execFmax d a b ann σ := rfl
@[simp] theorem exec_fminn (d : BitVec 6) (a : BitVec 6) (b : BitVec 6) (ann : Ann) : exec (.fminn d a b ann) σ = execFminn d a b ann σ := rfl
@[simp] theorem exec_fmaxn (d : BitVec 6) (a : BitVec 6) (b : BitVec 6) (ann : Ann) : exec (.fmaxn d a b ann) σ = execFmaxn d a b ann σ := rfl
@[simp] theorem exec_fabs (d : BitVec 6) (a : BitVec 6) (ann : Ann) : exec (.fabs d a ann) σ = execFabs d a ann σ := rfl
@[simp] theorem exec_fneg (d : BitVec 6) (a : BitVec 6) (ann : Ann) : exec (.fneg d a ann) σ = execFneg d a ann σ := rfl
@[simp] theorem exec_fcmp (d : BitVec 3) (a : BitVec 6) (b : BitVec 6) (fn : BitVec 4) (ann : Ann) : exec (.fcmp d a b fn ann) σ = execFcmp d a b fn ann σ := rfl
@[simp] theorem exec_frcp (d : BitVec 6) (a : BitVec 6) (ann : Ann) : exec (.frcp d a ann) σ = execFrcp d a ann σ := rfl
@[simp] theorem exec_frsq (d : BitVec 6) (a : BitVec 6) (ann : Ann) : exec (.frsq d a ann) σ = execFrsq d a ann σ := rfl
@[simp] theorem exec_fsqrt (d : BitVec 6) (a : BitVec 6) (ann : Ann) : exec (.fsqrt d a ann) σ = execFsqrt d a ann σ := rfl
@[simp] theorem exec_fex2 (d : BitVec 6) (a : BitVec 6) (ann : Ann) : exec (.fex2 d a ann) σ = execFex2 d a ann σ := rfl
@[simp] theorem exec_flg2 (d : BitVec 6) (a : BitVec 6) (ann : Ann) : exec (.flg2 d a ann) σ = execFlg2 d a ann σ := rfl
@[simp] theorem exec_fsin (d : BitVec 6) (a : BitVec 6) (ann : Ann) : exec (.fsin d a ann) σ = execFsin d a ann σ := rfl
@[simp] theorem exec_fcos (d : BitVec 6) (a : BitVec 6) (ann : Ann) : exec (.fcos d a ann) σ = execFcos d a ann σ := rfl
@[simp] theorem exec_ftanh (d : BitVec 6) (a : BitVec 6) (ann : Ann) : exec (.ftanh d a ann) σ = execFtanh d a ann σ := rfl
@[simp] theorem exec_fscl (d : BitVec 6) (a : BitVec 6) (b : BitVec 6) (ann : Ann) : exec (.fscl d a b ann) σ = execFscl d a b ann σ := rfl
@[simp] theorem exec_frnd (d : BitVec 6) (a : BitVec 6) (ann : Ann) : exec (.frnd d a ann) σ = execFrnd d a ann σ := rfl
@[simp] theorem exec_fcls (d : BitVec 6) (a : BitVec 6) (ann : Ann) : exec (.fcls d a ann) σ = execFcls d a ann σ := rfl
@[simp] theorem exec_fcvt (d : BitVec 6) (a : BitVec 6) (i : BitVec 5) (ann : Ann) : exec (.fcvt d a i ann) σ = execFcvt d a i ann σ := rfl
@[simp] theorem exec_icvt (d : BitVec 6) (a : BitVec 6) (i : BitVec 5) (ann : Ann) : exec (.icvt d a i ann) σ = execIcvt d a i ann σ := rfl
@[simp] theorem exec_tsum (d : BitVec 6) (a : BitVec 6) (b : BitVec 6) (ann : Ann) : exec (.tsum d a b ann) σ = execTsum d a b ann σ := rfl
@[simp] theorem exec_tprd (d : BitVec 6) (a : BitVec 6) (b : BitVec 6) (ann : Ann) : exec (.tprd d a b ann) σ = execTprd d a b ann σ := rfl
@[simp] theorem exec_cmul (d : BitVec 6) (a : BitVec 6) (b : BitVec 6) (ann : Ann) : exec (.cmul d a b ann) σ = execCmul d a b ann σ := rfl
@[simp] theorem exec_cfma (d : BitVec 6) (a : BitVec 6) (b : BitVec 6) (ann : Ann) : exec (.cfma d a b ann) σ = execCfma d a b ann σ := rfl
@[simp] theorem exec_dot2 (d : BitVec 6) (a : BitVec 6) (b : BitVec 6) (ann : Ann) : exec (.dot2 d a b ann) σ = execDot2 d a b ann σ := rfl
@[simp] theorem exec_h2add (d : BitVec 6) (a : BitVec 6) (b : BitVec 6) (ann : Ann) : exec (.h2add d a b ann) σ = execH2add d a b ann σ := rfl
@[simp] theorem exec_h2mul (d : BitVec 6) (a : BitVec 6) (b : BitVec 6) (ann : Ann) : exec (.h2mul d a b ann) σ = execH2mul d a b ann σ := rfl
@[simp] theorem exec_h2fma (d : BitVec 6) (a : BitVec 6) (b : BitVec 6) (ann : Ann) : exec (.h2fma d a b ann) σ = execH2fma d a b ann σ := rfl
@[simp] theorem exec_qblk (d : BitVec 6) (a : BitVec 6) (b : BitVec 6) (ann : Ann) : exec (.qblk d a b ann) σ = execQblk d a b ann σ := rfl
@[simp] theorem exec_qcvt (d : BitVec 6) (a : BitVec 6) (b : BitVec 6) (ann : Ann) : exec (.qcvt d a b ann) σ = execQcvt d a b ann σ := rfl
@[simp] theorem exec_plsplit (d : BitVec 6) (a : BitVec 6) (i : BitVec 2) (ann : Ann) : exec (.plsplit d a i ann) σ = execPlsplit d a i ann σ := rfl
@[simp] theorem exec_pljoin (d : BitVec 6) (a : BitVec 6) (b : BitVec 6) (ann : Ann) : exec (.pljoin d a b ann) σ = execPljoin d a b ann σ := rfl
@[simp] theorem exec_ldI (d : BitVec 6) (a : BitVec 6) (i : BitVec 6) (ann : Ann) : exec (.ldI d a i ann) σ = execLdI d a i ann σ := rfl
@[simp] theorem exec_ldL (d : BitVec 6) (a : BitVec 6) (off : Word) (ann : Ann) : exec (.ldL d a off ann) σ = execLdL d a off ann σ := rfl
@[simp] theorem exec_stI (d : BitVec 6) (a : BitVec 6) (i : BitVec 6) (ann : Ann) : exec (.stI d a i ann) σ = execStI d a i ann σ := rfl
@[simp] theorem exec_stL (d : BitVec 6) (a : BitVec 6) (off : Word) (ann : Ann) : exec (.stL d a off ann) σ = execStL d a off ann σ := rfl
@[simp] theorem exec_ldl (d : BitVec 6) (a : BitVec 6) (b : BitVec 6) (ann : Ann) : exec (.ldl d a b ann) σ = execLdl d a b ann σ := rfl
@[simp] theorem exec_stl (d : BitVec 6) (a : BitVec 6) (b : BitVec 6) (ann : Ann) : exec (.stl d a b ann) σ = execStl d a b ann σ := rfl
@[simp] theorem exec_atom (d : BitVec 6) (a : BitVec 6) (b : BitVec 6) (fn : BitVec 4) (ann : Ann) : exec (.atom d a b fn ann) σ = execAtom d a b fn ann σ := rfl
@[simp] theorem exec_atomc (d : BitVec 6) (a : BitVec 6) (b : BitVec 6) (ann : Ann) : exec (.atomc d a b ann) σ = execAtomc d a b ann σ := rfl
@[simp] theorem exec_red (a : BitVec 6) (b : BitVec 6) (fn : BitVec 4) (ann : Ann) : exec (.red a b fn ann) σ = execRed a b fn ann σ := rfl
@[simp] theorem exec_fence (ann : Ann) : exec (.fence ann) σ = execFence ann σ := rfl
@[simp] theorem exec_cctl (a : BitVec 6) (i : BitVec 6) (ann : Ann) : exec (.cctl a i ann) σ = execCctl a i ann σ := rfl
@[simp] theorem exec_lalloc (d : BitVec 6) (a : BitVec 6) (i : BitVec 6) (ann : Ann) : exec (.lalloc d a i ann) σ = execLalloc d a i ann σ := rfl
@[simp] theorem exec_lfree (d : BitVec 6) (a : BitVec 6) (i : BitVec 6) (ann : Ann) : exec (.lfree d a i ann) σ = execLfree d a i ann σ := rfl
@[simp] theorem exec_tlmake (d : BitVec 6) (a : BitVec 6) (ann : Ann) : exec (.tlmake d a ann) σ = execTlmake d a ann σ := rfl
@[simp] theorem exec_tldrop (d : BitVec 6) (a : BitVec 6) (ann : Ann) : exec (.tldrop d a ann) σ = execTldrop d a ann σ := rfl
@[simp] theorem exec_tlqry (d : BitVec 6) (a : BitVec 6) (i : BitVec 6) (ann : Ann) : exec (.tlqry d a i ann) σ = execTlqry d a i ann σ := rfl
@[simp] theorem exec_binit (d : BitVec 6) (a : BitVec 6) (i : BitVec 3) (ann : Ann) : exec (.binit d a i ann) σ = execBinit d a i ann σ := rfl
@[simp] theorem exec_blink (d : BitVec 6) (a : BitVec 6) (b : BitVec 6) (ann : Ann) : exec (.blink d a b ann) σ = execBlink d a b ann σ := rfl
@[simp] theorem exec_bara (a : BitVec 6) (i : BitVec 3) (ann : Ann) : exec (.bara a i ann) σ = execBara a i ann σ := rfl
@[simp] theorem exec_barw (d : BitVec 6) (a : BitVec 6) (i : BitVec 3) (ann : Ann) : exec (.barw d a i ann) σ = execBarw d a i ann σ := rfl
@[simp] theorem exec_baraw (d : BitVec 6) (a : BitVec 6) (i : BitVec 3) (ann : Ann) : exec (.baraw d a i ann) σ = execBaraw d a i ann σ := rfl
@[simp] theorem exec_bart (d : BitVec 6) (a : BitVec 6) (i : BitVec 3) (ann : Ann) : exec (.bart d a i ann) σ = execBart d a i ann σ := rfl
@[simp] theorem exec_barx (d : BitVec 6) (a : BitVec 6) (i : BitVec 3) (ann : Ann) : exec (.barx d a i ann) σ = execBarx d a i ann σ := rfl
@[simp] theorem exec_push (a : BitVec 6) (i : BitVec 3) (ann : Ann) : exec (.push a i ann) σ = execPush a i ann σ := rfl
@[simp] theorem exec_pushr (a : BitVec 6) (i : BitVec 3) (ann : Ann) : exec (.pushr a i ann) σ = execPushr a i ann σ := rfl
@[simp] theorem exec_pop (d : BitVec 6) (i : BitVec 3) (ann : Ann) : exec (.pop d i ann) σ = execPop d i ann σ := rfl
@[simp] theorem exec_peek (d : BitVec 6) (i : BitVec 3) (ann : Ann) : exec (.peek d i ann) σ = execPeek d i ann σ := rfl
@[simp] theorem exec_pqry (d : BitVec 6) (i : BitVec 3) (ann : Ann) : exec (.pqry d i ann) σ = execPqry d i ann σ := rfl
@[simp] theorem exec_plink (d : BitVec 6) (a : BitVec 6) (i : BitVec 3) (ann : Ann) : exec (.plink d a i ann) σ = execPlink d a i ann σ := rfl
@[simp] theorem exec_plinkUnlink (d : BitVec 6) (i : BitVec 3) (ann : Ann) : exec (.plinkUnlink d i ann) σ = execPlinkUnlink d i ann σ := rfl
@[simp] theorem exec_tret (ann : Ann) : exec (.tret ann) σ = execTret ann σ := rfl
@[simp] theorem exec_csrr (d : BitVec 6) (csr : Word) (ann : Ann) : exec (.csrr d csr ann) σ = execCsrr d csr ann σ := rfl
@[simp] theorem exec_csrw (a : BitVec 6) (csr : Word) (ann : Ann) : exec (.csrw a csr ann) σ = execCsrw a csr ann σ := rfl
@[simp] theorem exec_ctxrd (d : BitVec 6) (a : BitVec 6) (item : Word) (ann : Ann) : exec (.ctxrd d a item ann) σ = execCtxrd d a item ann σ := rfl
@[simp] theorem exec_ctxwr (d : BitVec 6) (a : BitVec 6) (item : Word) (ann : Ann) : exec (.ctxwr d a item ann) σ = execCtxwr d a item ann σ := rfl
@[simp] theorem exec_save (d : BitVec 6) (a : BitVec 6) (b : BitVec 6) (ann : Ann) : exec (.save d a b ann) σ = execSave d a b ann σ := rfl
@[simp] theorem exec_rstr (d : BitVec 6) (a : BitVec 6) (b : BitVec 6) (ann : Ann) : exec (.rstr d a b ann) σ = execRstr d a b ann σ := rfl
@[simp] theorem exec_haltcr (d : BitVec 6) (a : BitVec 6) (ann : Ann) : exec (.haltcr d a ann) σ = execHaltcr d a ann σ := rfl
@[simp] theorem exec_resume (d : BitVec 6) (a : BitVec 6) (ann : Ann) : exec (.resume d a ann) σ = execResume d a ann σ := rfl
@[simp] theorem exec_killcr (d : BitVec 6) (a : BitVec 6) (ann : Ann) : exec (.killcr d a ann) σ = execKillcr d a ann σ := rfl
@[simp] theorem exec_tlbinv (d : BitVec 6) (a : BitVec 6) (b : BitVec 6) (ann : Ann) : exec (.tlbinv d a b ann) σ = execTlbinv d a b ann σ := rfl
@[simp] theorem exec_cinv (a : BitVec 6) (i : BitVec 6) (ann : Ann) : exec (.cinv a i ann) σ = execCinv a i ann σ := rfl
@[simp] theorem exec_tkt (d : BitVec 6) (a : BitVec 6) (b : BitVec 6) (ann : Ann) : exec (.tkt d a b ann) σ = execTkt d a b ann σ := rfl
@[simp] theorem exec_hmsg (d : BitVec 6) (a : BitVec 6) (b : BitVec 6) (ann : Ann) : exec (.hmsg d a b ann) σ = execHmsg d a b ann σ := rfl
@[simp] theorem exec_idle (ann : Ann) : exec (.idle ann) σ = execIdle ann σ := rfl
@[simp] theorem exec_mcopy (y : BitVec 1) (d : BitVec 6) (a : BitVec 6) : exec (.mcopy y d a) σ = execMcopy y d a σ := rfl
@[simp] theorem exec_ucopy (y : BitVec 1) (d : BitVec 6) (a : BitVec 6) : exec (.ucopy y d a) σ = execUcopy y d a σ := rfl
@[simp] theorem exec_gcopy (y : BitVec 1) (d : BitVec 6) (a : BitVec 6) : exec (.gcopy y d a) σ = execGcopy y d a σ := rfl
@[simp] theorem exec_reduce (y : BitVec 1) (d : BitVec 6) (a : BitVec 6) : exec (.reduce y d a) σ = execReduce y d a σ := rfl
@[simp] theorem exec_cqry (d : BitVec 6) (a : BitVec 6) (b : BitVec 6) : exec (.cqry d a b) σ = execCqry d a b σ := rfl
@[simp] theorem exec_vinit (y : BitVec 1) (d : BitVec 6) (a : BitVec 6) (b : BitVec 6) : exec (.vinit y d a b) σ = execVinit y d a b σ := rfl
@[simp] theorem exec_vtake (d : BitVec 6) (a : BitVec 6) : exec (.vtake d a) σ = execVtake d a σ := rfl
@[simp] theorem exec_vput (y : BitVec 1) (d : BitVec 6) (a : BitVec 6) (b : BitVec 6) : exec (.vput y d a b) σ = execVput y d a b σ := rfl
@[simp] theorem exec_vqry (d : BitVec 6) (a : BitVec 6) (b : BitVec 6) : exec (.vqry d a b) σ = execVqry d a b σ := rfl
@[simp] theorem exec_sfill (y : BitVec 1) (d : BitVec 6) (a : BitVec 6) (b : BitVec 6) : exec (.sfill y d a b) σ = execSfill y d a b σ := rfl
@[simp] theorem exec_sdrain (y : BitVec 1) (d : BitVec 6) (a : BitVec 6) (b : BitVec 6) : exec (.sdrain y d a b) σ = execSdrain y d a b σ := rfl
@[simp] theorem exec_sstop (y : BitVec 1) (d : BitVec 6) (a : BitVec 6) : exec (.sstop y d a) σ = execSstop y d a σ := rfl
@[simp] theorem exec_mma (y : BitVec 1) (d : BitVec 6) (a : BitVec 6) (b : BitVec 6) : exec (.mma y d a b) σ = execMma y d a b σ := rfl
@[simp] theorem exec_mmac (y : BitVec 1) (d : BitVec 6) (a : BitVec 6) (b : BitVec 6) : exec (.mmac y d a b) σ = execMmac y d a b σ := rfl
@[simp] theorem exec_mfence : exec .mfence σ = execMfence σ := rfl
@[simp] theorem exec_mwait (a : BitVec 6) : exec (.mwait a) σ = execMwait a σ := rfl
@[simp] theorem exec_mqry (d : BitVec 6) (a : BitVec 6) : exec (.mqry d a) σ = execMqry d a σ := rfl
@[simp] theorem exec_celget (d : BitVec 6) (a : BitVec 6) : exec (.celget d a) σ = execCelget d a σ := rfl
@[simp] theorem exec_celpin (y : BitVec 1) (d : BitVec 6) (a : BitVec 6) (b : BitVec 6) : exec (.celpin y d a b) σ = execCelpin y d a b σ := rfl
@[simp] theorem exec_celfree (y : BitVec 1) (d : BitVec 6) (a : BitVec 6) : exec (.celfree y d a) σ = execCelfree y d a σ := rfl
@[simp] theorem exec_celfreeEvict (y : BitVec 1) (d : BitVec 6) (a : BitVec 6) : exec (.celfreeEvict y d a) σ = execCelfreeEvict y d a σ := rfl
@[simp] theorem exec_celld (y : BitVec 1) (d : BitVec 6) (a : BitVec 6) : exec (.celld y d a) σ = execCelld y d a σ := rfl
@[simp] theorem exec_celst (y : BitVec 1) (d : BitVec 6) (a : BitVec 6) : exec (.celst y d a) σ = execCelst y d a σ := rfl
@[simp] theorem exec_celz (y : BitVec 1) (d : BitVec 6) (a : BitVec 6) : exec (.celz y d a) σ = execCelz y d a σ := rfl
@[simp] theorem exec_delta (y : BitVec 1) (d : BitVec 6) (a : BitVec 6) : exec (.delta y d a) σ = execDelta y d a σ := rfl
@[simp] theorem exec_dqry (y : BitVec 1) (d : BitVec 6) (a : BitVec 6) : exec (.dqry y d a) σ = execDqry y d a σ := rfl
@[simp] theorem exec_agset (d : BitVec 6) (a : BitVec 6) : exec (.agset d a) σ = execAgset d a σ := rfl
@[simp] theorem exec_agfree (y : BitVec 1) (d : BitVec 6) (a : BitVec 6) : exec (.agfree y d a) σ = execAgfree y d a σ := rfl
@[simp] theorem exec_mst (y : BitVec 1) (d : BitVec 6) (a : BitVec 6) : exec (.mst y d a) σ = execMst y d a σ := rfl
@[simp] theorem exec_mldr (y : BitVec 1) (d : BitVec 6) (a : BitVec 6) : exec (.mldr y d a) σ = execMldr y d a σ := rfl
@[simp] theorem exec_coll (y : BitVec 1) (d : BitVec 6) (a : BitVec 6) : exec (.coll y d a) σ = execColl y d a σ := rfl
@[simp] theorem exec_collw (d : BitVec 6) (a : BitVec 6) : exec (.collw d a) σ = execCollw d a σ := rfl
@[simp] theorem exec_flush : exec .flush σ = execFlush σ := rfl
@[simp] theorem exec_launch (y : BitVec 1) (d : BitVec 6) (a : BitVec 6) (b : BitVec 6) : exec (.launch y d a b) σ = execLaunch y d a b σ := rfl
@[simp] theorem exec_launchd (y : BitVec 1) (d : BitVec 6) (a : BitVec 6) (b : BitVec 6) : exec (.launchd y d a b) σ = execLaunchd y d a b σ := rfl
@[simp] theorem exec_join (d : BitVec 6) : exec (.join d) σ = execJoin d σ := rfl
@[simp] theorem exec_joinall (d : BitVec 6) : exec (.joinall d) σ = execJoinall d σ := rfl
@[simp] theorem exec_tileq (d : BitVec 6) (a : BitVec 6) : exec (.tileq d a) σ = execTileq d a σ := rfl
@[simp] theorem exec_cancel (y : BitVec 1) (d : BitVec 6) : exec (.cancel y d) σ = execCancel y d σ := rfl
@[simp] theorem exec_qpush (y : BitVec 1) (d : BitVec 6) (a : BitVec 6) (b : BitVec 6) : exec (.qpush y d a b) σ = execQpush y d a b σ := rfl
@[simp] theorem exec_timeq (d : BitVec 6) (a : BitVec 6) : exec (.timeq d a) σ = execTimeq d a σ := rfl
@[simp] theorem exec_tsig (y : BitVec 1) (d : BitVec 6) (a : BitVec 6) (b : BitVec 6) : exec (.tsig y d a b) σ = execTsig y d a b σ := rfl
@[simp] theorem exec_scoreboardLand (gid : Nat) (sb : Nat) : exec (.scoreboardLand gid sb) σ = execScoreboardLand gid sb σ := rfl
@[simp] theorem exec_storeQueueDrain (gid : Nat) : exec (.storeQueueDrain gid) σ = execStoreQueueDrain gid σ := rfl
@[simp] theorem exec_storeAck (id : Nat) : exec (.storeAck id) σ = execStoreAck id σ := rfl
@[simp] theorem exec_remoteAccess (pkt : Nat) : exec (.remoteAccess pkt) σ = execRemoteAccess pkt σ := rfl
@[simp] theorem exec_fabricResponse (pkt : Nat) : exec (.fabricResponse pkt) σ = execFabricResponse pkt σ := rfl
@[simp] theorem exec_impreciseFault : exec .impreciseFault σ = execImpreciseFault σ := rfl
@[simp] theorem exec_spill (gid : Nat) (split : Nat) : exec (.spill gid split) σ = execSpill gid split σ := rfl
@[simp] theorem exec_fill (gid : Nat) (split : Nat) : exec (.fill gid split) σ = execFill gid split σ := rfl
@[simp] theorem exec_haltComplete (crew : Nat) : exec (.haltComplete crew) σ = execHaltComplete crew σ := rfl
@[simp] theorem exec_eventDelivery (pkg : Nat) (core : Nat) : exec (.eventDelivery pkg core) σ = execEventDelivery pkg core σ := rfl
@[simp] theorem exec_preqWrite (a : BitVec 6) (hi : BitVec 1) (ann : Ann) : exec (.preqWrite a hi ann) σ = execPreqWrite a hi ann σ := rfl
@[simp] theorem exec_graceExpiry (crew : Nat) : exec (.graceExpiry crew) σ = execGraceExpiry crew σ := rfl
@[simp] theorem exec_watchdog (gid : Nat) (split : Nat) : exec (.watchdog gid split) σ = execWatchdog gid split σ := rfl
@[simp] theorem exec_dsplitWrite (a : BitVec 6) (ann : Ann) : exec (.dsplitWrite a ann) σ = execDsplitWrite a ann σ := rfl
@[simp] theorem exec_dsplitDone (pkg : Nat) (die : Nat) : exec (.dsplitDone pkg die) σ = execDsplitDone pkg die σ := rfl
@[simp] theorem exec_timelRead (d : BitVec 6) (ann : Ann) : exec (.timelRead d ann) σ = execTimelRead d ann σ := rfl
@[simp] theorem exec_ctxerrRead (d : BitVec 6) (ann : Ann) : exec (.ctxerrRead d ann) σ = execCtxerrRead d ann σ := rfl
@[simp] theorem exec_childStart (tile : Nat) (k : Nat) : exec (.childStart tile k) σ = execChildStart tile k σ := rfl
@[simp] theorem exec_dependenceEntry (tile : Nat) (k : Nat) : exec (.dependenceEntry tile k) σ = execDependenceEntry tile k σ := rfl
@[simp] theorem exec_childRelaunch (tile : Nat) (k : Nat) : exec (.childRelaunch tile k) σ = execChildRelaunch tile k σ := rfl
@[simp] theorem exec_tileComplete (tile : Nat) : exec (.tileComplete tile) σ = execTileComplete tile σ := rfl
@[simp] theorem exec_sleepWake (gid : Nat) (split : Nat) : exec (.sleepWake gid split) σ = execSleepWake gid split σ := rfl
@[simp] theorem exec_tsigFire (crew : Nat) (n : Nat) : exec (.tsigFire crew n) σ = execTsigFire crew n σ := rfl
@[simp] theorem exec_copyArrival (cmd : Nat) : exec (.copyArrival cmd) σ = execCopyArrival cmd σ := rfl
@[simp] theorem exec_streamSlotDone (stream : Nat) : exec (.streamSlotDone stream) σ = execStreamSlotDone stream σ := rfl
@[simp] theorem exec_streamFault (stream : Nat) : exec (.streamFault stream) σ = execStreamFault stream σ := rfl
@[simp] theorem exec_matrixArrival (cmd : Nat) : exec (.matrixArrival cmd) σ = execMatrixArrival cmd σ := rfl
@[simp] theorem exec_portValueLand (gid : Nat) (port : Nat) (lane : Nat) : exec (.portValueLand gid port lane) σ = execPortValueLand gid port lane σ := rfl
@[simp] theorem exec_portPark (gid : Nat) (split : Nat) : exec (.portPark gid split) σ = execPortPark gid split σ := rfl
@[simp] theorem exec_portDeadlock (gid : Nat) : exec (.portDeadlock gid) σ = execPortDeadlock gid σ := rfl
@[simp] theorem exec_fabricArrival (cmd : Nat) : exec (.fabricArrival cmd) σ = execFabricArrival cmd σ := rfl
@[simp] theorem exec_switchContribution (cmd : Nat) : exec (.switchContribution cmd) σ = execSwitchContribution cmd σ := rfl
@[simp] theorem exec_tupleTimeout (grp : Nat) (seq : Nat) : exec (.tupleTimeout grp seq) σ = execTupleTimeout grp seq σ := rfl
@[simp] theorem exec_collStepTimeout (cmd : Nat) : exec (.collStepTimeout cmd) σ = execCollStepTimeout cmd σ := rfl
@[simp] theorem exec_fabricPacketExpiry (pkt : Nat) : exec (.fabricPacketExpiry pkt) σ = execFabricPacketExpiry pkt σ := rfl
@[simp] theorem exec_linkFailure (pkg : Nat) (plane : Nat) (what : Nat) : exec (.linkFailure pkg plane what) σ = execLinkFailure pkg plane what σ := rfl
@[simp] theorem exec_kick (pkg : Nat) (ctx : Nat) (slot : Nat) (w : Nat) : exec (.kick pkg ctx slot w) σ = execKick pkg ctx slot w σ := rfl
@[simp] theorem exec_nopPacket (pkg : Nat) (q : Nat) : exec (.nopPacket pkg q) σ = execNopPacket pkg q σ := rfl
@[simp] theorem exec_launchPacket (pkg : Nat) (q : Nat) (core : Nat) : exec (.launchPacket pkg q core) σ = execLaunchPacket pkg q core σ := rfl
@[simp] theorem exec_gangPacket (pkg : Nat) (q : Nat) : exec (.gangPacket pkg q) σ = execGangPacket pkg q σ := rfl
@[simp] theorem exec_waitPacket (pkg : Nat) (q : Nat) : exec (.waitPacket pkg q) σ = execWaitPacket pkg q σ := rfl
@[simp] theorem exec_waitPacketPoll (pkg : Nat) (q : Nat) (idx : Nat) : exec (.waitPacketPoll pkg q idx) σ = execWaitPacketPoll pkg q idx σ := rfl
@[simp] theorem exec_signalPacket (pkg : Nat) (q : Nat) : exec (.signalPacket pkg q) σ = execSignalPacket pkg q σ := rfl
@[simp] theorem exec_signalAck (pkg : Nat) (q : Nat) (idx : Nat) : exec (.signalAck pkg q idx) σ = execSignalAck pkg q idx σ := rfl
@[simp] theorem exec_timestampPacket (pkg : Nat) (q : Nat) : exec (.timestampPacket pkg q) σ = execTimestampPacket pkg q σ := rfl
@[simp] theorem exec_reserve (gang : Nat) (part : Nat) (core : Nat) : exec (.reserve gang part core) σ = execReserve gang part core σ := rfl
@[simp] theorem exec_held (gang : Nat) (part : Nat) : exec (.held gang part) σ = execHeld gang part σ := rfl
@[simp] theorem exec_gangNo (gang : Nat) (part : Nat) : exec (.gangNo gang part) σ = execGangNo gang part σ := rfl
@[simp] theorem exec_commit (gang : Nat) (part : Nat) : exec (.commit gang part) σ = execCommit gang part σ := rfl
@[simp] theorem exec_release (gang : Nat) (part : Nat) : exec (.release gang part) σ = execRelease gang part σ := rfl
@[simp] theorem exec_reserveTimerExpiry (gang : Nat) : exec (.reserveTimerExpiry gang) σ = execReserveTimerExpiry gang σ := rfl
@[simp] theorem exec_holdTimerExpiry (gang : Nat) (part : Nat) : exec (.holdTimerExpiry gang part) σ = execHoldTimerExpiry gang part σ := rfl
@[simp] theorem exec_backoffExpiry (gang : Nat) : exec (.backoffExpiry gang) σ = execBackoffExpiry gang σ := rfl
@[simp] theorem exec_gangPartStart (gang : Nat) (part : Nat) : exec (.gangPartStart gang part) σ = execGangPartStart gang part σ := rfl
@[simp] theorem exec_rdmaWrite (pkg : Nat) (ctx : Nat) (hnd : Nat) (off : Nat) (data : List Byte) : exec (.rdmaWrite pkg ctx hnd off data) σ = execRdmaWrite pkg ctx hnd off data σ := rfl
@[simp] theorem exec_rdmaRead (pkg : Nat) (ctx : Nat) (hnd : Nat) (off : Nat) (len : Nat) : exec (.rdmaRead pkg ctx hnd off len) σ = execRdmaRead pkg ctx hnd off len σ := rfl
@[simp] theorem exec_rdmaNak (pkg : Nat) (kind : Nat) : exec (.rdmaNak pkg kind) σ = execRdmaNak pkg kind σ := rfl
@[simp] theorem exec_hmsgTimeout (cmd : Nat) : exec (.hmsgTimeout cmd) σ = execHmsgTimeout cmd σ := rfl
@[simp] theorem exec_query (pkg : Nat) (msg : List Byte) : exec (.query pkg msg) σ = execQuery pkg msg σ := rfl
@[simp] theorem exec_setp (pkg : Nat) (msg : List Byte) : exec (.setp pkg msg) σ = execSetp pkg msg σ := rfl
@[simp] theorem exec_setfloor (pkg : Nat) (msg : List Byte) : exec (.setfloor pkg msg) σ = execSetfloor pkg msg σ := rfl
@[simp] theorem exec_cleartrip (pkg : Nat) (msg : List Byte) : exec (.cleartrip pkg msg) σ = execCleartrip pkg msg σ := rfl
@[simp] theorem exec_attest (pkg : Nat) (msg : List Byte) : exec (.attest pkg msg) σ = execAttest pkg msg σ := rfl
@[simp] theorem exec_idkey (pkg : Nat) (msg : List Byte) : exec (.idkey pkg msg) σ = execIdkey pkg msg σ := rfl
@[simp] theorem exec_joinmem (pkg : Nat) (msg : List Byte) : exec (.joinmem pkg msg) σ = execJoinmem pkg msg σ := rfl
@[simp] theorem exec_thermalTrip (pkg : Nat) : exec (.thermalTrip pkg) σ = execThermalTrip pkg σ := rfl
@[simp] theorem exec_powerOn (pkg : Nat) : exec (.powerOn pkg) σ = execPowerOn pkg σ := rfl
@[simp] theorem exec_firmwareLoaded (pkg : Nat) (die : Nat) (image : List Byte) : exec (.firmwareLoaded pkg die image) σ = execFirmwareLoaded pkg die image σ := rfl
@[simp] theorem exec_firmwareVerified (pkg : Nat) (die : Nat) : exec (.firmwareVerified pkg die) σ = execFirmwareVerified pkg die σ := rfl
@[simp] theorem exec_stackTrainingDone (pkg : Nat) (stack : Nat) (pass : Bool) : exec (.stackTrainingDone pkg stack pass) σ = execStackTrainingDone pkg stack pass σ := rfl
@[simp] theorem exec_dieLinksUp (pkg : Nat) (die : Nat) : exec (.dieLinksUp pkg die) σ = execDieLinksUp pkg die σ := rfl
@[simp] theorem exec_thermalCalibrationDone (pkg : Nat) : exec (.thermalCalibrationDone pkg) σ = execThermalCalibrationDone pkg σ := rfl
@[simp] theorem exec_coreReset (pkg : Nat) (core : Nat) : exec (.coreReset pkg core) σ = execCoreReset pkg core σ := rfl
@[simp] theorem exec_dieReset (pkg : Nat) (die : Nat) : exec (.dieReset pkg die) σ = execDieReset pkg die σ := rfl
@[simp] theorem exec_packageReset (pkg : Nat) : exec (.packageReset pkg) σ = execPackageReset pkg σ := rfl
@[simp] theorem exec_powerCycle (pkg : Nat) : exec (.powerCycle pkg) σ = execPowerCycle pkg σ := rfl
@[simp] theorem exec_softError (kind : Nat) (addr : Nat) (idx : Nat) (corrected : Bool) : exec (.softError kind addr idx corrected) σ = execSoftError kind addr idx corrected σ := rfl
@[simp] theorem exec_podTimeSyncChange (pkg : Nat) (sync : Bool) (skew : Bool) : exec (.podTimeSyncChange pkg sync skew) σ = execPodTimeSyncChange pkg sync skew σ := rfl
@[simp] theorem exec_packageReachable (pkg : Nat) (plane : Nat) : exec (.packageReachable pkg plane) σ = execPackageReachable pkg plane σ := rfl

end Sys2Proof.Machine
end

