-- ==== Sys2Proof/Laws/Maps.lean ====
section
/-! SUPPORT. Reads after writes of sparse register maps and of lists by position. -/

namespace Sys2Proof.Machine

@[simp] theorem rget_rput_self (d : Word) (m : RegMap) (k : Nat) (w : Word) : rget d (rput m k w) k = w := by
  induction m with
  | nil => simp [rput, rget]
  | cons h t ih =>
    obtain ⟨j, x⟩ := h
    simp only [rput]
    split
    · simp [rget]
    · split
      · simp [rget]
      · next h1 h2 => simp [rget, h2, ih]

theorem rget_rput_other (d : Word) (m : RegMap) {k j : Nat} (w : Word) (h : j ≠ k) :
    rget d (rput m k w) j = rget d m j := by
  induction m with
  | nil => simp [rput, rget, Ne.symm h]
  | cons a t ih =>
    obtain ⟨i, x⟩ := a
    simp only [rput]
    split
    · simp [rget, Ne.symm h]
    · split
      · next h1 h2 => subst h2; simp [rget, Ne.symm h]
      · simp [rget, ih]

@[simp] theorem length_modNth {α : Type} (l : List α) (n : Nat) (f : α → α) : (modNth l n f).length = l.length := by
  induction l generalizing n with
  | nil => simp [modNth]
  | cons h t ih => cases n <;> simp [modNth, ih]

theorem getElem?_modNth {α : Type} (l : List α) (n j : Nat) (f : α → α) :
    (modNth l n f)[j]? = if j = n then (l[j]?).map f else l[j]? := by
  induction l generalizing n j with
  | nil => simp [modNth]
  | cons h t ih =>
    cases n <;> cases j <;> simp [modNth, ih]

theorem getD_modNth_self {α : Type} (l : List α) (n : Nat) (f : α → α) (d : α) (h : n < l.length) :
    (modNth l n f).getD n d = f (l.getD n d) := by
  rw [List.getD_eq_getElem?_getD, List.getD_eq_getElem?_getD, getElem?_modNth]
  simp [h]

theorem getD_modNth_other {α : Type} (l : List α) {n j : Nat} (f : α → α) (d : α) (h : j ≠ n) :
    (modNth l n f).getD j d = l.getD j d := by
  simp [List.getD_eq_getElem?_getD, getElem?_modNth, h]

theorem modNth_map {α β : Type} (l : List α) (n : Nat) (f : α → α) (e : α → β) (h : ∀ a, e (f a) = e a) :
    (modNth l n f).map e = l.map e := by
  induction l generalizing n with
  | nil => simp [modNth]
  | cons a t ih => cases n <;> simp [modNth, h, ih]

theorem mem_bitsSet {n m i : Nat} : i ∈ bitsSet n m ↔ i < n ∧ flag m i = true := by
  simp [bitsSet, upto]

theorem nodup_bitsSet (n m : Nat) : (bitsSet n m).Nodup := List.Pairwise.filter _ List.nodup_range

end Sys2Proof.Machine
end

