-- ==== Sys2Proof/Laws/State.lean ====
section
/-! SUPPORT. What each update of State and of Group leaves in every field: one lemma per field, for simp. -/

namespace Sys2Proof.Machine

@[simp] theorem State.setG_g (s : State) (h : Group) : (s.setG h).g = h := rfl
@[simp] theorem State.setG_groups (s : State) (h : Group) : (s.setG h).groups = s.groups := rfl
@[simp] theorem State.setG_mem (s : State) (h : Group) : (s.setG h).mem = s.mem := rfl
@[simp] theorem State.setG_free (s : State) (h : Group) : (s.setG h).free = s.free := rfl
@[simp] theorem State.setG_time (s : State) (h : Group) : (s.setG h).time = s.time := rfl
@[simp] theorem State.setG_next (s : State) (h : Group) : (s.setG h).next = s.next := rfl
@[simp] theorem State.setG_agenda (s : State) (h : Group) : (s.setG h).agenda = s.agenda := rfl
@[simp] theorem State.setG_extended (s : State) (h : Group) : (s.setG h).extended = s.extended := rfl
@[simp] theorem State.setG_pkgs (s : State) (h : Group) : (s.setG h).pkgs = s.pkgs := rfl
@[simp] theorem State.setG_cores (s : State) (h : Group) : (s.setG h).cores = s.cores := rfl
@[simp] theorem State.setG_crews (s : State) (h : Group) : (s.setG h).crews = s.crews := rfl
@[simp] theorem State.setG_tiles (s : State) (h : Group) : (s.setG h).tiles = s.tiles := rfl
@[simp] theorem State.setG_trees (s : State) (h : Group) : (s.setG h).trees = s.trees := rfl
@[simp] theorem State.setG_exts (s : State) (h : Group) : (s.setG h).exts = s.exts := rfl
@[simp] theorem State.setG_bars (s : State) (h : Group) : (s.setG h).bars = s.bars := rfl
@[simp] theorem State.setG_liveBars (s : State) (h : Group) : (s.setG h).liveBars = s.liveBars := rfl
@[simp] theorem State.setG_wildBars (s : State) (h : Group) : (s.setG h).wildBars = s.wildBars := rfl
@[simp] theorem State.setG_handles (s : State) (h : Group) : (s.setG h).handles = s.handles := rfl
@[simp] theorem State.setG_cmds (s : State) (h : Group) : (s.setG h).cmds = s.cmds := rfl
@[simp] theorem State.setG_streams (s : State) (h : Group) : (s.setG h).streams = s.streams := rfl
@[simp] theorem State.setG_vats (s : State) (h : Group) : (s.setG h).vats = s.vats := rfl
@[simp] theorem State.setG_taint (s : State) (h : Group) : (s.setG h).taint = s.taint := rfl
@[simp] theorem State.setG_mixed (s : State) (h : Group) : (s.setG h).mixed = s.mixed := rfl
@[simp] theorem State.setG_undef (s : State) (h : Group) : (s.setG h).undef = s.undef := rfl
@[simp] theorem State.setG_lines (s : State) (h : Group) : (s.setG h).lines = s.lines := rfl
@[simp] theorem State.setG_pend (s : State) (h : Group) : (s.setG h).pend = s.pend := rfl
@[simp] theorem State.setG_tlb (s : State) (h : Group) : (s.setG h).tlb = s.tlb := rfl
@[simp] theorem State.setG_poison (s : State) (h : Group) : (s.setG h).poison = s.poison := rfl
@[simp] theorem State.setG_corrected (s : State) (h : Group) : (s.setG h).corrected = s.corrected := rfl
@[simp] theorem State.setG_net (s : State) (h : Group) : (s.setG h).net = s.net := rfl
@[simp] theorem State.setG_resp (s : State) (h : Group) : (s.setG h).resp = s.resp := rfl
@[simp] theorem State.setG_imprecise (s : State) (h : Group) : (s.setG h).imprecise = s.imprecise := rfl
@[simp] theorem State.setG_ags (s : State) (h : Group) : (s.setG h).ags = s.ags := rfl
@[simp] theorem State.setG_stale (s : State) (h : Group) : (s.setG h).stale = s.stale := rfl
@[simp] theorem State.setG_tuples (s : State) (h : Group) : (s.setG h).tuples = s.tuples := rfl
@[simp] theorem State.setG_qpkts (s : State) (h : Group) : (s.setG h).qpkts = s.qpkts := rfl
@[simp] theorem State.setG_gangs (s : State) (h : Group) : (s.setG h).gangs = s.gangs := rfl
@[simp] theorem State.setG_saved (s : State) (h : Group) : (s.setG h).saved = s.saved := rfl
@[simp] theorem State.setG_sysops (s : State) (h : Group) : (s.setG h).sysops = s.sysops := rfl
@[simp] theorem State.setG_heads (s : State) (h : Group) : (s.setG h).heads = s.heads := rfl
@[simp] theorem State.setG_host (s : State) (h : Group) : (s.setG h).host = s.host := rfl
@[simp] theorem State.setG_hostWords (s : State) (h : Group) : (s.setG h).hostWords = s.hostWords := rfl

@[simp] theorem State.mapGroups_g (s : State) (e : Group → Group) : (s.mapGroups e).g = e s.g := rfl
@[simp] theorem State.mapGroups_groups (s : State) (e : Group → Group) : (s.mapGroups e).groups = s.groups.map e := rfl
@[simp] theorem State.mapGroups_mem (s : State) (e : Group → Group) : (s.mapGroups e).mem = s.mem := rfl
@[simp] theorem State.mapGroups_free (s : State) (e : Group → Group) : (s.mapGroups e).free = s.free := rfl
@[simp] theorem State.mapGroups_time (s : State) (e : Group → Group) : (s.mapGroups e).time = s.time := rfl
@[simp] theorem State.mapGroups_next (s : State) (e : Group → Group) : (s.mapGroups e).next = s.next := rfl
@[simp] theorem State.mapGroups_agenda (s : State) (e : Group → Group) : (s.mapGroups e).agenda = s.agenda := rfl
@[simp] theorem State.mapGroups_extended (s : State) (e : Group → Group) : (s.mapGroups e).extended = s.extended := rfl
@[simp] theorem State.mapGroups_pkgs (s : State) (e : Group → Group) : (s.mapGroups e).pkgs = s.pkgs := rfl
@[simp] theorem State.mapGroups_cores (s : State) (e : Group → Group) : (s.mapGroups e).cores = s.cores := rfl
@[simp] theorem State.mapGroups_crews (s : State) (e : Group → Group) : (s.mapGroups e).crews = s.crews := rfl
@[simp] theorem State.mapGroups_tiles (s : State) (e : Group → Group) : (s.mapGroups e).tiles = s.tiles := rfl
@[simp] theorem State.mapGroups_trees (s : State) (e : Group → Group) : (s.mapGroups e).trees = s.trees := rfl
@[simp] theorem State.mapGroups_exts (s : State) (e : Group → Group) : (s.mapGroups e).exts = s.exts := rfl
@[simp] theorem State.mapGroups_bars (s : State) (e : Group → Group) : (s.mapGroups e).bars = s.bars := rfl
@[simp] theorem State.mapGroups_liveBars (s : State) (e : Group → Group) : (s.mapGroups e).liveBars = s.liveBars := rfl
@[simp] theorem State.mapGroups_wildBars (s : State) (e : Group → Group) : (s.mapGroups e).wildBars = s.wildBars := rfl
@[simp] theorem State.mapGroups_handles (s : State) (e : Group → Group) : (s.mapGroups e).handles = s.handles := rfl
@[simp] theorem State.mapGroups_cmds (s : State) (e : Group → Group) : (s.mapGroups e).cmds = s.cmds := rfl
@[simp] theorem State.mapGroups_streams (s : State) (e : Group → Group) : (s.mapGroups e).streams = s.streams := rfl
@[simp] theorem State.mapGroups_vats (s : State) (e : Group → Group) : (s.mapGroups e).vats = s.vats := rfl
@[simp] theorem State.mapGroups_taint (s : State) (e : Group → Group) : (s.mapGroups e).taint = s.taint := rfl
@[simp] theorem State.mapGroups_mixed (s : State) (e : Group → Group) : (s.mapGroups e).mixed = s.mixed := rfl
@[simp] theorem State.mapGroups_undef (s : State) (e : Group → Group) : (s.mapGroups e).undef = s.undef := rfl
@[simp] theorem State.mapGroups_lines (s : State) (e : Group → Group) : (s.mapGroups e).lines = s.lines := rfl
@[simp] theorem State.mapGroups_pend (s : State) (e : Group → Group) : (s.mapGroups e).pend = s.pend := rfl
@[simp] theorem State.mapGroups_tlb (s : State) (e : Group → Group) : (s.mapGroups e).tlb = s.tlb := rfl
@[simp] theorem State.mapGroups_poison (s : State) (e : Group → Group) : (s.mapGroups e).poison = s.poison := rfl
@[simp] theorem State.mapGroups_corrected (s : State) (e : Group → Group) : (s.mapGroups e).corrected = s.corrected := rfl
@[simp] theorem State.mapGroups_net (s : State) (e : Group → Group) : (s.mapGroups e).net = s.net := rfl
@[simp] theorem State.mapGroups_resp (s : State) (e : Group → Group) : (s.mapGroups e).resp = s.resp := rfl
@[simp] theorem State.mapGroups_imprecise (s : State) (e : Group → Group) : (s.mapGroups e).imprecise = s.imprecise := rfl
@[simp] theorem State.mapGroups_ags (s : State) (e : Group → Group) : (s.mapGroups e).ags = s.ags := rfl
@[simp] theorem State.mapGroups_stale (s : State) (e : Group → Group) : (s.mapGroups e).stale = s.stale := rfl
@[simp] theorem State.mapGroups_tuples (s : State) (e : Group → Group) : (s.mapGroups e).tuples = s.tuples := rfl
@[simp] theorem State.mapGroups_qpkts (s : State) (e : Group → Group) : (s.mapGroups e).qpkts = s.qpkts := rfl
@[simp] theorem State.mapGroups_gangs (s : State) (e : Group → Group) : (s.mapGroups e).gangs = s.gangs := rfl
@[simp] theorem State.mapGroups_saved (s : State) (e : Group → Group) : (s.mapGroups e).saved = s.saved := rfl
@[simp] theorem State.mapGroups_sysops (s : State) (e : Group → Group) : (s.mapGroups e).sysops = s.sysops := rfl
@[simp] theorem State.mapGroups_heads (s : State) (e : Group → Group) : (s.mapGroups e).heads = s.heads := rfl
@[simp] theorem State.mapGroups_host (s : State) (e : Group → Group) : (s.mapGroups e).host = s.host := rfl
@[simp] theorem State.mapGroups_hostWords (s : State) (e : Group → Group) : (s.mapGroups e).hostWords = s.hostWords := rfl

@[simp] theorem State.modGroup_g (s : State) (gid : Nat) (e : Group → Group) : (s.modGroup gid e).g = if s.g.id = gid then e s.g else s.g := rfl
@[simp] theorem State.modGroup_groups (s : State) (gid : Nat) (e : Group → Group) : (s.modGroup gid e).groups = s.groups.map fun g => if g.id = gid then e g else g := rfl
@[simp] theorem State.modGroup_mem (s : State) (gid : Nat) (e : Group → Group) : (s.modGroup gid e).mem = s.mem := rfl
@[simp] theorem State.modGroup_free (s : State) (gid : Nat) (e : Group → Group) : (s.modGroup gid e).free = s.free := rfl
@[simp] theorem State.modGroup_time (s : State) (gid : Nat) (e : Group → Group) : (s.modGroup gid e).time = s.time := rfl
@[simp] theorem State.modGroup_next (s : State) (gid : Nat) (e : Group → Group) : (s.modGroup gid e).next = s.next := rfl
@[simp] theorem State.modGroup_agenda (s : State) (gid : Nat) (e : Group → Group) : (s.modGroup gid e).agenda = s.agenda := rfl
@[simp] theorem State.modGroup_extended (s : State) (gid : Nat) (e : Group → Group) : (s.modGroup gid e).extended = s.extended := rfl
@[simp] theorem State.modGroup_pkgs (s : State) (gid : Nat) (e : Group → Group) : (s.modGroup gid e).pkgs = s.pkgs := rfl
@[simp] theorem State.modGroup_cores (s : State) (gid : Nat) (e : Group → Group) : (s.modGroup gid e).cores = s.cores := rfl
@[simp] theorem State.modGroup_crews (s : State) (gid : Nat) (e : Group → Group) : (s.modGroup gid e).crews = s.crews := rfl
@[simp] theorem State.modGroup_tiles (s : State) (gid : Nat) (e : Group → Group) : (s.modGroup gid e).tiles = s.tiles := rfl
@[simp] theorem State.modGroup_trees (s : State) (gid : Nat) (e : Group → Group) : (s.modGroup gid e).trees = s.trees := rfl
@[simp] theorem State.modGroup_exts (s : State) (gid : Nat) (e : Group → Group) : (s.modGroup gid e).exts = s.exts := rfl
@[simp] theorem State.modGroup_bars (s : State) (gid : Nat) (e : Group → Group) : (s.modGroup gid e).bars = s.bars := rfl
@[simp] theorem State.modGroup_liveBars (s : State) (gid : Nat) (e : Group → Group) : (s.modGroup gid e).liveBars = s.liveBars := rfl
@[simp] theorem State.modGroup_wildBars (s : State) (gid : Nat) (e : Group → Group) : (s.modGroup gid e).wildBars = s.wildBars := rfl
@[simp] theorem State.modGroup_handles (s : State) (gid : Nat) (e : Group → Group) : (s.modGroup gid e).handles = s.handles := rfl
@[simp] theorem State.modGroup_cmds (s : State) (gid : Nat) (e : Group → Group) : (s.modGroup gid e).cmds = s.cmds := rfl
@[simp] theorem State.modGroup_streams (s : State) (gid : Nat) (e : Group → Group) : (s.modGroup gid e).streams = s.streams := rfl
@[simp] theorem State.modGroup_vats (s : State) (gid : Nat) (e : Group → Group) : (s.modGroup gid e).vats = s.vats := rfl
@[simp] theorem State.modGroup_taint (s : State) (gid : Nat) (e : Group → Group) : (s.modGroup gid e).taint = s.taint := rfl
@[simp] theorem State.modGroup_mixed (s : State) (gid : Nat) (e : Group → Group) : (s.modGroup gid e).mixed = s.mixed := rfl
@[simp] theorem State.modGroup_undef (s : State) (gid : Nat) (e : Group → Group) : (s.modGroup gid e).undef = s.undef := rfl
@[simp] theorem State.modGroup_lines (s : State) (gid : Nat) (e : Group → Group) : (s.modGroup gid e).lines = s.lines := rfl
@[simp] theorem State.modGroup_pend (s : State) (gid : Nat) (e : Group → Group) : (s.modGroup gid e).pend = s.pend := rfl
@[simp] theorem State.modGroup_tlb (s : State) (gid : Nat) (e : Group → Group) : (s.modGroup gid e).tlb = s.tlb := rfl
@[simp] theorem State.modGroup_poison (s : State) (gid : Nat) (e : Group → Group) : (s.modGroup gid e).poison = s.poison := rfl
@[simp] theorem State.modGroup_corrected (s : State) (gid : Nat) (e : Group → Group) : (s.modGroup gid e).corrected = s.corrected := rfl
@[simp] theorem State.modGroup_net (s : State) (gid : Nat) (e : Group → Group) : (s.modGroup gid e).net = s.net := rfl
@[simp] theorem State.modGroup_resp (s : State) (gid : Nat) (e : Group → Group) : (s.modGroup gid e).resp = s.resp := rfl
@[simp] theorem State.modGroup_imprecise (s : State) (gid : Nat) (e : Group → Group) : (s.modGroup gid e).imprecise = s.imprecise := rfl
@[simp] theorem State.modGroup_ags (s : State) (gid : Nat) (e : Group → Group) : (s.modGroup gid e).ags = s.ags := rfl
@[simp] theorem State.modGroup_stale (s : State) (gid : Nat) (e : Group → Group) : (s.modGroup gid e).stale = s.stale := rfl
@[simp] theorem State.modGroup_tuples (s : State) (gid : Nat) (e : Group → Group) : (s.modGroup gid e).tuples = s.tuples := rfl
@[simp] theorem State.modGroup_qpkts (s : State) (gid : Nat) (e : Group → Group) : (s.modGroup gid e).qpkts = s.qpkts := rfl
@[simp] theorem State.modGroup_gangs (s : State) (gid : Nat) (e : Group → Group) : (s.modGroup gid e).gangs = s.gangs := rfl
@[simp] theorem State.modGroup_saved (s : State) (gid : Nat) (e : Group → Group) : (s.modGroup gid e).saved = s.saved := rfl
@[simp] theorem State.modGroup_sysops (s : State) (gid : Nat) (e : Group → Group) : (s.modGroup gid e).sysops = s.sysops := rfl
@[simp] theorem State.modGroup_heads (s : State) (gid : Nat) (e : Group → Group) : (s.modGroup gid e).heads = s.heads := rfl
@[simp] theorem State.modGroup_host (s : State) (gid : Nat) (e : Group → Group) : (s.modGroup gid e).host = s.host := rfl
@[simp] theorem State.modGroup_hostWords (s : State) (gid : Nat) (e : Group → Group) : (s.modGroup gid e).hostWords = s.hostWords := rfl

@[simp] theorem State.addGroup_g (s : State) (h : Group) : (s.addGroup h).g = s.g := rfl
@[simp] theorem State.addGroup_groups (s : State) (h : Group) : (s.addGroup h).groups = s.groups ++ [h] := rfl
@[simp] theorem State.addGroup_mem (s : State) (h : Group) : (s.addGroup h).mem = s.mem := rfl
@[simp] theorem State.addGroup_free (s : State) (h : Group) : (s.addGroup h).free = s.free := rfl
@[simp] theorem State.addGroup_time (s : State) (h : Group) : (s.addGroup h).time = s.time := rfl
@[simp] theorem State.addGroup_next (s : State) (h : Group) : (s.addGroup h).next = s.next := rfl
@[simp] theorem State.addGroup_agenda (s : State) (h : Group) : (s.addGroup h).agenda = s.agenda := rfl
@[simp] theorem State.addGroup_extended (s : State) (h : Group) : (s.addGroup h).extended = s.extended := rfl
@[simp] theorem State.addGroup_pkgs (s : State) (h : Group) : (s.addGroup h).pkgs = s.pkgs := rfl
@[simp] theorem State.addGroup_cores (s : State) (h : Group) : (s.addGroup h).cores = s.cores := rfl
@[simp] theorem State.addGroup_crews (s : State) (h : Group) : (s.addGroup h).crews = s.crews := rfl
@[simp] theorem State.addGroup_tiles (s : State) (h : Group) : (s.addGroup h).tiles = s.tiles := rfl
@[simp] theorem State.addGroup_trees (s : State) (h : Group) : (s.addGroup h).trees = s.trees := rfl
@[simp] theorem State.addGroup_exts (s : State) (h : Group) : (s.addGroup h).exts = s.exts := rfl
@[simp] theorem State.addGroup_bars (s : State) (h : Group) : (s.addGroup h).bars = s.bars := rfl
@[simp] theorem State.addGroup_liveBars (s : State) (h : Group) : (s.addGroup h).liveBars = s.liveBars := rfl
@[simp] theorem State.addGroup_wildBars (s : State) (h : Group) : (s.addGroup h).wildBars = s.wildBars := rfl
@[simp] theorem State.addGroup_handles (s : State) (h : Group) : (s.addGroup h).handles = s.handles := rfl
@[simp] theorem State.addGroup_cmds (s : State) (h : Group) : (s.addGroup h).cmds = s.cmds := rfl
@[simp] theorem State.addGroup_streams (s : State) (h : Group) : (s.addGroup h).streams = s.streams := rfl
@[simp] theorem State.addGroup_vats (s : State) (h : Group) : (s.addGroup h).vats = s.vats := rfl
@[simp] theorem State.addGroup_taint (s : State) (h : Group) : (s.addGroup h).taint = s.taint := rfl
@[simp] theorem State.addGroup_mixed (s : State) (h : Group) : (s.addGroup h).mixed = s.mixed := rfl
@[simp] theorem State.addGroup_undef (s : State) (h : Group) : (s.addGroup h).undef = s.undef := rfl
@[simp] theorem State.addGroup_lines (s : State) (h : Group) : (s.addGroup h).lines = s.lines := rfl
@[simp] theorem State.addGroup_pend (s : State) (h : Group) : (s.addGroup h).pend = s.pend := rfl
@[simp] theorem State.addGroup_tlb (s : State) (h : Group) : (s.addGroup h).tlb = s.tlb := rfl
@[simp] theorem State.addGroup_poison (s : State) (h : Group) : (s.addGroup h).poison = s.poison := rfl
@[simp] theorem State.addGroup_corrected (s : State) (h : Group) : (s.addGroup h).corrected = s.corrected := rfl
@[simp] theorem State.addGroup_net (s : State) (h : Group) : (s.addGroup h).net = s.net := rfl
@[simp] theorem State.addGroup_resp (s : State) (h : Group) : (s.addGroup h).resp = s.resp := rfl
@[simp] theorem State.addGroup_imprecise (s : State) (h : Group) : (s.addGroup h).imprecise = s.imprecise := rfl
@[simp] theorem State.addGroup_ags (s : State) (h : Group) : (s.addGroup h).ags = s.ags := rfl
@[simp] theorem State.addGroup_stale (s : State) (h : Group) : (s.addGroup h).stale = s.stale := rfl
@[simp] theorem State.addGroup_tuples (s : State) (h : Group) : (s.addGroup h).tuples = s.tuples := rfl
@[simp] theorem State.addGroup_qpkts (s : State) (h : Group) : (s.addGroup h).qpkts = s.qpkts := rfl
@[simp] theorem State.addGroup_gangs (s : State) (h : Group) : (s.addGroup h).gangs = s.gangs := rfl
@[simp] theorem State.addGroup_saved (s : State) (h : Group) : (s.addGroup h).saved = s.saved := rfl
@[simp] theorem State.addGroup_sysops (s : State) (h : Group) : (s.addGroup h).sysops = s.sysops := rfl
@[simp] theorem State.addGroup_heads (s : State) (h : Group) : (s.addGroup h).heads = s.heads := rfl
@[simp] theorem State.addGroup_host (s : State) (h : Group) : (s.addGroup h).host = s.host := rfl
@[simp] theorem State.addGroup_hostWords (s : State) (h : Group) : (s.addGroup h).hostWords = s.hostWords := rfl

@[simp] theorem State.dropGroups_g (s : State) (q : Group → Bool) : (s.dropGroups q).g = if q s.g then Group.empty else s.g := rfl
@[simp] theorem State.dropGroups_groups (s : State) (q : Group → Bool) : (s.dropGroups q).groups = s.groups.filter fun g => !q g := rfl
@[simp] theorem State.dropGroups_mem (s : State) (q : Group → Bool) : (s.dropGroups q).mem = s.mem := rfl
@[simp] theorem State.dropGroups_free (s : State) (q : Group → Bool) : (s.dropGroups q).free = s.free := rfl
@[simp] theorem State.dropGroups_time (s : State) (q : Group → Bool) : (s.dropGroups q).time = s.time := rfl
@[simp] theorem State.dropGroups_next (s : State) (q : Group → Bool) : (s.dropGroups q).next = s.next := rfl
@[simp] theorem State.dropGroups_agenda (s : State) (q : Group → Bool) : (s.dropGroups q).agenda = s.agenda := rfl
@[simp] theorem State.dropGroups_extended (s : State) (q : Group → Bool) : (s.dropGroups q).extended = s.extended := rfl
@[simp] theorem State.dropGroups_pkgs (s : State) (q : Group → Bool) : (s.dropGroups q).pkgs = s.pkgs := rfl
@[simp] theorem State.dropGroups_cores (s : State) (q : Group → Bool) : (s.dropGroups q).cores = s.cores := rfl
@[simp] theorem State.dropGroups_crews (s : State) (q : Group → Bool) : (s.dropGroups q).crews = s.crews := rfl
@[simp] theorem State.dropGroups_tiles (s : State) (q : Group → Bool) : (s.dropGroups q).tiles = s.tiles := rfl
@[simp] theorem State.dropGroups_trees (s : State) (q : Group → Bool) : (s.dropGroups q).trees = s.trees := rfl
@[simp] theorem State.dropGroups_exts (s : State) (q : Group → Bool) : (s.dropGroups q).exts = s.exts := rfl
@[simp] theorem State.dropGroups_bars (s : State) (q : Group → Bool) : (s.dropGroups q).bars = s.bars := rfl
@[simp] theorem State.dropGroups_liveBars (s : State) (q : Group → Bool) : (s.dropGroups q).liveBars = s.liveBars := rfl
@[simp] theorem State.dropGroups_wildBars (s : State) (q : Group → Bool) : (s.dropGroups q).wildBars = s.wildBars := rfl
@[simp] theorem State.dropGroups_handles (s : State) (q : Group → Bool) : (s.dropGroups q).handles = s.handles := rfl
@[simp] theorem State.dropGroups_cmds (s : State) (q : Group → Bool) : (s.dropGroups q).cmds = s.cmds := rfl
@[simp] theorem State.dropGroups_streams (s : State) (q : Group → Bool) : (s.dropGroups q).streams = s.streams := rfl
@[simp] theorem State.dropGroups_vats (s : State) (q : Group → Bool) : (s.dropGroups q).vats = s.vats := rfl
@[simp] theorem State.dropGroups_taint (s : State) (q : Group → Bool) : (s.dropGroups q).taint = s.taint := rfl
@[simp] theorem State.dropGroups_mixed (s : State) (q : Group → Bool) : (s.dropGroups q).mixed = s.mixed := rfl
@[simp] theorem State.dropGroups_undef (s : State) (q : Group → Bool) : (s.dropGroups q).undef = s.undef := rfl
@[simp] theorem State.dropGroups_lines (s : State) (q : Group → Bool) : (s.dropGroups q).lines = s.lines := rfl
@[simp] theorem State.dropGroups_pend (s : State) (q : Group → Bool) : (s.dropGroups q).pend = s.pend := rfl
@[simp] theorem State.dropGroups_tlb (s : State) (q : Group → Bool) : (s.dropGroups q).tlb = s.tlb := rfl
@[simp] theorem State.dropGroups_poison (s : State) (q : Group → Bool) : (s.dropGroups q).poison = s.poison := rfl
@[simp] theorem State.dropGroups_corrected (s : State) (q : Group → Bool) : (s.dropGroups q).corrected = s.corrected := rfl
@[simp] theorem State.dropGroups_net (s : State) (q : Group → Bool) : (s.dropGroups q).net = s.net := rfl
@[simp] theorem State.dropGroups_resp (s : State) (q : Group → Bool) : (s.dropGroups q).resp = s.resp := rfl
@[simp] theorem State.dropGroups_imprecise (s : State) (q : Group → Bool) : (s.dropGroups q).imprecise = s.imprecise := rfl
@[simp] theorem State.dropGroups_ags (s : State) (q : Group → Bool) : (s.dropGroups q).ags = s.ags := rfl
@[simp] theorem State.dropGroups_stale (s : State) (q : Group → Bool) : (s.dropGroups q).stale = s.stale := rfl
@[simp] theorem State.dropGroups_tuples (s : State) (q : Group → Bool) : (s.dropGroups q).tuples = s.tuples := rfl
@[simp] theorem State.dropGroups_qpkts (s : State) (q : Group → Bool) : (s.dropGroups q).qpkts = s.qpkts := rfl
@[simp] theorem State.dropGroups_gangs (s : State) (q : Group → Bool) : (s.dropGroups q).gangs = s.gangs := rfl
@[simp] theorem State.dropGroups_saved (s : State) (q : Group → Bool) : (s.dropGroups q).saved = s.saved := rfl
@[simp] theorem State.dropGroups_sysops (s : State) (q : Group → Bool) : (s.dropGroups q).sysops = s.sysops := rfl
@[simp] theorem State.dropGroups_heads (s : State) (q : Group → Bool) : (s.dropGroups q).heads = s.heads := rfl
@[simp] theorem State.dropGroups_host (s : State) (q : Group → Bool) : (s.dropGroups q).host = s.host := rfl
@[simp] theorem State.dropGroups_hostWords (s : State) (q : Group → Bool) : (s.dropGroups q).hostWords = s.hostWords := rfl

@[simp] theorem State.modCrew_g (s : State) (id : Nat) (e : Crew → Crew) : (s.modCrew id e).g = s.g := rfl
@[simp] theorem State.modCrew_groups (s : State) (id : Nat) (e : Crew → Crew) : (s.modCrew id e).groups = s.groups := rfl
@[simp] theorem State.modCrew_mem (s : State) (id : Nat) (e : Crew → Crew) : (s.modCrew id e).mem = s.mem := rfl
@[simp] theorem State.modCrew_free (s : State) (id : Nat) (e : Crew → Crew) : (s.modCrew id e).free = s.free := rfl
@[simp] theorem State.modCrew_time (s : State) (id : Nat) (e : Crew → Crew) : (s.modCrew id e).time = s.time := rfl
@[simp] theorem State.modCrew_next (s : State) (id : Nat) (e : Crew → Crew) : (s.modCrew id e).next = s.next := rfl
@[simp] theorem State.modCrew_agenda (s : State) (id : Nat) (e : Crew → Crew) : (s.modCrew id e).agenda = s.agenda := rfl
@[simp] theorem State.modCrew_extended (s : State) (id : Nat) (e : Crew → Crew) : (s.modCrew id e).extended = s.extended := rfl
@[simp] theorem State.modCrew_pkgs (s : State) (id : Nat) (e : Crew → Crew) : (s.modCrew id e).pkgs = s.pkgs := rfl
@[simp] theorem State.modCrew_cores (s : State) (id : Nat) (e : Crew → Crew) : (s.modCrew id e).cores = s.cores := rfl
@[simp] theorem State.modCrew_crews (s : State) (id : Nat) (e : Crew → Crew) : (s.modCrew id e).crews = s.crews.map fun c => if c.id = id then e c else c := rfl
@[simp] theorem State.modCrew_tiles (s : State) (id : Nat) (e : Crew → Crew) : (s.modCrew id e).tiles = s.tiles := rfl
@[simp] theorem State.modCrew_trees (s : State) (id : Nat) (e : Crew → Crew) : (s.modCrew id e).trees = s.trees := rfl
@[simp] theorem State.modCrew_exts (s : State) (id : Nat) (e : Crew → Crew) : (s.modCrew id e).exts = s.exts := rfl
@[simp] theorem State.modCrew_bars (s : State) (id : Nat) (e : Crew → Crew) : (s.modCrew id e).bars = s.bars := rfl
@[simp] theorem State.modCrew_liveBars (s : State) (id : Nat) (e : Crew → Crew) : (s.modCrew id e).liveBars = s.liveBars := rfl
@[simp] theorem State.modCrew_wildBars (s : State) (id : Nat) (e : Crew → Crew) : (s.modCrew id e).wildBars = s.wildBars := rfl
@[simp] theorem State.modCrew_handles (s : State) (id : Nat) (e : Crew → Crew) : (s.modCrew id e).handles = s.handles := rfl
@[simp] theorem State.modCrew_cmds (s : State) (id : Nat) (e : Crew → Crew) : (s.modCrew id e).cmds = s.cmds := rfl
@[simp] theorem State.modCrew_streams (s : State) (id : Nat) (e : Crew → Crew) : (s.modCrew id e).streams = s.streams := rfl
@[simp] theorem State.modCrew_vats (s : State) (id : Nat) (e : Crew → Crew) : (s.modCrew id e).vats = s.vats := rfl
@[simp] theorem State.modCrew_taint (s : State) (id : Nat) (e : Crew → Crew) : (s.modCrew id e).taint = s.taint := rfl
@[simp] theorem State.modCrew_mixed (s : State) (id : Nat) (e : Crew → Crew) : (s.modCrew id e).mixed = s.mixed := rfl
@[simp] theorem State.modCrew_undef (s : State) (id : Nat) (e : Crew → Crew) : (s.modCrew id e).undef = s.undef := rfl
@[simp] theorem State.modCrew_lines (s : State) (id : Nat) (e : Crew → Crew) : (s.modCrew id e).lines = s.lines := rfl
@[simp] theorem State.modCrew_pend (s : State) (id : Nat) (e : Crew → Crew) : (s.modCrew id e).pend = s.pend := rfl
@[simp] theorem State.modCrew_tlb (s : State) (id : Nat) (e : Crew → Crew) : (s.modCrew id e).tlb = s.tlb := rfl
@[simp] theorem State.modCrew_poison (s : State) (id : Nat) (e : Crew → Crew) : (s.modCrew id e).poison = s.poison := rfl
@[simp] theorem State.modCrew_corrected (s : State) (id : Nat) (e : Crew → Crew) : (s.modCrew id e).corrected = s.corrected := rfl
@[simp] theorem State.modCrew_net (s : State) (id : Nat) (e : Crew → Crew) : (s.modCrew id e).net = s.net := rfl
@[simp] theorem State.modCrew_resp (s : State) (id : Nat) (e : Crew → Crew) : (s.modCrew id e).resp = s.resp := rfl
@[simp] theorem State.modCrew_imprecise (s : State) (id : Nat) (e : Crew → Crew) : (s.modCrew id e).imprecise = s.imprecise := rfl
@[simp] theorem State.modCrew_ags (s : State) (id : Nat) (e : Crew → Crew) : (s.modCrew id e).ags = s.ags := rfl
@[simp] theorem State.modCrew_stale (s : State) (id : Nat) (e : Crew → Crew) : (s.modCrew id e).stale = s.stale := rfl
@[simp] theorem State.modCrew_tuples (s : State) (id : Nat) (e : Crew → Crew) : (s.modCrew id e).tuples = s.tuples := rfl
@[simp] theorem State.modCrew_qpkts (s : State) (id : Nat) (e : Crew → Crew) : (s.modCrew id e).qpkts = s.qpkts := rfl
@[simp] theorem State.modCrew_gangs (s : State) (id : Nat) (e : Crew → Crew) : (s.modCrew id e).gangs = s.gangs := rfl
@[simp] theorem State.modCrew_saved (s : State) (id : Nat) (e : Crew → Crew) : (s.modCrew id e).saved = s.saved := rfl
@[simp] theorem State.modCrew_sysops (s : State) (id : Nat) (e : Crew → Crew) : (s.modCrew id e).sysops = s.sysops := rfl
@[simp] theorem State.modCrew_heads (s : State) (id : Nat) (e : Crew → Crew) : (s.modCrew id e).heads = s.heads := rfl
@[simp] theorem State.modCrew_host (s : State) (id : Nat) (e : Crew → Crew) : (s.modCrew id e).host = s.host := rfl
@[simp] theorem State.modCrew_hostWords (s : State) (id : Nat) (e : Crew → Crew) : (s.modCrew id e).hostWords = s.hostWords := rfl

@[simp] theorem State.modTile_g (s : State) (id : Nat) (e : Tile → Tile) : (s.modTile id e).g = s.g := rfl
@[simp] theorem State.modTile_groups (s : State) (id : Nat) (e : Tile → Tile) : (s.modTile id e).groups = s.groups := rfl
@[simp] theorem State.modTile_mem (s : State) (id : Nat) (e : Tile → Tile) : (s.modTile id e).mem = s.mem := rfl
@[simp] theorem State.modTile_free (s : State) (id : Nat) (e : Tile → Tile) : (s.modTile id e).free = s.free := rfl
@[simp] theorem State.modTile_time (s : State) (id : Nat) (e : Tile → Tile) : (s.modTile id e).time = s.time := rfl
@[simp] theorem State.modTile_next (s : State) (id : Nat) (e : Tile → Tile) : (s.modTile id e).next = s.next := rfl
@[simp] theorem State.modTile_agenda (s : State) (id : Nat) (e : Tile → Tile) : (s.modTile id e).agenda = s.agenda := rfl
@[simp] theorem State.modTile_extended (s : State) (id : Nat) (e : Tile → Tile) : (s.modTile id e).extended = s.extended := rfl
@[simp] theorem State.modTile_pkgs (s : State) (id : Nat) (e : Tile → Tile) : (s.modTile id e).pkgs = s.pkgs := rfl
@[simp] theorem State.modTile_cores (s : State) (id : Nat) (e : Tile → Tile) : (s.modTile id e).cores = s.cores := rfl
@[simp] theorem State.modTile_crews (s : State) (id : Nat) (e : Tile → Tile) : (s.modTile id e).crews = s.crews := rfl
@[simp] theorem State.modTile_tiles (s : State) (id : Nat) (e : Tile → Tile) : (s.modTile id e).tiles = s.tiles.map fun c => if c.id = id then e c else c := rfl
@[simp] theorem State.modTile_trees (s : State) (id : Nat) (e : Tile → Tile) : (s.modTile id e).trees = s.trees := rfl
@[simp] theorem State.modTile_exts (s : State) (id : Nat) (e : Tile → Tile) : (s.modTile id e).exts = s.exts := rfl
@[simp] theorem State.modTile_bars (s : State) (id : Nat) (e : Tile → Tile) : (s.modTile id e).bars = s.bars := rfl
@[simp] theorem State.modTile_liveBars (s : State) (id : Nat) (e : Tile → Tile) : (s.modTile id e).liveBars = s.liveBars := rfl
@[simp] theorem State.modTile_wildBars (s : State) (id : Nat) (e : Tile → Tile) : (s.modTile id e).wildBars = s.wildBars := rfl
@[simp] theorem State.modTile_handles (s : State) (id : Nat) (e : Tile → Tile) : (s.modTile id e).handles = s.handles := rfl
@[simp] theorem State.modTile_cmds (s : State) (id : Nat) (e : Tile → Tile) : (s.modTile id e).cmds = s.cmds := rfl
@[simp] theorem State.modTile_streams (s : State) (id : Nat) (e : Tile → Tile) : (s.modTile id e).streams = s.streams := rfl
@[simp] theorem State.modTile_vats (s : State) (id : Nat) (e : Tile → Tile) : (s.modTile id e).vats = s.vats := rfl
@[simp] theorem State.modTile_taint (s : State) (id : Nat) (e : Tile → Tile) : (s.modTile id e).taint = s.taint := rfl
@[simp] theorem State.modTile_mixed (s : State) (id : Nat) (e : Tile → Tile) : (s.modTile id e).mixed = s.mixed := rfl
@[simp] theorem State.modTile_undef (s : State) (id : Nat) (e : Tile → Tile) : (s.modTile id e).undef = s.undef := rfl
@[simp] theorem State.modTile_lines (s : State) (id : Nat) (e : Tile → Tile) : (s.modTile id e).lines = s.lines := rfl
@[simp] theorem State.modTile_pend (s : State) (id : Nat) (e : Tile → Tile) : (s.modTile id e).pend = s.pend := rfl
@[simp] theorem State.modTile_tlb (s : State) (id : Nat) (e : Tile → Tile) : (s.modTile id e).tlb = s.tlb := rfl
@[simp] theorem State.modTile_poison (s : State) (id : Nat) (e : Tile → Tile) : (s.modTile id e).poison = s.poison := rfl
@[simp] theorem State.modTile_corrected (s : State) (id : Nat) (e : Tile → Tile) : (s.modTile id e).corrected = s.corrected := rfl
@[simp] theorem State.modTile_net (s : State) (id : Nat) (e : Tile → Tile) : (s.modTile id e).net = s.net := rfl
@[simp] theorem State.modTile_resp (s : State) (id : Nat) (e : Tile → Tile) : (s.modTile id e).resp = s.resp := rfl
@[simp] theorem State.modTile_imprecise (s : State) (id : Nat) (e : Tile → Tile) : (s.modTile id e).imprecise = s.imprecise := rfl
@[simp] theorem State.modTile_ags (s : State) (id : Nat) (e : Tile → Tile) : (s.modTile id e).ags = s.ags := rfl
@[simp] theorem State.modTile_stale (s : State) (id : Nat) (e : Tile → Tile) : (s.modTile id e).stale = s.stale := rfl
@[simp] theorem State.modTile_tuples (s : State) (id : Nat) (e : Tile → Tile) : (s.modTile id e).tuples = s.tuples := rfl
@[simp] theorem State.modTile_qpkts (s : State) (id : Nat) (e : Tile → Tile) : (s.modTile id e).qpkts = s.qpkts := rfl
@[simp] theorem State.modTile_gangs (s : State) (id : Nat) (e : Tile → Tile) : (s.modTile id e).gangs = s.gangs := rfl
@[simp] theorem State.modTile_saved (s : State) (id : Nat) (e : Tile → Tile) : (s.modTile id e).saved = s.saved := rfl
@[simp] theorem State.modTile_sysops (s : State) (id : Nat) (e : Tile → Tile) : (s.modTile id e).sysops = s.sysops := rfl
@[simp] theorem State.modTile_heads (s : State) (id : Nat) (e : Tile → Tile) : (s.modTile id e).heads = s.heads := rfl
@[simp] theorem State.modTile_host (s : State) (id : Nat) (e : Tile → Tile) : (s.modTile id e).host = s.host := rfl
@[simp] theorem State.modTile_hostWords (s : State) (id : Nat) (e : Tile → Tile) : (s.modTile id e).hostWords = s.hostWords := rfl

@[simp] theorem State.modTree_g (s : State) (id : Nat) (e : Tree → Tree) : (s.modTree id e).g = s.g := rfl
@[simp] theorem State.modTree_groups (s : State) (id : Nat) (e : Tree → Tree) : (s.modTree id e).groups = s.groups := rfl
@[simp] theorem State.modTree_mem (s : State) (id : Nat) (e : Tree → Tree) : (s.modTree id e).mem = s.mem := rfl
@[simp] theorem State.modTree_free (s : State) (id : Nat) (e : Tree → Tree) : (s.modTree id e).free = s.free := rfl
@[simp] theorem State.modTree_time (s : State) (id : Nat) (e : Tree → Tree) : (s.modTree id e).time = s.time := rfl
@[simp] theorem State.modTree_next (s : State) (id : Nat) (e : Tree → Tree) : (s.modTree id e).next = s.next := rfl
@[simp] theorem State.modTree_agenda (s : State) (id : Nat) (e : Tree → Tree) : (s.modTree id e).agenda = s.agenda := rfl
@[simp] theorem State.modTree_extended (s : State) (id : Nat) (e : Tree → Tree) : (s.modTree id e).extended = s.extended := rfl
@[simp] theorem State.modTree_pkgs (s : State) (id : Nat) (e : Tree → Tree) : (s.modTree id e).pkgs = s.pkgs := rfl
@[simp] theorem State.modTree_cores (s : State) (id : Nat) (e : Tree → Tree) : (s.modTree id e).cores = s.cores := rfl
@[simp] theorem State.modTree_crews (s : State) (id : Nat) (e : Tree → Tree) : (s.modTree id e).crews = s.crews := rfl
@[simp] theorem State.modTree_tiles (s : State) (id : Nat) (e : Tree → Tree) : (s.modTree id e).tiles = s.tiles := rfl
@[simp] theorem State.modTree_trees (s : State) (id : Nat) (e : Tree → Tree) : (s.modTree id e).trees = s.trees.map fun c => if c.id = id then e c else c := rfl
@[simp] theorem State.modTree_exts (s : State) (id : Nat) (e : Tree → Tree) : (s.modTree id e).exts = s.exts := rfl
@[simp] theorem State.modTree_bars (s : State) (id : Nat) (e : Tree → Tree) : (s.modTree id e).bars = s.bars := rfl
@[simp] theorem State.modTree_liveBars (s : State) (id : Nat) (e : Tree → Tree) : (s.modTree id e).liveBars = s.liveBars := rfl
@[simp] theorem State.modTree_wildBars (s : State) (id : Nat) (e : Tree → Tree) : (s.modTree id e).wildBars = s.wildBars := rfl
@[simp] theorem State.modTree_handles (s : State) (id : Nat) (e : Tree → Tree) : (s.modTree id e).handles = s.handles := rfl
@[simp] theorem State.modTree_cmds (s : State) (id : Nat) (e : Tree → Tree) : (s.modTree id e).cmds = s.cmds := rfl
@[simp] theorem State.modTree_streams (s : State) (id : Nat) (e : Tree → Tree) : (s.modTree id e).streams = s.streams := rfl
@[simp] theorem State.modTree_vats (s : State) (id : Nat) (e : Tree → Tree) : (s.modTree id e).vats = s.vats := rfl
@[simp] theorem State.modTree_taint (s : State) (id : Nat) (e : Tree → Tree) : (s.modTree id e).taint = s.taint := rfl
@[simp] theorem State.modTree_mixed (s : State) (id : Nat) (e : Tree → Tree) : (s.modTree id e).mixed = s.mixed := rfl
@[simp] theorem State.modTree_undef (s : State) (id : Nat) (e : Tree → Tree) : (s.modTree id e).undef = s.undef := rfl
@[simp] theorem State.modTree_lines (s : State) (id : Nat) (e : Tree → Tree) : (s.modTree id e).lines = s.lines := rfl
@[simp] theorem State.modTree_pend (s : State) (id : Nat) (e : Tree → Tree) : (s.modTree id e).pend = s.pend := rfl
@[simp] theorem State.modTree_tlb (s : State) (id : Nat) (e : Tree → Tree) : (s.modTree id e).tlb = s.tlb := rfl
@[simp] theorem State.modTree_poison (s : State) (id : Nat) (e : Tree → Tree) : (s.modTree id e).poison = s.poison := rfl
@[simp] theorem State.modTree_corrected (s : State) (id : Nat) (e : Tree → Tree) : (s.modTree id e).corrected = s.corrected := rfl
@[simp] theorem State.modTree_net (s : State) (id : Nat) (e : Tree → Tree) : (s.modTree id e).net = s.net := rfl
@[simp] theorem State.modTree_resp (s : State) (id : Nat) (e : Tree → Tree) : (s.modTree id e).resp = s.resp := rfl
@[simp] theorem State.modTree_imprecise (s : State) (id : Nat) (e : Tree → Tree) : (s.modTree id e).imprecise = s.imprecise := rfl
@[simp] theorem State.modTree_ags (s : State) (id : Nat) (e : Tree → Tree) : (s.modTree id e).ags = s.ags := rfl
@[simp] theorem State.modTree_stale (s : State) (id : Nat) (e : Tree → Tree) : (s.modTree id e).stale = s.stale := rfl
@[simp] theorem State.modTree_tuples (s : State) (id : Nat) (e : Tree → Tree) : (s.modTree id e).tuples = s.tuples := rfl
@[simp] theorem State.modTree_qpkts (s : State) (id : Nat) (e : Tree → Tree) : (s.modTree id e).qpkts = s.qpkts := rfl
@[simp] theorem State.modTree_gangs (s : State) (id : Nat) (e : Tree → Tree) : (s.modTree id e).gangs = s.gangs := rfl
@[simp] theorem State.modTree_saved (s : State) (id : Nat) (e : Tree → Tree) : (s.modTree id e).saved = s.saved := rfl
@[simp] theorem State.modTree_sysops (s : State) (id : Nat) (e : Tree → Tree) : (s.modTree id e).sysops = s.sysops := rfl
@[simp] theorem State.modTree_heads (s : State) (id : Nat) (e : Tree → Tree) : (s.modTree id e).heads = s.heads := rfl
@[simp] theorem State.modTree_host (s : State) (id : Nat) (e : Tree → Tree) : (s.modTree id e).host = s.host := rfl
@[simp] theorem State.modTree_hostWords (s : State) (id : Nat) (e : Tree → Tree) : (s.modTree id e).hostWords = s.hostWords := rfl

@[simp] theorem State.modPkg_g (s : State) (n : Nat) (e : Package → Package) : (s.modPkg n e).g = s.g := rfl
@[simp] theorem State.modPkg_groups (s : State) (n : Nat) (e : Package → Package) : (s.modPkg n e).groups = s.groups := rfl
@[simp] theorem State.modPkg_mem (s : State) (n : Nat) (e : Package → Package) : (s.modPkg n e).mem = s.mem := rfl
@[simp] theorem State.modPkg_free (s : State) (n : Nat) (e : Package → Package) : (s.modPkg n e).free = s.free := rfl
@[simp] theorem State.modPkg_time (s : State) (n : Nat) (e : Package → Package) : (s.modPkg n e).time = s.time := rfl
@[simp] theorem State.modPkg_next (s : State) (n : Nat) (e : Package → Package) : (s.modPkg n e).next = s.next := rfl
@[simp] theorem State.modPkg_agenda (s : State) (n : Nat) (e : Package → Package) : (s.modPkg n e).agenda = s.agenda := rfl
@[simp] theorem State.modPkg_extended (s : State) (n : Nat) (e : Package → Package) : (s.modPkg n e).extended = s.extended := rfl
@[simp] theorem State.modPkg_pkgs (s : State) (n : Nat) (e : Package → Package) : (s.modPkg n e).pkgs = s.pkgs.map fun p => if p.num = n then e p else p := rfl
@[simp] theorem State.modPkg_cores (s : State) (n : Nat) (e : Package → Package) : (s.modPkg n e).cores = s.cores := rfl
@[simp] theorem State.modPkg_crews (s : State) (n : Nat) (e : Package → Package) : (s.modPkg n e).crews = s.crews := rfl
@[simp] theorem State.modPkg_tiles (s : State) (n : Nat) (e : Package → Package) : (s.modPkg n e).tiles = s.tiles := rfl
@[simp] theorem State.modPkg_trees (s : State) (n : Nat) (e : Package → Package) : (s.modPkg n e).trees = s.trees := rfl
@[simp] theorem State.modPkg_exts (s : State) (n : Nat) (e : Package → Package) : (s.modPkg n e).exts = s.exts := rfl
@[simp] theorem State.modPkg_bars (s : State) (n : Nat) (e : Package → Package) : (s.modPkg n e).bars = s.bars := rfl
@[simp] theorem State.modPkg_liveBars (s : State) (n : Nat) (e : Package → Package) : (s.modPkg n e).liveBars = s.liveBars := rfl
@[simp] theorem State.modPkg_wildBars (s : State) (n : Nat) (e : Package → Package) : (s.modPkg n e).wildBars = s.wildBars := rfl
@[simp] theorem State.modPkg_handles (s : State) (n : Nat) (e : Package → Package) : (s.modPkg n e).handles = s.handles := rfl
@[simp] theorem State.modPkg_cmds (s : State) (n : Nat) (e : Package → Package) : (s.modPkg n e).cmds = s.cmds := rfl
@[simp] theorem State.modPkg_streams (s : State) (n : Nat) (e : Package → Package) : (s.modPkg n e).streams = s.streams := rfl
@[simp] theorem State.modPkg_vats (s : State) (n : Nat) (e : Package → Package) : (s.modPkg n e).vats = s.vats := rfl
@[simp] theorem State.modPkg_taint (s : State) (n : Nat) (e : Package → Package) : (s.modPkg n e).taint = s.taint := rfl
@[simp] theorem State.modPkg_mixed (s : State) (n : Nat) (e : Package → Package) : (s.modPkg n e).mixed = s.mixed := rfl
@[simp] theorem State.modPkg_undef (s : State) (n : Nat) (e : Package → Package) : (s.modPkg n e).undef = s.undef := rfl
@[simp] theorem State.modPkg_lines (s : State) (n : Nat) (e : Package → Package) : (s.modPkg n e).lines = s.lines := rfl
@[simp] theorem State.modPkg_pend (s : State) (n : Nat) (e : Package → Package) : (s.modPkg n e).pend = s.pend := rfl
@[simp] theorem State.modPkg_tlb (s : State) (n : Nat) (e : Package → Package) : (s.modPkg n e).tlb = s.tlb := rfl
@[simp] theorem State.modPkg_poison (s : State) (n : Nat) (e : Package → Package) : (s.modPkg n e).poison = s.poison := rfl
@[simp] theorem State.modPkg_corrected (s : State) (n : Nat) (e : Package → Package) : (s.modPkg n e).corrected = s.corrected := rfl
@[simp] theorem State.modPkg_net (s : State) (n : Nat) (e : Package → Package) : (s.modPkg n e).net = s.net := rfl
@[simp] theorem State.modPkg_resp (s : State) (n : Nat) (e : Package → Package) : (s.modPkg n e).resp = s.resp := rfl
@[simp] theorem State.modPkg_imprecise (s : State) (n : Nat) (e : Package → Package) : (s.modPkg n e).imprecise = s.imprecise := rfl
@[simp] theorem State.modPkg_ags (s : State) (n : Nat) (e : Package → Package) : (s.modPkg n e).ags = s.ags := rfl
@[simp] theorem State.modPkg_stale (s : State) (n : Nat) (e : Package → Package) : (s.modPkg n e).stale = s.stale := rfl
@[simp] theorem State.modPkg_tuples (s : State) (n : Nat) (e : Package → Package) : (s.modPkg n e).tuples = s.tuples := rfl
@[simp] theorem State.modPkg_qpkts (s : State) (n : Nat) (e : Package → Package) : (s.modPkg n e).qpkts = s.qpkts := rfl
@[simp] theorem State.modPkg_gangs (s : State) (n : Nat) (e : Package → Package) : (s.modPkg n e).gangs = s.gangs := rfl
@[simp] theorem State.modPkg_saved (s : State) (n : Nat) (e : Package → Package) : (s.modPkg n e).saved = s.saved := rfl
@[simp] theorem State.modPkg_sysops (s : State) (n : Nat) (e : Package → Package) : (s.modPkg n e).sysops = s.sysops := rfl
@[simp] theorem State.modPkg_heads (s : State) (n : Nat) (e : Package → Package) : (s.modPkg n e).heads = s.heads := rfl
@[simp] theorem State.modPkg_host (s : State) (n : Nat) (e : Package → Package) : (s.modPkg n e).host = s.host := rfl
@[simp] theorem State.modPkg_hostWords (s : State) (n : Nat) (e : Package → Package) : (s.modPkg n e).hostWords = s.hostWords := rfl

@[simp] theorem State.modCmd_g (s : State) (id : Nat) (e : Cmd → Cmd) : (s.modCmd id e).g = s.g := rfl
@[simp] theorem State.modCmd_groups (s : State) (id : Nat) (e : Cmd → Cmd) : (s.modCmd id e).groups = s.groups := rfl
@[simp] theorem State.modCmd_mem (s : State) (id : Nat) (e : Cmd → Cmd) : (s.modCmd id e).mem = s.mem := rfl
@[simp] theorem State.modCmd_free (s : State) (id : Nat) (e : Cmd → Cmd) : (s.modCmd id e).free = s.free := rfl
@[simp] theorem State.modCmd_time (s : State) (id : Nat) (e : Cmd → Cmd) : (s.modCmd id e).time = s.time := rfl
@[simp] theorem State.modCmd_next (s : State) (id : Nat) (e : Cmd → Cmd) : (s.modCmd id e).next = s.next := rfl
@[simp] theorem State.modCmd_agenda (s : State) (id : Nat) (e : Cmd → Cmd) : (s.modCmd id e).agenda = s.agenda := rfl
@[simp] theorem State.modCmd_extended (s : State) (id : Nat) (e : Cmd → Cmd) : (s.modCmd id e).extended = s.extended := rfl
@[simp] theorem State.modCmd_pkgs (s : State) (id : Nat) (e : Cmd → Cmd) : (s.modCmd id e).pkgs = s.pkgs := rfl
@[simp] theorem State.modCmd_cores (s : State) (id : Nat) (e : Cmd → Cmd) : (s.modCmd id e).cores = s.cores := rfl
@[simp] theorem State.modCmd_crews (s : State) (id : Nat) (e : Cmd → Cmd) : (s.modCmd id e).crews = s.crews := rfl
@[simp] theorem State.modCmd_tiles (s : State) (id : Nat) (e : Cmd → Cmd) : (s.modCmd id e).tiles = s.tiles := rfl
@[simp] theorem State.modCmd_trees (s : State) (id : Nat) (e : Cmd → Cmd) : (s.modCmd id e).trees = s.trees := rfl
@[simp] theorem State.modCmd_exts (s : State) (id : Nat) (e : Cmd → Cmd) : (s.modCmd id e).exts = s.exts := rfl
@[simp] theorem State.modCmd_bars (s : State) (id : Nat) (e : Cmd → Cmd) : (s.modCmd id e).bars = s.bars := rfl
@[simp] theorem State.modCmd_liveBars (s : State) (id : Nat) (e : Cmd → Cmd) : (s.modCmd id e).liveBars = s.liveBars := rfl
@[simp] theorem State.modCmd_wildBars (s : State) (id : Nat) (e : Cmd → Cmd) : (s.modCmd id e).wildBars = s.wildBars := rfl
@[simp] theorem State.modCmd_handles (s : State) (id : Nat) (e : Cmd → Cmd) : (s.modCmd id e).handles = s.handles := rfl
@[simp] theorem State.modCmd_cmds (s : State) (id : Nat) (e : Cmd → Cmd) : (s.modCmd id e).cmds = s.cmds.map fun c => if c.id = id then e c else c := rfl
@[simp] theorem State.modCmd_streams (s : State) (id : Nat) (e : Cmd → Cmd) : (s.modCmd id e).streams = s.streams := rfl
@[simp] theorem State.modCmd_vats (s : State) (id : Nat) (e : Cmd → Cmd) : (s.modCmd id e).vats = s.vats := rfl
@[simp] theorem State.modCmd_taint (s : State) (id : Nat) (e : Cmd → Cmd) : (s.modCmd id e).taint = s.taint := rfl
@[simp] theorem State.modCmd_mixed (s : State) (id : Nat) (e : Cmd → Cmd) : (s.modCmd id e).mixed = s.mixed := rfl
@[simp] theorem State.modCmd_undef (s : State) (id : Nat) (e : Cmd → Cmd) : (s.modCmd id e).undef = s.undef := rfl
@[simp] theorem State.modCmd_lines (s : State) (id : Nat) (e : Cmd → Cmd) : (s.modCmd id e).lines = s.lines := rfl
@[simp] theorem State.modCmd_pend (s : State) (id : Nat) (e : Cmd → Cmd) : (s.modCmd id e).pend = s.pend := rfl
@[simp] theorem State.modCmd_tlb (s : State) (id : Nat) (e : Cmd → Cmd) : (s.modCmd id e).tlb = s.tlb := rfl
@[simp] theorem State.modCmd_poison (s : State) (id : Nat) (e : Cmd → Cmd) : (s.modCmd id e).poison = s.poison := rfl
@[simp] theorem State.modCmd_corrected (s : State) (id : Nat) (e : Cmd → Cmd) : (s.modCmd id e).corrected = s.corrected := rfl
@[simp] theorem State.modCmd_net (s : State) (id : Nat) (e : Cmd → Cmd) : (s.modCmd id e).net = s.net := rfl
@[simp] theorem State.modCmd_resp (s : State) (id : Nat) (e : Cmd → Cmd) : (s.modCmd id e).resp = s.resp := rfl
@[simp] theorem State.modCmd_imprecise (s : State) (id : Nat) (e : Cmd → Cmd) : (s.modCmd id e).imprecise = s.imprecise := rfl
@[simp] theorem State.modCmd_ags (s : State) (id : Nat) (e : Cmd → Cmd) : (s.modCmd id e).ags = s.ags := rfl
@[simp] theorem State.modCmd_stale (s : State) (id : Nat) (e : Cmd → Cmd) : (s.modCmd id e).stale = s.stale := rfl
@[simp] theorem State.modCmd_tuples (s : State) (id : Nat) (e : Cmd → Cmd) : (s.modCmd id e).tuples = s.tuples := rfl
@[simp] theorem State.modCmd_qpkts (s : State) (id : Nat) (e : Cmd → Cmd) : (s.modCmd id e).qpkts = s.qpkts := rfl
@[simp] theorem State.modCmd_gangs (s : State) (id : Nat) (e : Cmd → Cmd) : (s.modCmd id e).gangs = s.gangs := rfl
@[simp] theorem State.modCmd_saved (s : State) (id : Nat) (e : Cmd → Cmd) : (s.modCmd id e).saved = s.saved := rfl
@[simp] theorem State.modCmd_sysops (s : State) (id : Nat) (e : Cmd → Cmd) : (s.modCmd id e).sysops = s.sysops := rfl
@[simp] theorem State.modCmd_heads (s : State) (id : Nat) (e : Cmd → Cmd) : (s.modCmd id e).heads = s.heads := rfl
@[simp] theorem State.modCmd_host (s : State) (id : Nat) (e : Cmd → Cmd) : (s.modCmd id e).host = s.host := rfl
@[simp] theorem State.modCmd_hostWords (s : State) (id : Nat) (e : Cmd → Cmd) : (s.modCmd id e).hostWords = s.hostWords := rfl

@[simp] theorem State.dropCmd_g (s : State) (id : Nat) : (s.dropCmd id).g = s.g := rfl
@[simp] theorem State.dropCmd_groups (s : State) (id : Nat) : (s.dropCmd id).groups = s.groups := rfl
@[simp] theorem State.dropCmd_mem (s : State) (id : Nat) : (s.dropCmd id).mem = s.mem := rfl
@[simp] theorem State.dropCmd_free (s : State) (id : Nat) : (s.dropCmd id).free = s.free := rfl
@[simp] theorem State.dropCmd_time (s : State) (id : Nat) : (s.dropCmd id).time = s.time := rfl
@[simp] theorem State.dropCmd_next (s : State) (id : Nat) : (s.dropCmd id).next = s.next := rfl
@[simp] theorem State.dropCmd_agenda (s : State) (id : Nat) : (s.dropCmd id).agenda = s.agenda := rfl
@[simp] theorem State.dropCmd_extended (s : State) (id : Nat) : (s.dropCmd id).extended = s.extended := rfl
@[simp] theorem State.dropCmd_pkgs (s : State) (id : Nat) : (s.dropCmd id).pkgs = s.pkgs := rfl
@[simp] theorem State.dropCmd_cores (s : State) (id : Nat) : (s.dropCmd id).cores = s.cores := rfl
@[simp] theorem State.dropCmd_crews (s : State) (id : Nat) : (s.dropCmd id).crews = s.crews := rfl
@[simp] theorem State.dropCmd_tiles (s : State) (id : Nat) : (s.dropCmd id).tiles = s.tiles := rfl
@[simp] theorem State.dropCmd_trees (s : State) (id : Nat) : (s.dropCmd id).trees = s.trees := rfl
@[simp] theorem State.dropCmd_exts (s : State) (id : Nat) : (s.dropCmd id).exts = s.exts := rfl
@[simp] theorem State.dropCmd_bars (s : State) (id : Nat) : (s.dropCmd id).bars = s.bars := rfl
@[simp] theorem State.dropCmd_liveBars (s : State) (id : Nat) : (s.dropCmd id).liveBars = s.liveBars := rfl
@[simp] theorem State.dropCmd_wildBars (s : State) (id : Nat) : (s.dropCmd id).wildBars = s.wildBars := rfl
@[simp] theorem State.dropCmd_handles (s : State) (id : Nat) : (s.dropCmd id).handles = s.handles := rfl
@[simp] theorem State.dropCmd_cmds (s : State) (id : Nat) : (s.dropCmd id).cmds = s.cmds.filter fun c => c.id != id := rfl
@[simp] theorem State.dropCmd_streams (s : State) (id : Nat) : (s.dropCmd id).streams = s.streams := rfl
@[simp] theorem State.dropCmd_vats (s : State) (id : Nat) : (s.dropCmd id).vats = s.vats := rfl
@[simp] theorem State.dropCmd_taint (s : State) (id : Nat) : (s.dropCmd id).taint = s.taint.filter fun t => t.1 != id := rfl
@[simp] theorem State.dropCmd_mixed (s : State) (id : Nat) : (s.dropCmd id).mixed = s.mixed.filter fun t => t.1 != id := rfl
@[simp] theorem State.dropCmd_undef (s : State) (id : Nat) : (s.dropCmd id).undef = s.undef := rfl
@[simp] theorem State.dropCmd_lines (s : State) (id : Nat) : (s.dropCmd id).lines = s.lines := rfl
@[simp] theorem State.dropCmd_pend (s : State) (id : Nat) : (s.dropCmd id).pend = s.pend := rfl
@[simp] theorem State.dropCmd_tlb (s : State) (id : Nat) : (s.dropCmd id).tlb = s.tlb := rfl
@[simp] theorem State.dropCmd_poison (s : State) (id : Nat) : (s.dropCmd id).poison = s.poison := rfl
@[simp] theorem State.dropCmd_corrected (s : State) (id : Nat) : (s.dropCmd id).corrected = s.corrected.filter fun c => c != id := rfl
@[simp] theorem State.dropCmd_net (s : State) (id : Nat) : (s.dropCmd id).net = s.net := rfl
@[simp] theorem State.dropCmd_resp (s : State) (id : Nat) : (s.dropCmd id).resp = s.resp := rfl
@[simp] theorem State.dropCmd_imprecise (s : State) (id : Nat) : (s.dropCmd id).imprecise = s.imprecise := rfl
@[simp] theorem State.dropCmd_ags (s : State) (id : Nat) : (s.dropCmd id).ags = s.ags := rfl
@[simp] theorem State.dropCmd_stale (s : State) (id : Nat) : (s.dropCmd id).stale = s.stale := rfl
@[simp] theorem State.dropCmd_tuples (s : State) (id : Nat) : (s.dropCmd id).tuples = s.tuples := rfl
@[simp] theorem State.dropCmd_qpkts (s : State) (id : Nat) : (s.dropCmd id).qpkts = s.qpkts := rfl
@[simp] theorem State.dropCmd_gangs (s : State) (id : Nat) : (s.dropCmd id).gangs = s.gangs := rfl
@[simp] theorem State.dropCmd_saved (s : State) (id : Nat) : (s.dropCmd id).saved = s.saved := rfl
@[simp] theorem State.dropCmd_sysops (s : State) (id : Nat) : (s.dropCmd id).sysops = s.sysops := rfl
@[simp] theorem State.dropCmd_heads (s : State) (id : Nat) : (s.dropCmd id).heads = s.heads := rfl
@[simp] theorem State.dropCmd_host (s : State) (id : Nat) : (s.dropCmd id).host = s.host := rfl
@[simp] theorem State.dropCmd_hostWords (s : State) (id : Nat) : (s.dropCmd id).hostWords = s.hostWords := rfl

@[simp] theorem State.setByte_g (s : State) (k : Nat) (b : Byte) : (s.setByte k b).g = s.g := rfl
@[simp] theorem State.setByte_groups (s : State) (k : Nat) (b : Byte) : (s.setByte k b).groups = s.groups := rfl
@[simp] theorem State.setByte_mem (s : State) (k : Nat) (b : Byte) : (s.setByte k b).mem = s.mem.put k b := rfl
@[simp] theorem State.setByte_free (s : State) (k : Nat) (b : Byte) : (s.setByte k b).free = s.free := rfl
@[simp] theorem State.setByte_time (s : State) (k : Nat) (b : Byte) : (s.setByte k b).time = s.time := rfl
@[simp] theorem State.setByte_next (s : State) (k : Nat) (b : Byte) : (s.setByte k b).next = s.next := rfl
@[simp] theorem State.setByte_agenda (s : State) (k : Nat) (b : Byte) : (s.setByte k b).agenda = s.agenda := rfl
@[simp] theorem State.setByte_extended (s : State) (k : Nat) (b : Byte) : (s.setByte k b).extended = s.extended := rfl
@[simp] theorem State.setByte_pkgs (s : State) (k : Nat) (b : Byte) : (s.setByte k b).pkgs = s.pkgs := rfl
@[simp] theorem State.setByte_cores (s : State) (k : Nat) (b : Byte) : (s.setByte k b).cores = s.cores := rfl
@[simp] theorem State.setByte_crews (s : State) (k : Nat) (b : Byte) : (s.setByte k b).crews = s.crews := rfl
@[simp] theorem State.setByte_tiles (s : State) (k : Nat) (b : Byte) : (s.setByte k b).tiles = s.tiles := rfl
@[simp] theorem State.setByte_trees (s : State) (k : Nat) (b : Byte) : (s.setByte k b).trees = s.trees := rfl
@[simp] theorem State.setByte_exts (s : State) (k : Nat) (b : Byte) : (s.setByte k b).exts = s.exts := rfl
@[simp] theorem State.setByte_bars (s : State) (k : Nat) (b : Byte) : (s.setByte k b).bars = s.bars := rfl
@[simp] theorem State.setByte_liveBars (s : State) (k : Nat) (b : Byte) : (s.setByte k b).liveBars = s.liveBars := rfl
@[simp] theorem State.setByte_wildBars (s : State) (k : Nat) (b : Byte) : (s.setByte k b).wildBars = s.wildBars := rfl
@[simp] theorem State.setByte_handles (s : State) (k : Nat) (b : Byte) : (s.setByte k b).handles = s.handles := rfl
@[simp] theorem State.setByte_cmds (s : State) (k : Nat) (b : Byte) : (s.setByte k b).cmds = s.cmds := rfl
@[simp] theorem State.setByte_streams (s : State) (k : Nat) (b : Byte) : (s.setByte k b).streams = s.streams := rfl
@[simp] theorem State.setByte_vats (s : State) (k : Nat) (b : Byte) : (s.setByte k b).vats = s.vats := rfl
@[simp] theorem State.setByte_taint (s : State) (k : Nat) (b : Byte) : (s.setByte k b).taint = s.taint := rfl
@[simp] theorem State.setByte_mixed (s : State) (k : Nat) (b : Byte) : (s.setByte k b).mixed = s.mixed := rfl
@[simp] theorem State.setByte_undef (s : State) (k : Nat) (b : Byte) : (s.setByte k b).undef = cutKey k s.undef := rfl
@[simp] theorem State.setByte_lines (s : State) (k : Nat) (b : Byte) : (s.setByte k b).lines = s.lines := rfl
@[simp] theorem State.setByte_pend (s : State) (k : Nat) (b : Byte) : (s.setByte k b).pend = s.pend := rfl
@[simp] theorem State.setByte_tlb (s : State) (k : Nat) (b : Byte) : (s.setByte k b).tlb = s.tlb := rfl
@[simp] theorem State.setByte_poison (s : State) (k : Nat) (b : Byte) : (s.setByte k b).poison = s.poison := rfl
@[simp] theorem State.setByte_corrected (s : State) (k : Nat) (b : Byte) : (s.setByte k b).corrected = s.corrected := rfl
@[simp] theorem State.setByte_net (s : State) (k : Nat) (b : Byte) : (s.setByte k b).net = s.net := rfl
@[simp] theorem State.setByte_resp (s : State) (k : Nat) (b : Byte) : (s.setByte k b).resp = s.resp := rfl
@[simp] theorem State.setByte_imprecise (s : State) (k : Nat) (b : Byte) : (s.setByte k b).imprecise = s.imprecise := rfl
@[simp] theorem State.setByte_ags (s : State) (k : Nat) (b : Byte) : (s.setByte k b).ags = s.ags := rfl
@[simp] theorem State.setByte_stale (s : State) (k : Nat) (b : Byte) : (s.setByte k b).stale = s.stale := rfl
@[simp] theorem State.setByte_tuples (s : State) (k : Nat) (b : Byte) : (s.setByte k b).tuples = s.tuples := rfl
@[simp] theorem State.setByte_qpkts (s : State) (k : Nat) (b : Byte) : (s.setByte k b).qpkts = s.qpkts := rfl
@[simp] theorem State.setByte_gangs (s : State) (k : Nat) (b : Byte) : (s.setByte k b).gangs = s.gangs := rfl
@[simp] theorem State.setByte_saved (s : State) (k : Nat) (b : Byte) : (s.setByte k b).saved = s.saved := rfl
@[simp] theorem State.setByte_sysops (s : State) (k : Nat) (b : Byte) : (s.setByte k b).sysops = s.sysops := rfl
@[simp] theorem State.setByte_heads (s : State) (k : Nat) (b : Byte) : (s.setByte k b).heads = s.heads := rfl
@[simp] theorem State.setByte_host (s : State) (k : Nat) (b : Byte) : (s.setByte k b).host = s.host := rfl
@[simp] theorem State.setByte_hostWords (s : State) (k : Nat) (b : Byte) : (s.setByte k b).hostWords = s.hostWords := rfl

@[simp] theorem State.tell_g (s : State) (p k : Nat) (bs : List Byte) : (s.tell p k bs).g = s.g := rfl
@[simp] theorem State.tell_groups (s : State) (p k : Nat) (bs : List Byte) : (s.tell p k bs).groups = s.groups := rfl
@[simp] theorem State.tell_mem (s : State) (p k : Nat) (bs : List Byte) : (s.tell p k bs).mem = s.mem := rfl
@[simp] theorem State.tell_free (s : State) (p k : Nat) (bs : List Byte) : (s.tell p k bs).free = s.free := rfl
@[simp] theorem State.tell_time (s : State) (p k : Nat) (bs : List Byte) : (s.tell p k bs).time = s.time := rfl
@[simp] theorem State.tell_next (s : State) (p k : Nat) (bs : List Byte) : (s.tell p k bs).next = s.next := rfl
@[simp] theorem State.tell_agenda (s : State) (p k : Nat) (bs : List Byte) : (s.tell p k bs).agenda = s.agenda := rfl
@[simp] theorem State.tell_extended (s : State) (p k : Nat) (bs : List Byte) : (s.tell p k bs).extended = s.extended := rfl
@[simp] theorem State.tell_pkgs (s : State) (p k : Nat) (bs : List Byte) : (s.tell p k bs).pkgs = s.pkgs := rfl
@[simp] theorem State.tell_cores (s : State) (p k : Nat) (bs : List Byte) : (s.tell p k bs).cores = s.cores := rfl
@[simp] theorem State.tell_crews (s : State) (p k : Nat) (bs : List Byte) : (s.tell p k bs).crews = s.crews := rfl
@[simp] theorem State.tell_tiles (s : State) (p k : Nat) (bs : List Byte) : (s.tell p k bs).tiles = s.tiles := rfl
@[simp] theorem State.tell_trees (s : State) (p k : Nat) (bs : List Byte) : (s.tell p k bs).trees = s.trees := rfl
@[simp] theorem State.tell_exts (s : State) (p k : Nat) (bs : List Byte) : (s.tell p k bs).exts = s.exts := rfl
@[simp] theorem State.tell_bars (s : State) (p k : Nat) (bs : List Byte) : (s.tell p k bs).bars = s.bars := rfl
@[simp] theorem State.tell_liveBars (s : State) (p k : Nat) (bs : List Byte) : (s.tell p k bs).liveBars = s.liveBars := rfl
@[simp] theorem State.tell_wildBars (s : State) (p k : Nat) (bs : List Byte) : (s.tell p k bs).wildBars = s.wildBars := rfl
@[simp] theorem State.tell_handles (s : State) (p k : Nat) (bs : List Byte) : (s.tell p k bs).handles = s.handles := rfl
@[simp] theorem State.tell_cmds (s : State) (p k : Nat) (bs : List Byte) : (s.tell p k bs).cmds = s.cmds := rfl
@[simp] theorem State.tell_streams (s : State) (p k : Nat) (bs : List Byte) : (s.tell p k bs).streams = s.streams := rfl
@[simp] theorem State.tell_vats (s : State) (p k : Nat) (bs : List Byte) : (s.tell p k bs).vats = s.vats := rfl
@[simp] theorem State.tell_taint (s : State) (p k : Nat) (bs : List Byte) : (s.tell p k bs).taint = s.taint := rfl
@[simp] theorem State.tell_mixed (s : State) (p k : Nat) (bs : List Byte) : (s.tell p k bs).mixed = s.mixed := rfl
@[simp] theorem State.tell_undef (s : State) (p k : Nat) (bs : List Byte) : (s.tell p k bs).undef = s.undef := rfl
@[simp] theorem State.tell_lines (s : State) (p k : Nat) (bs : List Byte) : (s.tell p k bs).lines = s.lines := rfl
@[simp] theorem State.tell_pend (s : State) (p k : Nat) (bs : List Byte) : (s.tell p k bs).pend = s.pend := rfl
@[simp] theorem State.tell_tlb (s : State) (p k : Nat) (bs : List Byte) : (s.tell p k bs).tlb = s.tlb := rfl
@[simp] theorem State.tell_poison (s : State) (p k : Nat) (bs : List Byte) : (s.tell p k bs).poison = s.poison := rfl
@[simp] theorem State.tell_corrected (s : State) (p k : Nat) (bs : List Byte) : (s.tell p k bs).corrected = s.corrected := rfl
@[simp] theorem State.tell_net (s : State) (p k : Nat) (bs : List Byte) : (s.tell p k bs).net = s.net := rfl
@[simp] theorem State.tell_resp (s : State) (p k : Nat) (bs : List Byte) : (s.tell p k bs).resp = s.resp := rfl
@[simp] theorem State.tell_imprecise (s : State) (p k : Nat) (bs : List Byte) : (s.tell p k bs).imprecise = s.imprecise := rfl
@[simp] theorem State.tell_ags (s : State) (p k : Nat) (bs : List Byte) : (s.tell p k bs).ags = s.ags := rfl
@[simp] theorem State.tell_stale (s : State) (p k : Nat) (bs : List Byte) : (s.tell p k bs).stale = s.stale := rfl
@[simp] theorem State.tell_tuples (s : State) (p k : Nat) (bs : List Byte) : (s.tell p k bs).tuples = s.tuples := rfl
@[simp] theorem State.tell_qpkts (s : State) (p k : Nat) (bs : List Byte) : (s.tell p k bs).qpkts = s.qpkts := rfl
@[simp] theorem State.tell_gangs (s : State) (p k : Nat) (bs : List Byte) : (s.tell p k bs).gangs = s.gangs := rfl
@[simp] theorem State.tell_saved (s : State) (p k : Nat) (bs : List Byte) : (s.tell p k bs).saved = s.saved := rfl
@[simp] theorem State.tell_sysops (s : State) (p k : Nat) (bs : List Byte) : (s.tell p k bs).sysops = s.sysops := rfl
@[simp] theorem State.tell_heads (s : State) (p k : Nat) (bs : List Byte) : (s.tell p k bs).heads = s.heads := rfl
@[simp] theorem State.tell_host (s : State) (p k : Nat) (bs : List Byte) : (s.tell p k bs).host = s.host ++ [⟨p, k, bs⟩] := rfl
@[simp] theorem State.tell_hostWords (s : State) (p k : Nat) (bs : List Byte) : (s.tell p k bs).hostWords = s.hostWords := rfl

@[simp] theorem State.modCore_g (s : State) (p n : Nat) (e : Core → Core) : (s.modCore p n e).g = s.g := by unfold State.modCore; split <;> rfl
@[simp] theorem State.modCore_groups (s : State) (p n : Nat) (e : Core → Core) : (s.modCore p n e).groups = s.groups := by unfold State.modCore; split <;> rfl
@[simp] theorem State.modCore_mem (s : State) (p n : Nat) (e : Core → Core) : (s.modCore p n e).mem = s.mem := by unfold State.modCore; split <;> rfl
@[simp] theorem State.modCore_free (s : State) (p n : Nat) (e : Core → Core) : (s.modCore p n e).free = s.free := by unfold State.modCore; split <;> rfl
@[simp] theorem State.modCore_time (s : State) (p n : Nat) (e : Core → Core) : (s.modCore p n e).time = s.time := by unfold State.modCore; split <;> rfl
@[simp] theorem State.modCore_next (s : State) (p n : Nat) (e : Core → Core) : (s.modCore p n e).next = s.next := by unfold State.modCore; split <;> rfl
@[simp] theorem State.modCore_agenda (s : State) (p n : Nat) (e : Core → Core) : (s.modCore p n e).agenda = s.agenda := by unfold State.modCore; split <;> rfl
@[simp] theorem State.modCore_extended (s : State) (p n : Nat) (e : Core → Core) : (s.modCore p n e).extended = s.extended := by unfold State.modCore; split <;> rfl
@[simp] theorem State.modCore_pkgs (s : State) (p n : Nat) (e : Core → Core) : (s.modCore p n e).pkgs = s.pkgs := by unfold State.modCore; split <;> rfl
@[simp] theorem State.modCore_crews (s : State) (p n : Nat) (e : Core → Core) : (s.modCore p n e).crews = s.crews := by unfold State.modCore; split <;> rfl
@[simp] theorem State.modCore_tiles (s : State) (p n : Nat) (e : Core → Core) : (s.modCore p n e).tiles = s.tiles := by unfold State.modCore; split <;> rfl
@[simp] theorem State.modCore_trees (s : State) (p n : Nat) (e : Core → Core) : (s.modCore p n e).trees = s.trees := by unfold State.modCore; split <;> rfl
@[simp] theorem State.modCore_exts (s : State) (p n : Nat) (e : Core → Core) : (s.modCore p n e).exts = s.exts := by unfold State.modCore; split <;> rfl
@[simp] theorem State.modCore_bars (s : State) (p n : Nat) (e : Core → Core) : (s.modCore p n e).bars = s.bars := by unfold State.modCore; split <;> rfl
@[simp] theorem State.modCore_liveBars (s : State) (p n : Nat) (e : Core → Core) : (s.modCore p n e).liveBars = s.liveBars := by unfold State.modCore; split <;> rfl
@[simp] theorem State.modCore_wildBars (s : State) (p n : Nat) (e : Core → Core) : (s.modCore p n e).wildBars = s.wildBars := by unfold State.modCore; split <;> rfl
@[simp] theorem State.modCore_handles (s : State) (p n : Nat) (e : Core → Core) : (s.modCore p n e).handles = s.handles := by unfold State.modCore; split <;> rfl
@[simp] theorem State.modCore_cmds (s : State) (p n : Nat) (e : Core → Core) : (s.modCore p n e).cmds = s.cmds := by unfold State.modCore; split <;> rfl
@[simp] theorem State.modCore_streams (s : State) (p n : Nat) (e : Core → Core) : (s.modCore p n e).streams = s.streams := by unfold State.modCore; split <;> rfl
@[simp] theorem State.modCore_vats (s : State) (p n : Nat) (e : Core → Core) : (s.modCore p n e).vats = s.vats := by unfold State.modCore; split <;> rfl
@[simp] theorem State.modCore_taint (s : State) (p n : Nat) (e : Core → Core) : (s.modCore p n e).taint = s.taint := by unfold State.modCore; split <;> rfl
@[simp] theorem State.modCore_mixed (s : State) (p n : Nat) (e : Core → Core) : (s.modCore p n e).mixed = s.mixed := by unfold State.modCore; split <;> rfl
@[simp] theorem State.modCore_undef (s : State) (p n : Nat) (e : Core → Core) : (s.modCore p n e).undef = s.undef := by unfold State.modCore; split <;> rfl
@[simp] theorem State.modCore_lines (s : State) (p n : Nat) (e : Core → Core) : (s.modCore p n e).lines = s.lines := by unfold State.modCore; split <;> rfl
@[simp] theorem State.modCore_pend (s : State) (p n : Nat) (e : Core → Core) : (s.modCore p n e).pend = s.pend := by unfold State.modCore; split <;> rfl
@[simp] theorem State.modCore_tlb (s : State) (p n : Nat) (e : Core → Core) : (s.modCore p n e).tlb = s.tlb := by unfold State.modCore; split <;> rfl
@[simp] theorem State.modCore_poison (s : State) (p n : Nat) (e : Core → Core) : (s.modCore p n e).poison = s.poison := by unfold State.modCore; split <;> rfl
@[simp] theorem State.modCore_corrected (s : State) (p n : Nat) (e : Core → Core) : (s.modCore p n e).corrected = s.corrected := by unfold State.modCore; split <;> rfl
@[simp] theorem State.modCore_net (s : State) (p n : Nat) (e : Core → Core) : (s.modCore p n e).net = s.net := by unfold State.modCore; split <;> rfl
@[simp] theorem State.modCore_resp (s : State) (p n : Nat) (e : Core → Core) : (s.modCore p n e).resp = s.resp := by unfold State.modCore; split <;> rfl
@[simp] theorem State.modCore_imprecise (s : State) (p n : Nat) (e : Core → Core) : (s.modCore p n e).imprecise = s.imprecise := by unfold State.modCore; split <;> rfl
@[simp] theorem State.modCore_ags (s : State) (p n : Nat) (e : Core → Core) : (s.modCore p n e).ags = s.ags := by unfold State.modCore; split <;> rfl
@[simp] theorem State.modCore_stale (s : State) (p n : Nat) (e : Core → Core) : (s.modCore p n e).stale = s.stale := by unfold State.modCore; split <;> rfl
@[simp] theorem State.modCore_tuples (s : State) (p n : Nat) (e : Core → Core) : (s.modCore p n e).tuples = s.tuples := by unfold State.modCore; split <;> rfl
@[simp] theorem State.modCore_qpkts (s : State) (p n : Nat) (e : Core → Core) : (s.modCore p n e).qpkts = s.qpkts := by unfold State.modCore; split <;> rfl
@[simp] theorem State.modCore_gangs (s : State) (p n : Nat) (e : Core → Core) : (s.modCore p n e).gangs = s.gangs := by unfold State.modCore; split <;> rfl
@[simp] theorem State.modCore_saved (s : State) (p n : Nat) (e : Core → Core) : (s.modCore p n e).saved = s.saved := by unfold State.modCore; split <;> rfl
@[simp] theorem State.modCore_sysops (s : State) (p n : Nat) (e : Core → Core) : (s.modCore p n e).sysops = s.sysops := by unfold State.modCore; split <;> rfl
@[simp] theorem State.modCore_heads (s : State) (p n : Nat) (e : Core → Core) : (s.modCore p n e).heads = s.heads := by unfold State.modCore; split <;> rfl
@[simp] theorem State.modCore_host (s : State) (p n : Nat) (e : Core → Core) : (s.modCore p n e).host = s.host := by unfold State.modCore; split <;> rfl
@[simp] theorem State.modCore_hostWords (s : State) (p n : Nat) (e : Core → Core) : (s.modCore p n e).hostWords = s.hostWords := by unfold State.modCore; split <;> rfl

@[simp] theorem State.setBytes_g (s : State) (k : Nat) (bs : List Byte) : (s.setBytes k bs).g = s.g := by
  induction bs generalizing s k with
  | nil => rfl
  | cons b t ih => exact ih _ _
@[simp] theorem State.setBytes_groups (s : State) (k : Nat) (bs : List Byte) : (s.setBytes k bs).groups = s.groups := by
  induction bs generalizing s k with
  | nil => rfl
  | cons b t ih => exact ih _ _
@[simp] theorem State.setBytes_free (s : State) (k : Nat) (bs : List Byte) : (s.setBytes k bs).free = s.free := by
  induction bs generalizing s k with
  | nil => rfl
  | cons b t ih => exact ih _ _
@[simp] theorem State.setBytes_time (s : State) (k : Nat) (bs : List Byte) : (s.setBytes k bs).time = s.time := by
  induction bs generalizing s k with
  | nil => rfl
  | cons b t ih => exact ih _ _
@[simp] theorem State.setBytes_next (s : State) (k : Nat) (bs : List Byte) : (s.setBytes k bs).next = s.next := by
  induction bs generalizing s k with
  | nil => rfl
  | cons b t ih => exact ih _ _
@[simp] theorem State.setBytes_agenda (s : State) (k : Nat) (bs : List Byte) : (s.setBytes k bs).agenda = s.agenda := by
  induction bs generalizing s k with
  | nil => rfl
  | cons b t ih => exact ih _ _
@[simp] theorem State.setBytes_extended (s : State) (k : Nat) (bs : List Byte) : (s.setBytes k bs).extended = s.extended := by
  induction bs generalizing s k with
  | nil => rfl
  | cons b t ih => exact ih _ _
@[simp] theorem State.setBytes_pkgs (s : State) (k : Nat) (bs : List Byte) : (s.setBytes k bs).pkgs = s.pkgs := by
  induction bs generalizing s k with
  | nil => rfl
  | cons b t ih => exact ih _ _
@[simp] theorem State.setBytes_cores (s : State) (k : Nat) (bs : List Byte) : (s.setBytes k bs).cores = s.cores := by
  induction bs generalizing s k with
  | nil => rfl
  | cons b t ih => exact ih _ _
@[simp] theorem State.setBytes_crews (s : State) (k : Nat) (bs : List Byte) : (s.setBytes k bs).crews = s.crews := by
  induction bs generalizing s k with
  | nil => rfl
  | cons b t ih => exact ih _ _
@[simp] theorem State.setBytes_tiles (s : State) (k : Nat) (bs : List Byte) : (s.setBytes k bs).tiles = s.tiles := by
  induction bs generalizing s k with
  | nil => rfl
  | cons b t ih => exact ih _ _
@[simp] theorem State.setBytes_trees (s : State) (k : Nat) (bs : List Byte) : (s.setBytes k bs).trees = s.trees := by
  induction bs generalizing s k with
  | nil => rfl
  | cons b t ih => exact ih _ _
@[simp] theorem State.setBytes_exts (s : State) (k : Nat) (bs : List Byte) : (s.setBytes k bs).exts = s.exts := by
  induction bs generalizing s k with
  | nil => rfl
  | cons b t ih => exact ih _ _
@[simp] theorem State.setBytes_bars (s : State) (k : Nat) (bs : List Byte) : (s.setBytes k bs).bars = s.bars := by
  induction bs generalizing s k with
  | nil => rfl
  | cons b t ih => exact ih _ _
@[simp] theorem State.setBytes_liveBars (s : State) (k : Nat) (bs : List Byte) : (s.setBytes k bs).liveBars = s.liveBars := by
  induction bs generalizing s k with
  | nil => rfl
  | cons b t ih => exact ih _ _
@[simp] theorem State.setBytes_wildBars (s : State) (k : Nat) (bs : List Byte) : (s.setBytes k bs).wildBars = s.wildBars := by
  induction bs generalizing s k with
  | nil => rfl
  | cons b t ih => exact ih _ _
@[simp] theorem State.setBytes_handles (s : State) (k : Nat) (bs : List Byte) : (s.setBytes k bs).handles = s.handles := by
  induction bs generalizing s k with
  | nil => rfl
  | cons b t ih => exact ih _ _
@[simp] theorem State.setBytes_cmds (s : State) (k : Nat) (bs : List Byte) : (s.setBytes k bs).cmds = s.cmds := by
  induction bs generalizing s k with
  | nil => rfl
  | cons b t ih => exact ih _ _
@[simp] theorem State.setBytes_streams (s : State) (k : Nat) (bs : List Byte) : (s.setBytes k bs).streams = s.streams := by
  induction bs generalizing s k with
  | nil => rfl
  | cons b t ih => exact ih _ _
@[simp] theorem State.setBytes_vats (s : State) (k : Nat) (bs : List Byte) : (s.setBytes k bs).vats = s.vats := by
  induction bs generalizing s k with
  | nil => rfl
  | cons b t ih => exact ih _ _
@[simp] theorem State.setBytes_taint (s : State) (k : Nat) (bs : List Byte) : (s.setBytes k bs).taint = s.taint := by
  induction bs generalizing s k with
  | nil => rfl
  | cons b t ih => exact ih _ _
@[simp] theorem State.setBytes_mixed (s : State) (k : Nat) (bs : List Byte) : (s.setBytes k bs).mixed = s.mixed := by
  induction bs generalizing s k with
  | nil => rfl
  | cons b t ih => exact ih _ _
@[simp] theorem State.setBytes_lines (s : State) (k : Nat) (bs : List Byte) : (s.setBytes k bs).lines = s.lines := by
  induction bs generalizing s k with
  | nil => rfl
  | cons b t ih => exact ih _ _
@[simp] theorem State.setBytes_pend (s : State) (k : Nat) (bs : List Byte) : (s.setBytes k bs).pend = s.pend := by
  induction bs generalizing s k with
  | nil => rfl
  | cons b t ih => exact ih _ _
@[simp] theorem State.setBytes_tlb (s : State) (k : Nat) (bs : List Byte) : (s.setBytes k bs).tlb = s.tlb := by
  induction bs generalizing s k with
  | nil => rfl
  | cons b t ih => exact ih _ _
@[simp] theorem State.setBytes_poison (s : State) (k : Nat) (bs : List Byte) : (s.setBytes k bs).poison = s.poison := by
  induction bs generalizing s k with
  | nil => rfl
  | cons b t ih => exact ih _ _
@[simp] theorem State.setBytes_corrected (s : State) (k : Nat) (bs : List Byte) : (s.setBytes k bs).corrected = s.corrected := by
  induction bs generalizing s k with
  | nil => rfl
  | cons b t ih => exact ih _ _
@[simp] theorem State.setBytes_net (s : State) (k : Nat) (bs : List Byte) : (s.setBytes k bs).net = s.net := by
  induction bs generalizing s k with
  | nil => rfl
  | cons b t ih => exact ih _ _
@[simp] theorem State.setBytes_resp (s : State) (k : Nat) (bs : List Byte) : (s.setBytes k bs).resp = s.resp := by
  induction bs generalizing s k with
  | nil => rfl
  | cons b t ih => exact ih _ _
@[simp] theorem State.setBytes_imprecise (s : State) (k : Nat) (bs : List Byte) : (s.setBytes k bs).imprecise = s.imprecise := by
  induction bs generalizing s k with
  | nil => rfl
  | cons b t ih => exact ih _ _
@[simp] theorem State.setBytes_ags (s : State) (k : Nat) (bs : List Byte) : (s.setBytes k bs).ags = s.ags := by
  induction bs generalizing s k with
  | nil => rfl
  | cons b t ih => exact ih _ _
@[simp] theorem State.setBytes_stale (s : State) (k : Nat) (bs : List Byte) : (s.setBytes k bs).stale = s.stale := by
  induction bs generalizing s k with
  | nil => rfl
  | cons b t ih => exact ih _ _
@[simp] theorem State.setBytes_tuples (s : State) (k : Nat) (bs : List Byte) : (s.setBytes k bs).tuples = s.tuples := by
  induction bs generalizing s k with
  | nil => rfl
  | cons b t ih => exact ih _ _
@[simp] theorem State.setBytes_qpkts (s : State) (k : Nat) (bs : List Byte) : (s.setBytes k bs).qpkts = s.qpkts := by
  induction bs generalizing s k with
  | nil => rfl
  | cons b t ih => exact ih _ _
@[simp] theorem State.setBytes_gangs (s : State) (k : Nat) (bs : List Byte) : (s.setBytes k bs).gangs = s.gangs := by
  induction bs generalizing s k with
  | nil => rfl
  | cons b t ih => exact ih _ _
@[simp] theorem State.setBytes_saved (s : State) (k : Nat) (bs : List Byte) : (s.setBytes k bs).saved = s.saved := by
  induction bs generalizing s k with
  | nil => rfl
  | cons b t ih => exact ih _ _
@[simp] theorem State.setBytes_sysops (s : State) (k : Nat) (bs : List Byte) : (s.setBytes k bs).sysops = s.sysops := by
  induction bs generalizing s k with
  | nil => rfl
  | cons b t ih => exact ih _ _
@[simp] theorem State.setBytes_heads (s : State) (k : Nat) (bs : List Byte) : (s.setBytes k bs).heads = s.heads := by
  induction bs generalizing s k with
  | nil => rfl
  | cons b t ih => exact ih _ _
@[simp] theorem State.setBytes_host (s : State) (k : Nat) (bs : List Byte) : (s.setBytes k bs).host = s.host := by
  induction bs generalizing s k with
  | nil => rfl
  | cons b t ih => exact ih _ _
@[simp] theorem State.setBytes_hostWords (s : State) (k : Nat) (bs : List Byte) : (s.setBytes k bs).hostWords = s.hostWords := by
  induction bs generalizing s k with
  | nil => rfl
  | cons b t ih => exact ih _ _
@[simp] theorem State.setNum_g (s : State) (k n x : Nat) : (s.setNum k n x).g = s.g := State.setBytes_g ..
@[simp] theorem State.setNum_groups (s : State) (k n x : Nat) : (s.setNum k n x).groups = s.groups := State.setBytes_groups ..
@[simp] theorem State.setNum_free (s : State) (k n x : Nat) : (s.setNum k n x).free = s.free := State.setBytes_free ..
@[simp] theorem State.setNum_time (s : State) (k n x : Nat) : (s.setNum k n x).time = s.time := State.setBytes_time ..
@[simp] theorem State.setNum_next (s : State) (k n x : Nat) : (s.setNum k n x).next = s.next := State.setBytes_next ..
@[simp] theorem State.setNum_agenda (s : State) (k n x : Nat) : (s.setNum k n x).agenda = s.agenda := State.setBytes_agenda ..
@[simp] theorem State.setNum_extended (s : State) (k n x : Nat) : (s.setNum k n x).extended = s.extended := State.setBytes_extended ..
@[simp] theorem State.setNum_pkgs (s : State) (k n x : Nat) : (s.setNum k n x).pkgs = s.pkgs := State.setBytes_pkgs ..
@[simp] theorem State.setNum_cores (s : State) (k n x : Nat) : (s.setNum k n x).cores = s.cores := State.setBytes_cores ..
@[simp] theorem State.setNum_crews (s : State) (k n x : Nat) : (s.setNum k n x).crews = s.crews := State.setBytes_crews ..
@[simp] theorem State.setNum_tiles (s : State) (k n x : Nat) : (s.setNum k n x).tiles = s.tiles := State.setBytes_tiles ..
@[simp] theorem State.setNum_trees (s : State) (k n x : Nat) : (s.setNum k n x).trees = s.trees := State.setBytes_trees ..
@[simp] theorem State.setNum_exts (s : State) (k n x : Nat) : (s.setNum k n x).exts = s.exts := State.setBytes_exts ..
@[simp] theorem State.setNum_bars (s : State) (k n x : Nat) : (s.setNum k n x).bars = s.bars := State.setBytes_bars ..
@[simp] theorem State.setNum_liveBars (s : State) (k n x : Nat) : (s.setNum k n x).liveBars = s.liveBars := State.setBytes_liveBars ..
@[simp] theorem State.setNum_wildBars (s : State) (k n x : Nat) : (s.setNum k n x).wildBars = s.wildBars := State.setBytes_wildBars ..
@[simp] theorem State.setNum_handles (s : State) (k n x : Nat) : (s.setNum k n x).handles = s.handles := State.setBytes_handles ..
@[simp] theorem State.setNum_cmds (s : State) (k n x : Nat) : (s.setNum k n x).cmds = s.cmds := State.setBytes_cmds ..
@[simp] theorem State.setNum_streams (s : State) (k n x : Nat) : (s.setNum k n x).streams = s.streams := State.setBytes_streams ..
@[simp] theorem State.setNum_vats (s : State) (k n x : Nat) : (s.setNum k n x).vats = s.vats := State.setBytes_vats ..
@[simp] theorem State.setNum_taint (s : State) (k n x : Nat) : (s.setNum k n x).taint = s.taint := State.setBytes_taint ..
@[simp] theorem State.setNum_mixed (s : State) (k n x : Nat) : (s.setNum k n x).mixed = s.mixed := State.setBytes_mixed ..
@[simp] theorem State.setNum_lines (s : State) (k n x : Nat) : (s.setNum k n x).lines = s.lines := State.setBytes_lines ..
@[simp] theorem State.setNum_pend (s : State) (k n x : Nat) : (s.setNum k n x).pend = s.pend := State.setBytes_pend ..
@[simp] theorem State.setNum_tlb (s : State) (k n x : Nat) : (s.setNum k n x).tlb = s.tlb := State.setBytes_tlb ..
@[simp] theorem State.setNum_poison (s : State) (k n x : Nat) : (s.setNum k n x).poison = s.poison := State.setBytes_poison ..
@[simp] theorem State.setNum_corrected (s : State) (k n x : Nat) : (s.setNum k n x).corrected = s.corrected := State.setBytes_corrected ..
@[simp] theorem State.setNum_net (s : State) (k n x : Nat) : (s.setNum k n x).net = s.net := State.setBytes_net ..
@[simp] theorem State.setNum_resp (s : State) (k n x : Nat) : (s.setNum k n x).resp = s.resp := State.setBytes_resp ..
@[simp] theorem State.setNum_imprecise (s : State) (k n x : Nat) : (s.setNum k n x).imprecise = s.imprecise := State.setBytes_imprecise ..
@[simp] theorem State.setNum_ags (s : State) (k n x : Nat) : (s.setNum k n x).ags = s.ags := State.setBytes_ags ..
@[simp] theorem State.setNum_stale (s : State) (k n x : Nat) : (s.setNum k n x).stale = s.stale := State.setBytes_stale ..
@[simp] theorem State.setNum_tuples (s : State) (k n x : Nat) : (s.setNum k n x).tuples = s.tuples := State.setBytes_tuples ..
@[simp] theorem State.setNum_qpkts (s : State) (k n x : Nat) : (s.setNum k n x).qpkts = s.qpkts := State.setBytes_qpkts ..
@[simp] theorem State.setNum_gangs (s : State) (k n x : Nat) : (s.setNum k n x).gangs = s.gangs := State.setBytes_gangs ..
@[simp] theorem State.setNum_saved (s : State) (k n x : Nat) : (s.setNum k n x).saved = s.saved := State.setBytes_saved ..
@[simp] theorem State.setNum_sysops (s : State) (k n x : Nat) : (s.setNum k n x).sysops = s.sysops := State.setBytes_sysops ..
@[simp] theorem State.setNum_heads (s : State) (k n x : Nat) : (s.setNum k n x).heads = s.heads := State.setBytes_heads ..
@[simp] theorem State.setNum_host (s : State) (k n x : Nat) : (s.setNum k n x).host = s.host := State.setBytes_host ..
@[simp] theorem State.setNum_hostWords (s : State) (k n x : Nat) : (s.setNum k n x).hostWords = s.hostWords := State.setBytes_hostWords ..

@[simp] theorem Group.modLane_id (g : Group) (i : Nat) (e : Lane → Lane) : (g.modLane i e).id = g.id := rfl
@[simp] theorem Group.modLane_pkg (g : Group) (i : Nat) (e : Lane → Lane) : (g.modLane i e).pkg = g.pkg := rfl
@[simp] theorem Group.modLane_core (g : Group) (i : Nat) (e : Lane → Lane) : (g.modLane i e).core = g.core := rfl
@[simp] theorem Group.modLane_crew (g : Group) (i : Nat) (e : Lane → Lane) : (g.modLane i e).crew = g.crew := rfl
@[simp] theorem Group.modLane_num (g : Group) (i : Nat) (e : Lane → Lane) : (g.modLane i e).num = g.num := rfl
@[simp] theorem Group.modLane_width (g : Group) (i : Nat) (e : Lane → Lane) : (g.modLane i e).width = g.width := rfl
@[simp] theorem Group.modLane_alloc (g : Group) (i : Nat) (e : Lane → Lane) : (g.modLane i e).alloc = g.alloc := rfl
@[simp] theorem Group.modLane_priv (g : Group) (i : Nat) (e : Lane → Lane) : (g.modLane i e).priv = g.priv := rfl
@[simp] theorem Group.modLane_handler (g : Group) (i : Nat) (e : Lane → Lane) : (g.modLane i e).handler = g.handler := rfl
@[simp] theorem Group.modLane_ctx (g : Group) (i : Nat) (e : Lane → Lane) : (g.modLane i e).ctx = g.ctx := rfl
@[simp] theorem Group.modLane_tile (g : Group) (i : Nat) (e : Lane → Lane) : (g.modLane i e).tile = g.tile := rfl
@[simp] theorem Group.modLane_age (g : Group) (i : Nat) (e : Lane → Lane) : (g.modLane i e).age = g.age := rfl
@[simp] theorem Group.modLane_lanes (g : Group) (i : Nat) (e : Lane → Lane) : (g.modLane i e).lanes = modNth g.lanes i e := rfl
@[simp] theorem Group.modLane_s (g : Group) (i : Nat) (e : Lane → Lane) : (g.modLane i e).s = g.s := rfl
@[simp] theorem Group.modLane_f (g : Group) (i : Nat) (e : Lane → Lane) : (g.modLane i e).f = g.f := rfl
@[simp] theorem Group.modLane_mode (g : Group) (i : Nat) (e : Lane → Lane) : (g.modLane i e).mode = g.mode := rfl
@[simp] theorem Group.modLane_bad (g : Group) (i : Nat) (e : Lane → Lane) : (g.modLane i e).bad = g.bad := rfl
@[simp] theorem Group.modLane_earlyS (g : Group) (i : Nat) (e : Lane → Lane) : (g.modLane i e).earlyS = g.earlyS := rfl
@[simp] theorem Group.modLane_earlyF (g : Group) (i : Nat) (e : Lane → Lane) : (g.modLane i e).earlyF = g.earlyF := rfl
@[simp] theorem Group.modLane_splits (g : Group) (i : Nat) (e : Lane → Lane) : (g.modLane i e).splits = g.splits := rfl
@[simp] theorem Group.modLane_parks (g : Group) (i : Nat) (e : Lane → Lane) : (g.modLane i e).parks = g.parks := rfl
@[simp] theorem Group.modLane_cur (g : Group) (i : Nat) (e : Lane → Lane) : (g.modLane i e).cur = g.cur := rfl
@[simp] theorem Group.modLane_sb (g : Group) (i : Nat) (e : Lane → Lane) : (g.modLane i e).sb = g.sb := rfl
@[simp] theorem Group.modLane_sq (g : Group) (i : Nat) (e : Lane → Lane) : (g.modLane i e).sq = g.sq := rfl
@[simp] theorem Group.modLane_unacked (g : Group) (i : Nat) (e : Lane → Lane) : (g.modLane i e).unacked = g.unacked := rfl
@[simp] theorem Group.modLane_readPend (g : Group) (i : Nat) (e : Lane → Lane) : (g.modLane i e).readPend = g.readPend := rfl
@[simp] theorem Group.modLane_handed (g : Group) (i : Nat) (e : Lane → Lane) : (g.modLane i e).handed = g.handed := rfl
@[simp] theorem Group.modLane_acqOut (g : Group) (i : Nat) (e : Lane → Lane) : (g.modLane i e).acqOut = g.acqOut := rfl
@[simp] theorem Group.modLane_unretired (g : Group) (i : Nat) (e : Lane → Lane) : (g.modLane i e).unretired = g.unretired := rfl
@[simp] theorem Group.modLane_arr (g : Group) (i : Nat) (e : Lane → Lane) : (g.modLane i e).arr = g.arr := rfl
@[simp] theorem Group.modLane_colls (g : Group) (i : Nat) (e : Lane → Lane) : (g.modLane i e).colls = g.colls := rfl
@[simp] theorem Group.modLane_sample (g : Group) (i : Nat) (e : Lane → Lane) : (g.modLane i e).sample = g.sample := rfl
@[simp] theorem Group.modLane_timeh (g : Group) (i : Nat) (e : Lane → Lane) : (g.modLane i e).timeh = g.timeh := rfl
@[simp] theorem Group.modLane_ctxerr (g : Group) (i : Nat) (e : Lane → Lane) : (g.modLane i e).ctxerr = g.ctxerr := rfl
@[simp] theorem Group.modLane_haltLeft (g : Group) (i : Nat) (e : Lane → Lane) : (g.modLane i e).haltLeft = g.haltLeft := rfl
@[simp] theorem Group.modLane_stop (g : Group) (i : Nat) (e : Lane → Lane) : (g.modLane i e).stop = g.stop := rfl
@[simp] theorem Group.modLane_links (g : Group) (i : Nat) (e : Lane → Lane) : (g.modLane i e).links = g.links := rfl
@[simp] theorem Group.modLane_linkq (g : Group) (i : Nat) (e : Lane → Lane) : (g.modLane i e).linkq = g.linkq := rfl
@[simp] theorem Group.modLane_tick (g : Group) (i : Nat) (e : Lane → Lane) : (g.modLane i e).tick = g.tick := rfl
@[simp] theorem Group.modLane_nextSb (g : Group) (i : Nat) (e : Lane → Lane) : (g.modLane i e).nextSb = g.nextSb := rfl

@[simp] theorem Group.modSplit_id (g : Group) (i : Nat) (e : Split → Split) : (g.modSplit i e).id = g.id := rfl
@[simp] theorem Group.modSplit_pkg (g : Group) (i : Nat) (e : Split → Split) : (g.modSplit i e).pkg = g.pkg := rfl
@[simp] theorem Group.modSplit_core (g : Group) (i : Nat) (e : Split → Split) : (g.modSplit i e).core = g.core := rfl
@[simp] theorem Group.modSplit_crew (g : Group) (i : Nat) (e : Split → Split) : (g.modSplit i e).crew = g.crew := rfl
@[simp] theorem Group.modSplit_num (g : Group) (i : Nat) (e : Split → Split) : (g.modSplit i e).num = g.num := rfl
@[simp] theorem Group.modSplit_width (g : Group) (i : Nat) (e : Split → Split) : (g.modSplit i e).width = g.width := rfl
@[simp] theorem Group.modSplit_alloc (g : Group) (i : Nat) (e : Split → Split) : (g.modSplit i e).alloc = g.alloc := rfl
@[simp] theorem Group.modSplit_priv (g : Group) (i : Nat) (e : Split → Split) : (g.modSplit i e).priv = g.priv := rfl
@[simp] theorem Group.modSplit_handler (g : Group) (i : Nat) (e : Split → Split) : (g.modSplit i e).handler = g.handler := rfl
@[simp] theorem Group.modSplit_ctx (g : Group) (i : Nat) (e : Split → Split) : (g.modSplit i e).ctx = g.ctx := rfl
@[simp] theorem Group.modSplit_tile (g : Group) (i : Nat) (e : Split → Split) : (g.modSplit i e).tile = g.tile := rfl
@[simp] theorem Group.modSplit_age (g : Group) (i : Nat) (e : Split → Split) : (g.modSplit i e).age = g.age := rfl
@[simp] theorem Group.modSplit_lanes (g : Group) (i : Nat) (e : Split → Split) : (g.modSplit i e).lanes = g.lanes := rfl
@[simp] theorem Group.modSplit_s (g : Group) (i : Nat) (e : Split → Split) : (g.modSplit i e).s = g.s := rfl
@[simp] theorem Group.modSplit_f (g : Group) (i : Nat) (e : Split → Split) : (g.modSplit i e).f = g.f := rfl
@[simp] theorem Group.modSplit_mode (g : Group) (i : Nat) (e : Split → Split) : (g.modSplit i e).mode = g.mode := rfl
@[simp] theorem Group.modSplit_bad (g : Group) (i : Nat) (e : Split → Split) : (g.modSplit i e).bad = g.bad := rfl
@[simp] theorem Group.modSplit_earlyS (g : Group) (i : Nat) (e : Split → Split) : (g.modSplit i e).earlyS = g.earlyS := rfl
@[simp] theorem Group.modSplit_earlyF (g : Group) (i : Nat) (e : Split → Split) : (g.modSplit i e).earlyF = g.earlyF := rfl
@[simp] theorem Group.modSplit_splits (g : Group) (i : Nat) (e : Split → Split) : (g.modSplit i e).splits = g.splits.map fun p => if p.idx = i then e p else p := rfl
@[simp] theorem Group.modSplit_parks (g : Group) (i : Nat) (e : Split → Split) : (g.modSplit i e).parks = g.parks := rfl
@[simp] theorem Group.modSplit_cur (g : Group) (i : Nat) (e : Split → Split) : (g.modSplit i e).cur = g.cur := rfl
@[simp] theorem Group.modSplit_sb (g : Group) (i : Nat) (e : Split → Split) : (g.modSplit i e).sb = g.sb := rfl
@[simp] theorem Group.modSplit_sq (g : Group) (i : Nat) (e : Split → Split) : (g.modSplit i e).sq = g.sq := rfl
@[simp] theorem Group.modSplit_unacked (g : Group) (i : Nat) (e : Split → Split) : (g.modSplit i e).unacked = g.unacked := rfl
@[simp] theorem Group.modSplit_readPend (g : Group) (i : Nat) (e : Split → Split) : (g.modSplit i e).readPend = g.readPend := rfl
@[simp] theorem Group.modSplit_handed (g : Group) (i : Nat) (e : Split → Split) : (g.modSplit i e).handed = g.handed := rfl
@[simp] theorem Group.modSplit_acqOut (g : Group) (i : Nat) (e : Split → Split) : (g.modSplit i e).acqOut = g.acqOut := rfl
@[simp] theorem Group.modSplit_unretired (g : Group) (i : Nat) (e : Split → Split) : (g.modSplit i e).unretired = g.unretired := rfl
@[simp] theorem Group.modSplit_arr (g : Group) (i : Nat) (e : Split → Split) : (g.modSplit i e).arr = g.arr := rfl
@[simp] theorem Group.modSplit_colls (g : Group) (i : Nat) (e : Split → Split) : (g.modSplit i e).colls = g.colls := rfl
@[simp] theorem Group.modSplit_sample (g : Group) (i : Nat) (e : Split → Split) : (g.modSplit i e).sample = g.sample := rfl
@[simp] theorem Group.modSplit_timeh (g : Group) (i : Nat) (e : Split → Split) : (g.modSplit i e).timeh = g.timeh := rfl
@[simp] theorem Group.modSplit_ctxerr (g : Group) (i : Nat) (e : Split → Split) : (g.modSplit i e).ctxerr = g.ctxerr := rfl
@[simp] theorem Group.modSplit_haltLeft (g : Group) (i : Nat) (e : Split → Split) : (g.modSplit i e).haltLeft = g.haltLeft := rfl
@[simp] theorem Group.modSplit_stop (g : Group) (i : Nat) (e : Split → Split) : (g.modSplit i e).stop = g.stop := rfl
@[simp] theorem Group.modSplit_links (g : Group) (i : Nat) (e : Split → Split) : (g.modSplit i e).links = g.links := rfl
@[simp] theorem Group.modSplit_linkq (g : Group) (i : Nat) (e : Split → Split) : (g.modSplit i e).linkq = g.linkq := rfl
@[simp] theorem Group.modSplit_tick (g : Group) (i : Nat) (e : Split → Split) : (g.modSplit i e).tick = g.tick := rfl
@[simp] theorem Group.modSplit_nextSb (g : Group) (i : Nat) (e : Split → Split) : (g.modSplit i e).nextSb = g.nextSb := rfl

@[simp] theorem Group.post_id (g : Group) (ws : List (Target × Option Word)) : (g.post ws).id = g.id := rfl
@[simp] theorem Group.post_pkg (g : Group) (ws : List (Target × Option Word)) : (g.post ws).pkg = g.pkg := rfl
@[simp] theorem Group.post_core (g : Group) (ws : List (Target × Option Word)) : (g.post ws).core = g.core := rfl
@[simp] theorem Group.post_crew (g : Group) (ws : List (Target × Option Word)) : (g.post ws).crew = g.crew := rfl
@[simp] theorem Group.post_num (g : Group) (ws : List (Target × Option Word)) : (g.post ws).num = g.num := rfl
@[simp] theorem Group.post_width (g : Group) (ws : List (Target × Option Word)) : (g.post ws).width = g.width := rfl
@[simp] theorem Group.post_alloc (g : Group) (ws : List (Target × Option Word)) : (g.post ws).alloc = g.alloc := rfl
@[simp] theorem Group.post_priv (g : Group) (ws : List (Target × Option Word)) : (g.post ws).priv = g.priv := rfl
@[simp] theorem Group.post_handler (g : Group) (ws : List (Target × Option Word)) : (g.post ws).handler = g.handler := rfl
@[simp] theorem Group.post_ctx (g : Group) (ws : List (Target × Option Word)) : (g.post ws).ctx = g.ctx := rfl
@[simp] theorem Group.post_tile (g : Group) (ws : List (Target × Option Word)) : (g.post ws).tile = g.tile := rfl
@[simp] theorem Group.post_age (g : Group) (ws : List (Target × Option Word)) : (g.post ws).age = g.age := rfl
@[simp] theorem Group.post_lanes (g : Group) (ws : List (Target × Option Word)) : (g.post ws).lanes = g.lanes := rfl
@[simp] theorem Group.post_s (g : Group) (ws : List (Target × Option Word)) : (g.post ws).s = g.s := rfl
@[simp] theorem Group.post_f (g : Group) (ws : List (Target × Option Word)) : (g.post ws).f = g.f := rfl
@[simp] theorem Group.post_mode (g : Group) (ws : List (Target × Option Word)) : (g.post ws).mode = g.mode := rfl
@[simp] theorem Group.post_bad (g : Group) (ws : List (Target × Option Word)) : (g.post ws).bad = g.bad := rfl
@[simp] theorem Group.post_earlyS (g : Group) (ws : List (Target × Option Word)) : (g.post ws).earlyS = g.earlyS := rfl
@[simp] theorem Group.post_earlyF (g : Group) (ws : List (Target × Option Word)) : (g.post ws).earlyF = g.earlyF := rfl
@[simp] theorem Group.post_splits (g : Group) (ws : List (Target × Option Word)) : (g.post ws).splits = g.splits := rfl
@[simp] theorem Group.post_parks (g : Group) (ws : List (Target × Option Word)) : (g.post ws).parks = g.parks := rfl
@[simp] theorem Group.post_cur (g : Group) (ws : List (Target × Option Word)) : (g.post ws).cur = g.cur := rfl
@[simp] theorem Group.post_sb (g : Group) (ws : List (Target × Option Word)) : (g.post ws).sb = g.sb ++ [⟨g.nextSb, ws, false⟩] := rfl
@[simp] theorem Group.post_sq (g : Group) (ws : List (Target × Option Word)) : (g.post ws).sq = g.sq := rfl
@[simp] theorem Group.post_unacked (g : Group) (ws : List (Target × Option Word)) : (g.post ws).unacked = g.unacked := rfl
@[simp] theorem Group.post_readPend (g : Group) (ws : List (Target × Option Word)) : (g.post ws).readPend = g.readPend := rfl
@[simp] theorem Group.post_handed (g : Group) (ws : List (Target × Option Word)) : (g.post ws).handed = g.handed := rfl
@[simp] theorem Group.post_acqOut (g : Group) (ws : List (Target × Option Word)) : (g.post ws).acqOut = g.acqOut := rfl
@[simp] theorem Group.post_unretired (g : Group) (ws : List (Target × Option Word)) : (g.post ws).unretired = g.unretired := rfl
@[simp] theorem Group.post_arr (g : Group) (ws : List (Target × Option Word)) : (g.post ws).arr = g.arr := rfl
@[simp] theorem Group.post_colls (g : Group) (ws : List (Target × Option Word)) : (g.post ws).colls = g.colls := rfl
@[simp] theorem Group.post_sample (g : Group) (ws : List (Target × Option Word)) : (g.post ws).sample = g.sample := rfl
@[simp] theorem Group.post_timeh (g : Group) (ws : List (Target × Option Word)) : (g.post ws).timeh = g.timeh := rfl
@[simp] theorem Group.post_ctxerr (g : Group) (ws : List (Target × Option Word)) : (g.post ws).ctxerr = g.ctxerr := rfl
@[simp] theorem Group.post_haltLeft (g : Group) (ws : List (Target × Option Word)) : (g.post ws).haltLeft = g.haltLeft := rfl
@[simp] theorem Group.post_stop (g : Group) (ws : List (Target × Option Word)) : (g.post ws).stop = g.stop := rfl
@[simp] theorem Group.post_links (g : Group) (ws : List (Target × Option Word)) : (g.post ws).links = g.links := rfl
@[simp] theorem Group.post_linkq (g : Group) (ws : List (Target × Option Word)) : (g.post ws).linkq = g.linkq := rfl
@[simp] theorem Group.post_tick (g : Group) (ws : List (Target × Option Word)) : (g.post ws).tick = g.tick := rfl
@[simp] theorem Group.post_nextSb (g : Group) (ws : List (Target × Option Word)) : (g.post ws).nextSb = g.nextSb + 1 := rfl

end Sys2Proof.Machine
end

