-- ==== Sys2Proof/Laws/Group.lean ====
section
/-! SUPPORT. What the register writes of a group and the closing of an instruction do, and what they leave. -/

namespace Sys2Proof.Machine

/-! ### A rewrite of one lane -/

theorem Group.lane_modLane_self (g : Group) {l : Nat} (f : Lane → Lane) (h : l < g.lanes.length) :
    (g.modLane l f).lane l = f (g.lane l) := getD_modNth_self _ _ _ _ h

theorem Group.lane_modLane_other (g : Group) {l k : Nat} (f : Lane → Lane) (h : k ≠ l) :
    (g.modLane l f).lane k = g.lane k := getD_modNth_other _ _ _ h

theorem Group.lane_modLane_out (g : Group) {l : Nat} (f : Lane → Lane) (h : ¬ l < g.lanes.length) (k : Nat) :
    (g.modLane l f).lane k = g.lane k := by
  by_cases hk : k = l
  · subst hk
    simp only [Group.lane, Group.modLane, List.getD_eq_getElem?_getD, getElem?_modNth]
    simp [List.getElem?_eq_none (Nat.le_of_not_lt h)]
  · exact g.lane_modLane_other f hk

@[simp] theorem Group.lanes_length_modLane (g : Group) (l : Nat) (f : Lane → Lane) :
    (g.modLane l f).lanes.length = g.lanes.length := length_modNth ..

/-- A rewrite that keeps a view of a lane keeps that view of every lane. -/
theorem Group.lane_modLane_view {β : Type} (g : Group) (l : Nat) (f : Lane → Lane) (e : Lane → β)
    (h : ∀ a, e (f a) = e a) (k : Nat) : e ((g.modLane l f).lane k) = e (g.lane k) := by
  by_cases hl : l < g.lanes.length
  · by_cases hk : k = l
    · subst hk; rw [g.lane_modLane_self f hl, h]
    · rw [g.lane_modLane_other f hk]
  · rw [g.lane_modLane_out f hl]

theorem Group.rest_modLane (g : Group) (l : Nat) (f : Lane → Lane) (h : ∀ a, (f a).rest = a.rest) :
    (g.modLane l f).rest = g.rest := by
  simp only [Group.rest, Group.modLane, modNth_map _ _ _ _ h]

/-! ### Vector registers -/

theorem Lane.at_put_self (l : Lane) (pos : Nat) (w free : Word) : (l.put pos w free).at pos = if l.held pos then free else w := by
  simp [Lane.at, Lane.put]

theorem Lane.at_put_other (l : Lane) {pos k : Nat} (w free : Word) (h : k ≠ pos) : (l.put pos w free).at k = l.at k := by
  simp [Lane.at, Lane.put, rget_rput_other _ _ _ h]

/-- What engines hold of a lane does not change when the group writes there. -/
theorem Lane.spans_touch (l : Lane) (pos : Nat) :
    (l.touch pos).map (fun (x : RegSpan) => { x with touched := [] }) = l.spans.map fun (x : RegSpan) => { x with touched := [] } := by
  simp only [Lane.touch, List.map_map]
  refine List.map_congr_left fun x _ => ?_
  simp only [Function.comp]
  split <;> rfl

theorem Lane.held_congr {l m : Lane}
    (h : l.spans.map (fun (x : RegSpan) => { x with touched := [] }) = m.spans.map fun (x : RegSpan) => { x with touched := [] }) (pos : Nat) :
    l.held pos = m.held pos := by
  have := congrArg (fun ys => ys.any fun (x : RegSpan) => x.pos.contains pos) h
  simpa [Lane.held, List.any_map, Function.comp_def] using this

theorem Lane.held_rest {l m : Lane} (h : l.rest = m.rest) (pos : Nat) : l.held pos = m.held pos :=
  Lane.held_congr (congrArg Lane.spans h) pos

theorem Lane.rest_put (l : Lane) (pos : Nat) (w free : Word) : (l.put pos w free).rest = l.rest := by
  simp only [Lane.rest, Lane.put, Lane.spans_touch]

/-- A lane after its group has written v[x]. -/
def Lane.wrote (free : Nat → Word) (lat x : Nat) (w : Word) (l : Lane) : Lane :=
  { l.put (l.wb + x) w (free (l.wb + x)) with earlyV := putEarly l.earlyV (l.wb + x) (l.at (l.wb + x)) lat }

theorem Group.setV_wrote (g : Group) (lat l x : Nat) (w : Word) :
    g.setV lat l x w = g.modLane l (Lane.wrote (g.freeWord l) lat x w) := rfl

theorem Lane.at_wrote (free : Nat → Word) (lat x : Nat) (w : Word) (l : Lane) (pos : Nat) :
    (l.wrote free lat x w).at pos = if pos = l.wb + x then (if l.held pos then free pos else w) else l.at pos := by
  have e : (l.wrote free lat x w).at pos = (l.put (l.wb + x) w (free (l.wb + x))).at pos := rfl
  rw [e]
  split
  · next h => subst h; exact l.at_put_self ..
  · next h => exact l.at_put_other _ _ h

theorem Lane.rest_wrote (free : Nat → Word) (lat x : Nat) (w : Word) (l : Lane) : (l.wrote free lat x w).rest = l.rest :=
  l.rest_put (l.wb + x) w (free (l.wb + x))

@[simp] theorem Group.rest_setV (g : Group) (lat l x : Nat) (w : Word) : (g.setV lat l x w).rest = g.rest :=
  g.rest_modLane _ _ fun a => a.rest_wrote _ lat x w

@[simp] theorem Group.lanes_length_setV (g : Group) (lat l x : Nat) (w : Word) :
    (g.setV lat l x w).lanes.length = g.lanes.length := g.lanes_length_modLane ..

@[simp] theorem Group.wb_setV (g : Group) (lat l x : Nat) (w : Word) (k : Nat) :
    ((g.setV lat l x w).lane k).wb = (g.lane k).wb :=
  g.lane_modLane_view l _ Lane.wb (by intro _; rfl) k

@[simp] theorem Group.preg_setV (g : Group) (lat l x : Nat) (w : Word) (k y : Nat) :
    (g.setV lat l x w).preg k y = g.preg k y := by
  have h : ((g.setV lat l x w).lane k).p = (g.lane k).p := g.lane_modLane_view l _ Lane.p (by intro _; rfl) k
  simp only [Group.preg, h]

@[simp] theorem Group.sval_setV (g : Group) (lat l x : Nat) (w : Word) (y : Nat) :
    (g.setV lat l x w).sval y = g.sval y := rfl

@[simp] theorem Group.fval_setV (g : Group) (lat l x : Nat) (w : Word) (y : Nat) :
    (g.setV lat l x w).fval y = g.fval y := rfl

theorem Group.vreg_setV_self (g : Group) (lat l x : Nat) (w : Word) (h : l < g.lanes.length) (hu : g.unheld l x) :
    (g.setV lat l x w).vreg l x = w := by
  rw [Group.vreg, Group.setV_wrote, g.lane_modLane_self _ h, Lane.at_wrote]
  have e : ((g.lane l).wrote (g.freeWord l) lat x w).wb = (g.lane l).wb := rfl
  rw [e, if_pos rfl, hu]; rfl

theorem Group.at_setV_other (g : Group) (lat l x : Nat) (w : Word) (k pos : Nat) (h : k ≠ l ∨ pos ≠ (g.lane l).wb + x) :
    ((g.setV lat l x w).lane k).at pos = (g.lane k).at pos := by
  by_cases hk : k = l
  · subst hk
    have h : pos ≠ (g.lane k).wb + x := by simpa using h
    by_cases hl : k < g.lanes.length
    · rw [Group.setV_wrote, g.lane_modLane_self _ hl, Lane.at_wrote, if_neg h]
    · simp only [Group.setV, g.lane_modLane_out _ hl]
  · simp only [Group.setV, g.lane_modLane_other _ hk]

/-! ### Predicates -/

@[simp] theorem Group.rest_setP (g : Group) (lat l x : Nat) (b : Bool) : (g.setP lat l x b).rest = g.rest := by
  simp only [Group.setP]
  split
  · rfl
  · exact g.rest_modLane _ _ fun _ => rfl

@[simp] theorem Group.lanes_length_setP (g : Group) (lat l x : Nat) (b : Bool) :
    (g.setP lat l x b).lanes.length = g.lanes.length := by
  simp only [Group.setP]
  split
  · rfl
  · exact g.lanes_length_modLane ..

@[simp] theorem Group.at_setP (g : Group) (lat l x : Nat) (b : Bool) (k pos : Nat) :
    ((g.setP lat l x b).lane k).at pos = (g.lane k).at pos := by
  simp only [Group.setP]
  split
  · rfl
  · exact g.lane_modLane_view l _ (fun a => a.at pos) (by intro _; rfl) k

@[simp] theorem Group.wb_setP (g : Group) (lat l x : Nat) (b : Bool) (k : Nat) :
    ((g.setP lat l x b).lane k).wb = (g.lane k).wb := by
  simp only [Group.setP]
  split
  · rfl
  · exact g.lane_modLane_view l _ Lane.wb (by intro _; rfl) k

@[simp] theorem Group.sval_setP (g : Group) (lat l x : Nat) (b : Bool) (y : Nat) :
    (g.setP lat l x b).sval y = g.sval y := by
  simp only [Group.setP]; split <;> rfl

@[simp] theorem Group.fval_setP (g : Group) (lat l x : Nat) (b : Bool) (y : Nat) :
    (g.setP lat l x b).fval y = g.fval y := by
  simp only [Group.setP]; split <;> rfl

theorem flag_setPBit : ∀ (p : BitVec 8) (x y : Fin 8) (b : Bool), x ≠ 0 →
    flag (setPBit p x b).toNat y = if y = x then b else flag p.toNat y := by decide +kernel

theorem Group.preg_setP_self (g : Group) (lat l : Nat) (x : BitVec 3) (b : Bool) (h : l < g.lanes.length) :
    (g.setP lat l x.toNat b).preg l x.toNat = (x.toNat == 0 || b) := by
  by_cases hx : x.toNat = 0
  · simp [Group.preg, hx]
  · have e := flag_setPBit (g.lane l).p ⟨x.toNat, x.isLt⟩ ⟨x.toNat, x.isLt⟩ b (by simpa [Fin.ext_iff] using hx)
    simp only [if_true] at e
    simp [Group.preg, Group.setP, hx, g.lane_modLane_self _ h, e]

theorem Group.preg_setP_other (g : Group) (lat l : Nat) (x : BitVec 3) (b : Bool) (k : Nat) (y : Nat)
    (h : k ≠ l ∨ y ≠ x.toNat ∨ y = 0) (hy : y < 8) :
    (g.setP lat l x.toNat b).preg k y = g.preg k y := by
  by_cases hy0 : y = 0
  · simp [Group.preg, hy0]
  by_cases hx : x.toNat = 0
  · simp [Group.setP, hx]
  by_cases hk : k = l
  · subst hk
    by_cases hl : k < g.lanes.length
    · have e := flag_setPBit (g.lane k).p ⟨x.toNat, x.isLt⟩ ⟨y, hy⟩ b (by simpa [Fin.ext_iff] using hx)
      have hne : y ≠ x.toNat := by omega
      rw [if_neg (by simpa [Fin.ext_iff] using hne)] at e
      dsimp only at e
      simp [Group.preg, Group.setP, hx, g.lane_modLane_self _ hl, e]
    · simp [Group.preg, Group.setP, hx, g.lane_modLane_out _ hl]
  · simp [Group.preg, Group.setP, hx, g.lane_modLane_other _ hk]

/-! ### Scalar registers -/

@[simp] theorem Group.rest_setS (g : Group) (lat x : Nat) (w : Word) : (g.setS lat x w).rest = g.rest := by
  simp only [Group.setS]; split <;> rfl

@[simp] theorem Group.lanes_setS (g : Group) (lat x : Nat) (w : Word) : (g.setS lat x w).lanes = g.lanes := by
  simp only [Group.setS]; split <;> rfl

theorem Group.sval_setS (g : Group) (lat x : Nat) (w : Word) (y : Nat) :
    (g.setS lat x w).sval y = if x = 0 ∨ y ≠ x then g.sval y else w := by
  simp only [Group.setS, Group.sval]
  by_cases hx : x = 0
  · simp [hx]
  · by_cases hy : y = x
    · subst hy; simp [hx]
    · simp [hx, hy, rget_rput_other _ _ _ hy]

@[simp] theorem Group.fval_setS (g : Group) (lat x : Nat) (w : Word) (y : Nat) : (g.setS lat x w).fval y = g.fval y := by
  simp only [Group.setS]; split <;> rfl

@[simp] theorem Group.rest_setF (g : Group) (lat x : Nat) (w : Word) : (g.setF lat x w).rest = g.rest := rfl
@[simp] theorem Group.lanes_setF (g : Group) (lat x : Nat) (w : Word) : (g.setF lat x w).lanes = g.lanes := rfl
@[simp] theorem Group.sval_setF (g : Group) (lat x : Nat) (w : Word) (y : Nat) : (g.setF lat x w).sval y = g.sval y := rfl

theorem Group.fval_setF (g : Group) (lat x : Nat) (w : Word) (y : Nat) :
    (g.setF lat x w).fval y = if y = x then w else g.fval y := by
  simp only [Group.setF, Group.fval]
  by_cases hy : y = x
  · subst hy; simp
  · simp [hy, rget_rput_other _ _ _ hy]

/-! ### Closing an instruction: advance, older, countSkid, shadow -/

theorem Lane.at_congr {l m : Lane} (h1 : l.v = m.v) (h2 : l.fill = m.fill) (pos : Nat) : l.at pos = m.at pos := by
  simp only [Lane.at, h1, h2]

/-- h holds the registers of g, and all of g but the bookkeeping of issue and halt. -/
def Group.same (g h : Group) : Prop :=
  h.rest = g.rest ∧ h.s = g.s ∧ h.f = g.f ∧ h.lanes.map (fun l => (l.v, l.p)) = g.lanes.map (fun l => (l.v, l.p))

theorem Group.same_refl (g : Group) : g.same g := ⟨rfl, rfl, rfl, rfl⟩

theorem Group.same_trans {a b c : Group} (h : a.same b) (k : b.same c) : a.same c :=
  ⟨k.1.trans h.1, k.2.1.trans h.2.1, k.2.2.1.trans h.2.2.1, k.2.2.2.trans h.2.2.2⟩

/-- A rewrite of lanes that keeps each lane's registers and rest, and nothing else, keeps the group the same. -/
theorem Group.same_mapLanes (g : Group) (f : Lane → Lane) (h : ∀ l, (f l).rest = l.rest ∧ (f l).v = l.v ∧ (f l).p = l.p) :
    g.same { g with lanes := g.lanes.map f } := by
  refine ⟨?_, rfl, rfl, ?_⟩
  · simp only [Group.rest, List.map_map]
    congr 1
    exact List.map_congr_left fun l _ => (h l).1
  · simp only [List.map_map]
    exact List.map_congr_left fun l _ => by simp [(h l).2]

theorem Group.same_modLane (g : Group) (i : Nat) (f : Lane → Lane) (h : ∀ l, (f l).rest = l.rest ∧ (f l).v = l.v ∧ (f l).p = l.p) :
    g.same (g.modLane i f) :=
  ⟨g.rest_modLane i f fun l => (h l).1, rfl, rfl, modNth_map _ _ _ _ fun l => by simp [(h l).2]⟩

theorem Group.same_older (g : Group) (d : Nat) : g.same (g.older d) := by
  have := g.same_mapLanes (fun l => { l with earlyV := ageEarly d l.earlyV, earlyP := ageEarly d l.earlyP })
    fun l => ⟨rfl, rfl, rfl⟩
  exact ⟨this.1, rfl, rfl, this.2.2.2⟩

theorem Group.same_halt (g : Group) (k : Nat) : g.same (g.halt k) := by
  simp only [Group.halt]
  split
  · exact g.same_refl
  · refine ⟨?_, rfl, rfl, rfl⟩
    simp only [Group.rest, List.map_map]
    congr 1
    refine List.map_congr_left fun p _ => ?_
    simp only [Function.comp]
    split <;> simp [Split.rest]

theorem Group.same_countSkid (g : Group) : g.same g.countSkid := by
  simp only [Group.countSkid]
  split
  · exact g.same_halt 1
  · next k _ =>
    have h0 : g.same { g with haltLeft := some k } := ⟨rfl, rfl, rfl, rfl⟩
    split
    · exact Group.same_trans h0 (Group.same_halt _ 1)
    · exact h0
  · exact g.same_refl

/-- A rewrite of the issuing split that keeps its index and mask keeps the group the same. -/
theorem Group.same_modSplit (g : Group) (f : Split → Split) (h : ∀ p, p.idx = g.cur → (f p).rest g.cur = p.rest g.cur) :
    g.same (g.modSplit g.cur f) := by
  refine ⟨?_, rfl, rfl, rfl⟩
  simp only [Group.rest, Group.modSplit, List.map_map]
  congr 1
  refine List.map_congr_left fun p _ => ?_
  simp only [Function.comp]
  split
  · next hp => exact h p hp
  · rfl

theorem Group.same_counted (g : Group) (w : Wait) (stall : Nat) : g.same (g.counted w stall) := by
  simp only [Group.counted]
  split
  · exact g.same_refl
  · exact Group.same_trans (g.same_older _) (Group.same_countSkid _)

theorem Group.same_advance (g : Group) (len stall : Nat) : g.same (g.advance len stall) := by
  simp only [Group.advance]
  refine Group.same_trans ?_ (Group.same_counted _ _ _)
  exact g.same_modSplit _ fun p hp => by simp [Split.rest, hp]

theorem Group.same_shadow (g : Group) (off : List Nat) (u : Uses) (lat : Nat) : g.same (g.shadow off u lat) := by
  simp only [Group.shadow]
  split
  · exact g.same_refl
  · simp only [Group.eachLane]
    suffices h : ∀ a : Group, g.same a → g.same (off.foldl (fun h i => h.modLane i fun l =>
        { l with earlyV := l.earlyV ++ u.wv.map (fun x => ⟨l.wb + x, l.at (l.wb + x), lat⟩),
                 earlyP := l.earlyP ++ (u.wp.filter fun x => x != 0).map fun x => ⟨x, if flag l.p.toNat x then 1 else 0, lat⟩ }) a) from
      h g g.same_refl
    induction off with
    | nil => exact fun a h => h
    | cons i t ih =>
      intro a h
      exact ih _ (Group.same_trans h (Group.same_modLane a i _ fun l => ⟨rfl, rfl, rfl⟩))

/-! ### What `same` says of the registers -/

theorem getD_map_eq {α β : Type} {l m : List α} {e : α → β} (h : l.map e = m.map e) (d : α) (k : Nat) :
    e (l.getD k d) = e (m.getD k d) := by
  have hk : (l.map e)[k]? = (m.map e)[k]? := by rw [h]
  simp only [List.getElem?_map] at hk
  rw [List.getD_eq_getElem?_getD, List.getD_eq_getElem?_getD]
  cases h1 : l[k]? <;> cases h2 : m[k]? <;> simp_all

theorem Group.rest_lane {g h : Group} (e : h.rest = g.rest) (k : Nat) : (h.lane k).rest = (g.lane k).rest := by
  have : h.lanes.map Lane.rest = g.lanes.map Lane.rest := congrArg Group.lanes e
  exact getD_map_eq this _ k

theorem Group.rest_length {g h : Group} (e : h.rest = g.rest) : h.lanes.length = g.lanes.length := by
  have : h.lanes.map Lane.rest = g.lanes.map Lane.rest := congrArg Group.lanes e
  simpa using congrArg List.length this

theorem Group.rest_wb {g h : Group} (e : h.rest = g.rest) (k : Nat) : (h.lane k).wb = (g.lane k).wb :=
  (congrArg Lane.wb (Group.rest_lane e k) :)

theorem Group.rest_fill {g h : Group} (e : h.rest = g.rest) (k : Nat) : (h.lane k).fill = (g.lane k).fill :=
  (congrArg Lane.fill (Group.rest_lane e k) :)

theorem Group.same_at {g h : Group} (e : g.same h) (k pos : Nat) : (h.lane k).at pos = (g.lane k).at pos :=
  Lane.at_congr (congrArg Prod.fst (getD_map_eq e.2.2.2 _ k)) (Group.rest_fill e.1 k) pos

theorem Group.same_vreg {g h : Group} (e : g.same h) (k x : Nat) : h.vreg k x = g.vreg k x := by
  simp only [Group.vreg, Group.rest_wb e.1, Group.same_at e]

theorem Group.same_preg {g h : Group} (e : g.same h) (k x : Nat) : h.preg k x = g.preg k x := by
  have : (h.lane k).p = (g.lane k).p := congrArg Prod.snd (getD_map_eq e.2.2.2 _ k)
  simp only [Group.preg, this]

theorem Group.same_sval {g h : Group} (e : g.same h) (x : Nat) : h.sval x = g.sval x := by simp only [Group.sval, e.2.1]
theorem Group.same_fval {g h : Group} (e : g.same h) (x : Nat) : h.fval x = g.fval x := by simp only [Group.fval, e.2.2.1]

end Sys2Proof.Machine
end

