-- ==== Sys2Proof/Laws/Issue.lean ====
section
/-! SUPPORT. The frame of an instruction: what issue answers when the instruction passes its checks, and where its PC goes. -/

namespace Sys2Proof.Machine

open Host (Outcome)

/-! ### The PC and mask of the issuing split -/

/-- Index, PC and mask of every split. -/
def Group.places (g : Group) : List (Nat × Nat × Nat) := g.splits.map fun p => (p.idx, p.pc, p.mask)

theorem find?_places (l : List Split) (k : Nat) :
    (l.find? fun p => p.idx == k).map (fun p => (p.pc, p.mask)) =
      ((l.map fun p => (p.idx, p.pc, p.mask)).find? fun q => q.1 == k).map Prod.snd := by
  induction l with
  | nil => rfl
  | cons p t ih =>
    simp only [List.find?_cons, List.map_cons]
    cases p.idx == k <;> simp [ih]

theorem Group.pc_mask_eq (g : Group) :
    (g.pc, g.mask) = ((g.places.find? fun q => q.1 == g.cur).map Prod.snd).getD (0, 0) := by
  rw [Group.places, ← find?_places]
  simp only [Group.pc, Group.mask, Group.issuing, Group.split?]
  cases List.find? (fun p => p.idx == g.cur) g.splits <;> rfl

theorem Group.pc_mask_congr {g h : Group} (e : h.places = g.places) (c : h.cur = g.cur) : (h.pc, h.mask) = (g.pc, g.mask) := by
  rw [Group.pc_mask_eq, Group.pc_mask_eq, e, c]

theorem Group.pc_congr {g h : Group} (e : h.places = g.places) (c : h.cur = g.cur) : h.pc = g.pc :=
  congrArg Prod.fst (Group.pc_mask_congr e c)

theorem Group.mask_congr {g h : Group} (e : h.places = g.places) (c : h.cur = g.cur) : h.mask = g.mask :=
  congrArg Prod.snd (Group.pc_mask_congr e c)

theorem Group.places_halt (g : Group) (k : Nat) : (g.halt k).places = g.places ∧ (g.halt k).cur = g.cur := by
  simp only [Group.halt]
  split
  · exact ⟨rfl, rfl⟩
  · refine ⟨?_, rfl⟩
    simp only [Group.places, List.map_map]
    refine List.map_congr_left fun p _ => ?_
    simp only [Function.comp]
    split <;> rfl

theorem Group.places_countSkid (g : Group) : g.countSkid.places = g.places ∧ g.countSkid.cur = g.cur := by
  simp only [Group.countSkid]
  split
  · exact g.places_halt 1
  · split
    · exact Group.places_halt _ 1
    · exact ⟨rfl, rfl⟩
  · exact ⟨rfl, rfl⟩

theorem Group.places_counted (g : Group) (w : Wait) (stall : Nat) :
    (g.counted w stall).places = g.places ∧ (g.counted w stall).cur = g.cur := by
  simp only [Group.counted]
  split
  · exact ⟨rfl, rfl⟩
  · exact (g.older (stall + 1)).places_countSkid

theorem Group.pc_modSplit_self (g : Group) (f : Split → Split) (hf : ∀ p, (f p).idx = p.idx) (h : (g.split? g.cur).isSome) :
    (g.modSplit g.cur f).pc = (f g.issuing).pc := by
  simp only [Group.pc, Group.issuing, Group.split?, Group.modSplit] at h ⊢
  obtain ⟨p, hp⟩ := Option.isSome_iff_exists.mp h
  have : (g.splits.map fun p => if p.idx = g.cur then f p else p).find? (fun p => p.idx == g.cur) = some (f p) := by
    clear h
    generalize g.splits = l at hp ⊢
    induction l with
    | nil => cases hp
    | cons a t ih =>
      rw [List.find?_cons] at hp
      rw [List.map_cons, List.find?_cons]
      by_cases ha : a.idx = g.cur
      · simp only [ha, beq_self_eq_true, Option.some.injEq] at hp
        subst hp
        simp [ha, hf]
      · have hb : (a.idx == g.cur) = false := by simpa using ha
        rw [hb] at hp
        rw [if_neg ha, hb]
        exact ih hp
  rw [this, hp]; rfl

theorem Group.pc_advance (g : Group) (len stall : Nat) (h : (g.split? g.cur).isSome) :
    (g.advance len stall).pc = (g.pc + len) % 2 ^ 64 := by
  simp only [Group.advance]
  rw [Group.pc_congr (Group.places_counted _ _ _).1 (Group.places_counted _ _ _).2]
  exact Group.pc_modSplit_self g _ (fun _ => rfl) h

/-! ### Merging at issue -/

theorem Group.promote_view (k : Nat) (g : Group) : (Group.promote k g).lanes = g.lanes ∧ (Group.promote k g).mode = g.mode ∧
    (Group.promote k g).priv = g.priv ∧ (Group.promote k g).s = g.s ∧ (Group.promote k g).f = g.f := by
  induction k generalizing g with
  | zero => exact ⟨rfl, rfl, rfl, rfl, rfl⟩
  | succ k ih =>
    simp only [Group.promote]
    split
    · exact ih _
    · exact ⟨rfl, rfl, rfl, rfl, rfl⟩

theorem Group.merge_view (g : Group) : g.merge.lanes = g.lanes ∧ g.merge.mode = g.mode ∧ g.merge.priv = g.priv ∧
    g.merge.s = g.s ∧ g.merge.f = g.f := by
  simp only [Group.merge]
  split
  · exact ⟨rfl, rfl, rfl, rfl, rfl⟩
  · exact Group.promote_view 12 _

@[simp] theorem State.setG_setG (s : State) (g h : Group) : (s.setG g).setG h = s.setG h := rfl

@[simp] theorem State.merged_mode (s : State) : s.merged.g.mode = s.g.mode := s.g.merge_view.2.1
@[simp] theorem State.merged_et (s : State) : s.merged.g.et = s.g.et := by
  simp only [Group.et, Group.modeField, State.merged_mode]

/-! ### Issue -/

theorem issueRes_passed {i : Instr} {s : State} {legal : Bool} {body : State → Res} (h : s.issues i = true) (hl : legal = true) :
    issueRes i legal s.merged body =
      (body s.merged).shadowed (s.merged.g.guardedOff (uses s.merged i)) (uses s.merged i) (fixedLat i s.merged.g.et) := by
  simp only [State.issues, Bool.and_eq_true, Bool.or_eq_true, Bool.not_eq_true', Bool.and_eq_false_iff] at h
  obtain ⟨⟨⟨⟨⟨_, h2⟩, h3⟩, h4⟩, h5⟩, h6⟩ := h
  simp only [issueRes]
  generalize s.merged = m at h2 h3 h4 h5 h6 ⊢
  rw [if_neg, if_neg, if_neg, if_neg, if_neg]
  · simp [h6]
  · simp [h5]
  · rcases h4 with h4 | h4 <;> simp [h4]
  · simp [h3, hl]
  · rcases h2 with h2 | h2 <;> simp [h2]

theorem State.issues_split {s : State} {i : Instr} (h : s.issues i = true) : (s.g.split? s.g.cur).isSome = true := by
  simp only [State.issues, Bool.and_eq_true] at h
  exact h.1.1.1.1.1

theorem issue_next {i : Instr} {s : State} {legal : Bool} {body : State → Res} (h : (s.g.split? s.g.cur).isSome = true) :
    issue i legal s body = .next (finish (instrBytes i) (instrStall i) s.merged (issueRes i legal s.merged body)) := by
  obtain ⟨p, hp⟩ := Option.isSome_iff_exists.mp h
  simp only [issue, hp]

theorem issue_passed {i : Instr} {s : State} {legal : Bool} {body : State → Res} (h : s.issues i = true) (hl : legal = true) :
    issue i legal s body = .next (finish (instrBytes i) (instrStall i) s.merged
      ((body s.merged).shadowed (s.merged.g.guardedOff (uses s.merged i)) (uses s.merged i) (fixedLat i s.merged.g.et))) := by
  rw [issue_next (State.issues_split h), issueRes_passed h hl]

/-- The splits stand as they did. -/
def Group.sameSplits (g h : Group) : Prop := h.splits = g.splits ∧ h.cur = g.cur

theorem Group.sameSplits_shadow (g : Group) (off : List Nat) (u : Uses) (lat : Nat) : g.sameSplits (g.shadow off u lat) := by
  simp only [Group.shadow]
  split
  · exact ⟨rfl, rfl⟩
  · simp only [Group.eachLane]
    suffices h : ∀ a : Group, g.sameSplits a → g.sameSplits (off.foldl (fun h i => h.modLane i fun l =>
        { l with earlyV := l.earlyV ++ u.wv.map (fun x => ⟨l.wb + x, l.at (l.wb + x), lat⟩),
                 earlyP := l.earlyP ++ (u.wp.filter fun x => x != 0).map fun x => ⟨x, if flag l.p.toNat x then 1 else 0, lat⟩ }) a) from
      h g ⟨rfl, rfl⟩
    induction off with
    | nil => exact fun a h => h
    | cons i t ih => exact fun a h => ih _ h

theorem Group.pc_sameSplits {g h : Group} (e : g.sameSplits h) : h.pc = g.pc :=
  Group.pc_congr (by simp only [Group.places, e.1]) e.2

theorem Group.same_closed (g : Group) (len stall : Nat) : g.same (g.closed len stall) :=
  Group.same_trans (g.same_advance len stall) ⟨rfl, rfl, rfl, rfl⟩

theorem Group.pc_closed (g : Group) (len stall : Nat) (h : (g.split? g.cur).isSome) :
    (g.closed len stall).pc = (g.pc + len) % 2 ^ 64 :=
  g.pc_advance len stall h

theorem Group.merge_split (g : Group) (h : (g.split? g.cur).isSome = true) : (g.merge.split? g.merge.cur).isSome = true := by
  have key : ∀ (k : Nat) (a : Group), (a.split? a.cur).isSome = true →
      ((Group.promote k a).split? (Group.promote k a).cur).isSome = true := by
    intro k
    induction k with
    | zero => exact fun a h => h
    | succ k ih =>
      intro a ha
      simp only [Group.promote]
      split
      · refine ih _ ?_
        simp only [Group.split?, List.find?_append, Option.isSome_or] at ha ⊢
        simp [ha]
      · exact ha
  simp only [Group.merge]
  split
  · exact h
  · exact key 12 _ (by simp [Group.split?])

/-- An instruction that touches its group alone and passes its checks: the next state holds the body's group, its bookkeeping
closed. -/
theorem issue_done_next {i : Instr} {s : State} {legal : Bool} {body : State → Group} (h : s.issues i = true) (hl : legal = true)
    (hb : s.merged.g.sameSplits (body s.merged)) :
    ∃ g, (issue i legal s fun t => .done (t.setG (body t))) = .next (s.merged.setG g) ∧ (body s.merged).same g ∧
      g.pc = s.merged.g.pcAfter i := by
  refine ⟨_, by rw [issue_passed h hl]; rfl, ?_, ?_⟩
  · exact Group.same_trans (Group.same_shadow _ _ _ _) (Group.same_closed _ _ _)
  · have e := Group.sameSplits_shadow (body s.merged) (s.merged.g.guardedOff (uses s.merged i)) (uses s.merged i)
      (fixedLat i s.merged.g.et)
    have e' : s.merged.g.sameSplits _ := ⟨e.1.trans hb.1, e.2.trans hb.2⟩
    have hs := Group.merge_split s.g (State.issues_split h)
    simp only [State.setG_g]
    rw [Group.pc_closed _ _ _ (by simp only [Group.split?, e'.1, e'.2]; exact hs), Group.pc_sameSplits e']
    rfl

end Sys2Proof.Machine
end

