-- ==== Sys2Proof/Laws/Results.lean ====
section
/-! SUPPORT. The shapes of results: an instruction whose body writes the named registers has the named result. -/

namespace Sys2Proof.Machine

/-- v[d], v[d+1], … of a lane written one after the other. -/
def Group.putV (g : Group) (lat l d : Nat) : List Word → Group
  | [] => g
  | w :: t => (g.setV lat l d w).putV lat l (d + 1) t

theorem Group.setElem_putV (g : Group) (lat et l x r : Nat) : g.setElem lat et l x r = g.putV lat l x (elemWords et r) := by
  simp only [Group.setElem, elemWords]
  split <;> rfl

theorem Group.setV2_putV (g : Group) (lat l x n : Nat) : g.setV2 lat l x n = g.putV lat l x [loWord n, hiWord n] := rfl

@[simp] theorem Group.rest_putV (g : Group) (lat l d : Nat) (ws : List Word) : (g.putV lat l d ws).rest = g.rest := by
  induction ws generalizing g d with
  | nil => rfl
  | cons w t ih => simp [Group.putV, ih]

theorem Group.sameSplits_putV (g : Group) (lat l d : Nat) (ws : List Word) : g.sameSplits (g.putV lat l d ws) := by
  induction ws generalizing g d with
  | nil => exact ⟨rfl, rfl⟩
  | cons w t ih => exact ih (g.setV lat l d w) (d + 1)

theorem Group.regs_putV (g : Group) (lat l d : Nat) (ws : List Word) :
    (∀ k x, (g.putV lat l d ws).preg k x = g.preg k x) ∧ (∀ x, (g.putV lat l d ws).sval x = g.sval x) ∧
    (∀ x, (g.putV lat l d ws).fval x = g.fval x) := by
  induction ws generalizing g d with
  | nil => exact ⟨fun _ _ => rfl, fun _ => rfl, fun _ => rfl⟩
  | cons w t ih =>
    obtain ⟨h1, h2, h3⟩ := ih (g.setV lat l d w) (d + 1)
    exact ⟨fun k x => by rw [Group.putV, h1, Group.preg_setV], fun x => by rw [Group.putV, h2, Group.sval_setV],
      fun x => by rw [Group.putV, h3, Group.fval_setV]⟩

theorem Group.at_putV_other (g : Group) (lat l d : Nat) (ws : List Word) (k pos : Nat)
    (h : k ≠ l ∨ pos < (g.lane l).wb + d ∨ (g.lane l).wb + d + ws.length ≤ pos) :
    ((g.putV lat l d ws).lane k).at pos = (g.lane k).at pos := by
  induction ws generalizing g d with
  | nil => rfl
  | cons w t ih =>
    simp only [List.length_cons] at h
    rw [Group.putV, ih _ _ (by rw [Group.wb_setV]; omega), Group.at_setV_other _ _ _ _ _ _ _ (by omega)]

/-- What engines hold is in a group's rest. -/
theorem Group.unheld_rest {g h : Group} (e : h.rest = g.rest) (l x : Nat) : h.unheld l x ↔ g.unheld l x := by
  simp only [Group.unheld, Group.rest_wb e, Lane.held_rest (Group.rest_lane e l)]

theorem Group.vreg_putV (g : Group) (lat l d : Nat) (ws : List Word) (h : l < g.lanes.length) (j : Nat) (w : Word)
    (hj : ws[j]? = some w) (hu : g.unheld l (d + j)) : (g.putV lat l d ws).vreg l (d + j) = w := by
  induction ws generalizing g d j with
  | nil => simp at hj
  | cons a t ih =>
    cases j with
    | zero =>
      simp only [List.getElem?_cons_zero, Option.some.injEq] at hj
      subst hj
      have := Group.at_putV_other (g.setV lat l d a) lat l (d + 1) t l ((g.lane l).wb + d) (by rw [Group.wb_setV]; omega)
      simp only [Group.putV, Group.vreg]
      rw [Group.rest_wb (Group.rest_putV _ _ _ _ _), Group.wb_setV]
      simp only [Nat.add_zero]
      rw [this]
      have := g.vreg_setV_self lat l d a h hu
      simpa [Group.vreg] using this
    | succ j =>
      have := ih (g.setV lat l d a) (d + 1) (by simpa using h) j (by simpa using hj)
        ((Group.unheld_rest (g.rest_setV ..) _ _).mpr (by rwa [show d + 1 + j = d + (j + 1) by omega]))
      rw [Group.putV, show d + (j + 1) = d + 1 + j by omega]
      exact this

/-- Words written in a list of lanes, each once. -/
def Group.eachPut (g : Group) (lat d : Nat) (ls : List Nat) (ws : Nat → List Word) : Group :=
  g.eachLane ls fun l h => h.putV lat l d (ws l)

theorem Group.eachPut_spec (g : Group) (lat d : Nat) (ls : List Nat) (ws : Nat → List Word) (hn : ls.Nodup) :
    (g.eachPut lat d ls ws).rest = g.rest ∧ g.sameSplits (g.eachPut lat d ls ws) ∧
    (∀ l ∈ ls, l < g.lanes.length → ∀ j w, (ws l)[j]? = some w → g.unheld l (d + j) → (g.eachPut lat d ls ws).vreg l (d + j) = w) ∧
    (∀ k pos, (k ∉ ls ∨ pos < (g.lane k).wb + d ∨ (g.lane k).wb + d + (ws k).length ≤ pos) →
      ((g.eachPut lat d ls ws).lane k).at pos = (g.lane k).at pos) ∧
    (∀ k x, (g.eachPut lat d ls ws).preg k x = g.preg k x) ∧ (∀ x, (g.eachPut lat d ls ws).sval x = g.sval x) ∧
    (∀ x, (g.eachPut lat d ls ws).fval x = g.fval x) := by
  induction ls generalizing g with
  | nil => exact ⟨rfl, ⟨rfl, rfl⟩, by simp, fun _ _ _ => rfl, fun _ _ => rfl, fun _ => rfl, fun _ => rfl⟩
  | cons i t ih =>
    obtain ⟨hi, ht⟩ := List.nodup_cons.mp hn
    have e : g.eachPut lat d (i :: t) ws = (g.putV lat i d (ws i)).eachPut lat d t ws := rfl
    obtain ⟨h1, h2, h3, h4, h5, h6, h7⟩ := ih (g.putV lat i d (ws i)) ht
    obtain ⟨p1, p2, p3⟩ := g.regs_putV lat i d (ws i)
    have hs := g.sameSplits_putV lat i d (ws i)
    have hr := g.rest_putV lat i d (ws i)
    have hw : ∀ k, ((g.putV lat i d (ws i)).lane k).wb = (g.lane k).wb := Group.rest_wb hr
    rw [e]
    refine ⟨h1.trans hr, ⟨h2.1.trans hs.1, h2.2.trans hs.2⟩, ?_, ?_, fun k x => (h5 k x).trans (p1 k x),
      fun x => (h6 x).trans (p2 x), fun x => (h7 x).trans (p3 x)⟩
    · intro l hl hlen j w hj hu
      rcases List.mem_cons.mp hl with rfl | hl
      · have := h4 l ((g.lane l).wb + (d + j)) (.inl hi)
        simp only [Group.vreg]
        rw [Group.rest_wb (h1.trans hr), this]
        have := g.vreg_putV lat l d (ws l) hlen j w hj hu
        simpa only [Group.vreg, hw] using this
      · exact h3 l hl (by rw [Group.rest_length hr]; exact hlen) j w hj ((Group.unheld_rest hr _ _).mpr hu)
    · intro k pos hk
      rw [h4 k pos (by rw [hw]; exact hk.imp_left fun h => fun m => h (List.mem_cons_of_mem _ m))]
      by_cases hki : k = i
      · subst hki
        exact g.at_putV_other lat k d (ws k) k pos (by simp at hk; exact .inr hk)
      · exact g.at_putV_other lat i d (ws i) k pos (.inl hki)

theorem Group.nodup_actives (g : Group) : g.actives.Nodup := List.Pairwise.filter _ (nodup_bitsSet _ _)

theorem laneResult_of {i : Instr} {legal : State → Bool} {d : Nat} {words : State → Nat → List Word} {lat : State → Nat}
    {ok : State → Bool} (hok : ∀ s, legal s.merged = true → ok s = true)
    (he : ∀ s, s.issues i = true → exec i s = issue i (ok s) s fun t => .done (t.setG (t.g.eachPut (lat t) d t.g.actives (words t)))) :
    LaneResult i legal d words := by
  intro s m hm hi hl
  obtain ⟨h1, h2, h3, h4, h5, h6, h7⟩ := m.g.eachPut_spec (lat m) d m.g.actives (words m) m.g.nodup_actives
  subst hm
  obtain ⟨h, e, es, ep⟩ := issue_done_next (i := i) (legal := ok s)
    (body := fun t => t.g.eachPut (lat t) d t.g.actives (words t)) hi (hok s hl) h2
  refine ⟨h, (he s hi).trans e, ep, es.1.trans h1, ?_, ?_, ?_, ?_, ?_⟩
  · intro l hl hlen j w hj hu
    rw [Group.same_vreg es]; exact h3 l hl hlen j w hj hu
  · intro l pos hv
    rw [Group.same_at es]
    apply h4
    simp only [Group.window, Bool.and_eq_false_iff, decide_eq_false_iff_not, List.contains_eq_mem] at hv
    rcases hv with (hv | hv) | hv
    · exact .inl hv
    · exact .inr (.inl (by omega))
    · exact .inr (.inr (by omega))
  · intro l x _; rw [Group.same_preg es, h5]
  · intro x _; rw [Group.same_sval es, h6]
  · intro x _; rw [Group.same_fval es, h7]

/-- An instruction whose body changes nothing completes without effect. -/
theorem noEffect_of {i : Instr} {legal : State → Bool} {ok : State → Bool} (hok : ∀ s, legal s.merged = true → ok s = true)
    {body : State → Res}
    (he : ∀ s, s.issues i = true → exec i s = issue i (ok s) s body) (hb : ∀ t, legal t = true → body t = .done t) :
    NoEffect i legal := by
  intro s m hm hi hl
  subst hm
  obtain ⟨h, e, es, ep⟩ := issue_done_next (i := i) (legal := ok s) (body := fun t => t.g) hi (hok s hl) ⟨rfl, rfl⟩
  refine ⟨h, ?_, ep, es.1, by intro l _ _ j w hj; simp at hj, ?_, ?_, ?_, ?_⟩
  · rw [he s hi, ← e, issue_next (State.issues_split hi), issue_next (State.issues_split hi), issueRes_passed hi (hok s hl), issueRes_passed hi (hok s hl), hb _ hl]
    rfl
  · intro l pos _; exact Group.same_at es l pos
  · intro l x _; exact Group.same_preg es l x
  · intro x _; exact Group.same_sval es x
  · intro x _; exact Group.same_fval es x

/-! ### Predicates -/

def Group.eachSetP (g : Group) (lat : Nat) (d : BitVec 3) (ls : List Nat) (b : Nat → Bool) : Group :=
  g.eachLane ls fun l h => h.setP lat l d.toNat (b l)

theorem Group.sameSplits_setP (g : Group) (lat l x : Nat) (b : Bool) : g.sameSplits (g.setP lat l x b) := by
  simp only [Group.setP]; split <;> exact ⟨rfl, rfl⟩

theorem Group.eachSetP_spec (g : Group) (lat : Nat) (d : BitVec 3) (ls : List Nat) (b : Nat → Bool) (hn : ls.Nodup) :
    (g.eachSetP lat d ls b).rest = g.rest ∧ g.sameSplits (g.eachSetP lat d ls b) ∧
    (∀ l ∈ ls, l < g.lanes.length → (g.eachSetP lat d ls b).preg l d.toNat = (d == 0 || b l)) ∧
    (∀ k x, x < 8 → (k ∈ ls → x ≠ d.toNat) → (g.eachSetP lat d ls b).preg k x = g.preg k x) ∧
    (∀ k pos, ((g.eachSetP lat d ls b).lane k).at pos = (g.lane k).at pos) ∧
    (∀ x, (g.eachSetP lat d ls b).sval x = g.sval x) ∧ (∀ x, (g.eachSetP lat d ls b).fval x = g.fval x) := by
  induction ls generalizing g with
  | nil => exact ⟨rfl, ⟨rfl, rfl⟩, by simp, fun _ _ _ _ => rfl, fun _ _ => rfl, fun _ => rfl, fun _ => rfl⟩
  | cons i t ih =>
    obtain ⟨hi, ht⟩ := List.nodup_cons.mp hn
    have e : g.eachSetP lat d (i :: t) b = (g.setP lat i d.toNat (b i)).eachSetP lat d t b := rfl
    obtain ⟨h1, h2, h3, h4, h5, h6, h7⟩ := ih (g.setP lat i d.toNat (b i)) ht
    have hs := g.sameSplits_setP lat i d.toNat (b i)
    have hr := g.rest_setP lat i d.toNat (b i)
    have hd : (d.toNat == 0) = (d == 0) := by
      rw [Bool.eq_iff_iff]; simp [BitVec.toNat_eq]
    rw [e]
    refine ⟨h1.trans hr, ⟨h2.1.trans hs.1, h2.2.trans hs.2⟩, ?_, ?_, fun k pos => (h5 k pos).trans (by simp),
      fun x => (h6 x).trans (by simp), fun x => (h7 x).trans (by simp)⟩
    · intro l hl hlen
      by_cases hd0 : d.toNat = 0
      · simp only [Group.preg, hd0]; rw [← hd, hd0]; rfl
      rcases List.mem_cons.mp hl with rfl | hl
      · by_cases hlt : d.toNat < 8
        · have : ((g.setP lat l d.toNat (b l)).eachSetP lat d t b).preg l d.toNat = (g.setP lat l d.toNat (b l)).preg l d.toNat := by
            clear ih h1 h2 h3 h4 h5 h6 h7
            revert hi
            generalize g.setP lat l d.toNat (b l) = a
            clear e hs hr hn ht hl
            induction t generalizing a with
            | nil => intro _; rfl
            | cons m t ih =>
              intro hi
              have e : a.eachSetP lat d (m :: t) b = (a.setP lat m d.toNat (b m)).eachSetP lat d t b := rfl
              rw [e, ih _ (by simp at hi; exact hi.2),
                Group.preg_setP_other _ _ _ _ _ _ _ (.inl (by simp at hi; exact hi.1)) hlt]
          rw [this, Group.preg_setP_self _ _ _ _ _ hlen, hd]
        · exact absurd d.isLt hlt
      · exact h3 l hl (by simpa using hlen)
    · intro k x hx hk
      rw [h4 k x hx fun h => hk (List.mem_cons_of_mem _ h)]
      by_cases hki : k = i
      · subst hki
        exact g.preg_setP_other lat k d (b k) k x (.inr (.inl (hk List.mem_cons_self))) hx
      · exact g.preg_setP_other lat i d (b i) k x (.inl hki) hx

theorem predResult_of {i : Instr} {legal : State → Bool} {on : State → List Nat} {d : BitVec 3} {bit : State → Nat → Bool}
    {lat : State → Nat} {ok : State → Bool} (hn : ∀ s, (on s).Nodup) (hok : ∀ s, legal s.merged = true → ok s = true)
    (he : ∀ s, s.issues i = true → exec i s = issue i (ok s) s fun t => .done (t.setG (t.g.eachSetP (lat t) d (on t) (bit t)))) :
    PredResult i legal on d bit := by
  intro s m hm hi hl
  obtain ⟨h1, h2, h3, h4, h5, h6, h7⟩ := m.g.eachSetP_spec (lat m) d (on m) (bit m) (hn _)
  subst hm
  obtain ⟨h, e, es, ep⟩ := issue_done_next (i := i) (legal := ok s) (body := fun t => t.g.eachSetP (lat t) d (on t) (bit t)) hi (hok s hl) h2
  refine ⟨h, (he s hi).trans e, ep, es.1.trans h1, ?_, ?_, ?_, ?_, ?_, ?_⟩
  · intro l hl hlen; rw [Group.same_preg es]; exact h3 l hl hlen
  · intro l x hx hl; rw [Group.same_preg es]; exact h4 l x hx hl
  · intro l pos _; rw [Group.same_at es, h5]
  · intro l x h; simp at h
  · intro x _; rw [Group.same_sval es, h6]
  · intro x _; rw [Group.same_fval es, h7]

/-! ### Scalars -/

theorem Group.sameSplits_setS (g : Group) (lat x : Nat) (w : Word) : g.sameSplits (g.setS lat x w) := by
  simp only [Group.setS]; split <;> exact ⟨rfl, rfl⟩

theorem scalarResult_of {i : Instr} {legal : State → Bool} {d : BitVec 6} {word : State → Word} {lat : State → Nat} {ok : State → Bool}
    (hok : ∀ s, legal s.merged = true → ok s = true)
    (he : ∀ s, s.issues i = true → exec i s = issue i (ok s) s fun t => .done (t.setG (t.g.setS (lat t) d.toNat (word t)))) :
    ScalarResult i legal d word := by
  intro s m hm hi hl
  subst hm
  obtain ⟨h, e, es, ep⟩ := issue_done_next (i := i) (legal := ok s) (body := fun t => t.g.setS (lat t) d.toNat (word t)) hi (hok s hl)
    (Group.sameSplits_setS _ _ _ _)
  refine ⟨h, (he s hi).trans e, ep, es.1.trans (by simp), ?_, ?_, ?_, ?_, ?_⟩
  · rw [Group.same_sval es, Group.sval_setS]
    by_cases hd : d = 0
    · subst hd; simp [Group.sval]
    · have : d.toNat ≠ 0 := fun h => hd (BitVec.eq_of_toNat_eq (by simpa using h))
      rw [if_neg (by simp [this]), if_neg hd]
  · intro l pos _; rw [Group.same_at es]; simp [Group.lane]
  · intro l x _; rw [Group.same_preg es]; simp [Group.preg, Group.lane]
  · intro x hx
    rw [Group.same_sval es, Group.sval_setS, if_pos (.inr (by simpa using hx))]
  · intro x _; rw [Group.same_fval es]; simp

theorem fResult_of {i : Instr} {legal : State → Bool} {d : BitVec 3} {word : State → Word} {lat : State → Nat} {ok : State → Bool}
    (hok : ∀ s, legal s.merged = true → ok s = true)
    (he : ∀ s, s.issues i = true → exec i s = issue i (ok s) s fun t => .done (t.setG (t.g.setF (lat t) d.toNat (word t)))) :
    FResult i legal d word := by
  intro s m hm hi hl
  subst hm
  obtain ⟨h, e, es, ep⟩ := issue_done_next (i := i) (legal := ok s) (body := fun t => t.g.setF (lat t) d.toNat (word t)) hi (hok s hl)
    ⟨rfl, rfl⟩
  refine ⟨h, (he s hi).trans e, ep, es.1.trans (by simp), ?_, ?_, ?_, ?_, ?_⟩
  · rw [Group.same_fval es, Group.fval_setF, if_pos rfl]
  · intro l pos _; rw [Group.same_at es]; rfl
  · intro l x _; rw [Group.same_preg es]; rfl
  · intro x _; rw [Group.same_sval es]; rfl
  · intro x hx
    rw [Group.same_fval es, Group.fval_setF, if_neg (by simpa using hx)]

/-! ### Scoreboarded results -/

theorem Group.map_repeat_zero (g : Group) (l : Nat) : BitVec.ofNat 32 (g.drawn l 0) = if g.rm = 5 then (g.lane l).lfsr else 0 := by
  simp only [Group.drawn]; split <;> simp [Nat.repeat]

theorem Group.drew_zero (g : Group) : g.drew 0 = g := by
  have : (g.lanes.mapIdx fun l x => if g.rm = 5 ∧ l ∈ g.actives then { x with lfsr := BitVec.ofNat 32 (g.drawn l 0) } else x) = g.lanes := by
    apply List.ext_getElem (by simp)
    intro l h1 h2
    simp only [List.getElem_mapIdx]
    split
    · next h =>
      rw [g.map_repeat_zero, if_pos h.1]
      have : g.lane l = g.lanes[l] := by
        simp only [Group.lane, List.getD_eq_getElem?_getD, List.getElem?_eq_getElem h2, Option.getD_some]
      rw [this]
    · rfl
  simp only [Group.drew, this]

theorem postedResult_of {i : Instr} {legal : State → Bool} {writes : State → List (Target × Option Word)} {ok : State → Bool}
    (hok : ∀ s, legal s.merged = true → ok s = true)
    (he : ∀ s, s.issues i = true → exec i s = issue i (ok s) s fun t => .done (t.setG (t.g.post (writes t)))) :
    PostedResult i legal 0 writes := by
  intro s m hm hi hl
  subst hm
  obtain ⟨h, e, es, ep⟩ := issue_done_next (i := i) (legal := ok s) (body := fun t => t.g.post (writes t)) hi (hok s hl) ⟨rfl, rfl⟩
  have hr := es.1
  refine ⟨h, (he s hi).trans e, ep, ?_, ?_, ?_, ?_, ?_, ?_, ?_⟩
  · exact (congrArg Group.sb hr :)
  · exact (congrArg Group.nextSb hr :)
  · rw [hr, Group.drew_zero]; rfl
  · intro l pos _; rw [Group.same_at es]; rfl
  · intro l x _; rw [Group.same_preg es]; rfl
  · intro x _; rw [Group.same_sval es]; rfl
  · intro x _; rw [Group.same_fval es]; rfl

end Sys2Proof.Machine
end

