-- ==== Sys2Proof/Laws/Draws.lean ====
section
/-! SUPPORT. Rewrites of many lanes as one map over the lanes, and results whose lanes draw under SR (R84, R85). -/

namespace Sys2Proof.Machine

/-! ### Local rewrites -/

theorem modNth_modNth {α : Type} (l : List α) (n : Nat) (f f' : α → α) : modNth (modNth l n f) n f' = modNth l n fun a => f' (f a) := by
  induction l generalizing n with
  | nil => rfl
  | cons h t ih => cases n <;> simp [modNth, ih]

theorem Group.modLane_modLane (g : Group) (l : Nat) (f f' : Lane → Lane) :
    (g.modLane l f).modLane l f' = g.modLane l fun x => f' (f x) := by
  simp only [Group.modLane, modNth_modNth]

theorem modNth_congr {α : Type} (l : List α) (n : Nat) (f f' : α → α) (h : ∀ a, l[n]? = some a → f a = f' a) :
    modNth l n f = modNth l n f' := by
  induction l generalizing n with
  | nil => rfl
  | cons a t ih =>
    cases n with
    | zero => simp only [modNth]; rw [h a (by simp)]
    | succ n => simp only [modNth]; rw [ih n fun b hb => h b (by simpa using hb)]

/-- A rewrite of a lane matters on that lane's contents alone. -/
theorem Group.modLane_congr (g : Group) (l : Nat) (f f' : Lane → Lane) (h : f (g.lane l) = f' (g.lane l)) :
    g.modLane l f = g.modLane l f' := by
  simp only [Group.modLane]
  rw [modNth_congr]
  intro a ha
  have : g.lane l = a := by simp [Group.lane, List.getD_eq_getElem?_getD, ha]
  rw [← this, h]

/-- Lanes of a list rewritten, each by itself. -/
def Group.mapLanes (g : Group) (ls : List Nat) (φ : Nat → Lane → Lane) : Group :=
  { g with lanes := g.lanes.mapIdx fun l x => if l ∈ ls then φ l x else x }

theorem Group.lane_mapLanes (g : Group) (ls : List Nat) (φ : Nat → Lane → Lane) (l : Nat) :
    (g.mapLanes ls φ).lane l = if l ∈ ls ∧ l < g.lanes.length then φ l (g.lane l) else g.lane l := by
  simp only [Group.lane, Group.mapLanes, List.getD_eq_getElem?_getD, List.getElem?_mapIdx]
  by_cases hl : l < g.lanes.length
  · by_cases hm : l ∈ ls <;> simp [hl, hm]
  · simp [hl]

/-- A fold of local rewrites over distinct lanes is one map. -/
theorem Group.eachLane_local (g : Group) (ls : List Nat) (φ : Nat → Lane → Lane) (hn : ls.Nodup) :
    (g.eachLane ls fun l h => h.modLane l (φ l)) = g.mapLanes ls φ := by
  induction ls generalizing g with
  | nil =>
    have : (g.lanes.mapIdx fun l x => if l ∈ ([] : List Nat) then φ l x else x) = g.lanes := by
      apply List.ext_getElem?; intro l; rw [List.getElem?_mapIdx]; cases g.lanes[l]? <;> simp
    simp only [Group.eachLane, Group.mapLanes, this, List.foldl_nil]
  | cons i t ih =>
    obtain ⟨hi, ht⟩ := List.nodup_cons.mp hn
    have e : (g.eachLane (i :: t) fun l h => h.modLane l (φ l)) = (g.modLane i (φ i)).eachLane t fun l h => h.modLane l (φ l) := rfl
    rw [e, ih _ ht]
    simp only [Group.mapLanes, Group.modLane]
    congr 1
    apply List.ext_getElem?
    intro l
    simp only [List.getElem?_mapIdx, getElem?_modNth]
    by_cases hl : l = i
    · subst hl; cases h : g.lanes[l]? <;> simp [hi]
    · cases h : g.lanes[l]? <;> simp [hl]

/-- A fold is one map when each step is a local rewrite on the groups it meets: those that are g but for other lanes. -/
theorem Group.eachLane_congr (g : Group) (ls : List Nat) (F : Nat → Group → Group) (φ : Nat → Lane → Lane) (hn : ls.Nodup)
    (h : ∀ l ∈ ls, ∀ a : Group, a = { g with lanes := a.lanes } → a.lane l = g.lane l → F l a = a.modLane l (φ l)) :
    g.eachLane ls F = g.mapLanes ls φ := by
  rw [← g.eachLane_local ls φ hn]
  suffices key : ∀ (ts : List Nat) (a : Group), ts.Nodup → (∀ l ∈ ts, l ∈ ls) → a = { g with lanes := a.lanes } →
      (∀ l ∈ ts, a.lane l = g.lane l) → a.eachLane ts F = a.eachLane ts fun l h => h.modLane l (φ l) from
    key ls g hn (fun _ h => h) rfl fun _ _ => rfl
  intro ts
  induction ts with
  | nil => intros; rfl
  | cons i t ih =>
    intro a hn hs ha hl
    obtain ⟨hi, ht⟩ := List.nodup_cons.mp hn
    have e1 : a.eachLane (i :: t) F = (F i a).eachLane t F := rfl
    have e2 : (a.eachLane (i :: t) fun l h => h.modLane l (φ l)) = (a.modLane i (φ i)).eachLane t fun l h => h.modLane l (φ l) := rfl
    rw [e1, e2, h i (hs i List.mem_cons_self) a ha (hl i List.mem_cons_self)]
    refine ih _ ht (fun l hl => hs l (List.mem_cons_of_mem _ hl)) ?_ fun l hm => ?_
    · exact congrArg (fun (x : Group) => { x with lanes := modNth a.lanes i (φ i) }) ha
    · rw [a.lane_modLane_other _ (by rintro rfl; exact hi hm)]
      exact hl l (List.mem_cons_of_mem _ hm)

/-! ### Words written in one lane -/

def Lane.putV (free : Nat → Word) (lat d : Nat) : List Word → Lane → Lane
  | [], l => l
  | w :: t, l => Lane.putV free lat (d + 1) t (l.wrote free lat d w)

theorem Group.putV_modLane (g : Group) (lat l d : Nat) (ws : List Word) : 
    g.putV lat l d ws = g.modLane l (Lane.putV (g.freeWord l) lat d ws) := by
  induction ws generalizing g d with
  | nil =>
    simp only [Group.putV, Lane.putV, Group.modLane]
    have : modNth g.lanes l (fun x => x) = g.lanes := by
      apply List.ext_getElem?; intro j; rw [getElem?_modNth]; split <;> simp
    rw [this]
  | cons w t ih => simp only [Group.putV, Lane.putV, Group.setV_wrote, ih, Group.modLane_modLane]; rfl

theorem Lane.putV_rest (free : Nat → Word) (lat d : Nat) (ws : List Word) (l : Lane) :
    (l.putV free lat d ws).rest = l.rest ∧ (l.putV free lat d ws).p = l.p ∧ (l.putV free lat d ws).fill = l.fill ∧
      (l.putV free lat d ws).wb = l.wb := by
  induction ws generalizing l d with
  | nil => exact ⟨rfl, rfl, rfl, rfl⟩
  | cons w t ih =>
    obtain ⟨h1, h2, h3, h4⟩ := ih (d + 1) (l.wrote free lat d w)
    exact ⟨h1.trans (l.rest_wrote free lat d w), h2, h3, h4⟩

theorem Lane.at_putV_other (free : Nat → Word) (lat d : Nat) (ws : List Word) (l : Lane) (pos : Nat) (h : pos < l.wb + d ∨ l.wb + d + ws.length ≤ pos) :
    (l.putV free lat d ws).at pos = l.at pos := by
  induction ws generalizing l d with
  | nil => rfl
  | cons w t ih =>
    simp only [List.length_cons] at h
    have hwb : (l.wrote free lat d w).wb = l.wb := rfl
    rw [Lane.putV, ih (d + 1) _ (by rw [hwb]; omega), Lane.at_wrote, if_neg (by omega)]

theorem Lane.at_putV_self (free : Nat → Word) (lat d : Nat) (ws : List Word) (l : Lane) (j : Nat) (w : Word) (h : ws[j]? = some w)
    (hu : l.held (l.wb + (d + j)) = false) : (l.putV free lat d ws).at (l.wb + (d + j)) = w := by
  induction ws generalizing l d j with
  | nil => simp at h
  | cons a t ih =>
    cases j with
    | zero =>
      simp only [List.getElem?_cons_zero, Option.some.injEq] at h
      have hwb : (l.wrote free lat d a).wb = l.wb := rfl
      rw [Lane.putV, Lane.at_putV_other _ _ _ _ _ _ (by rw [hwb]; omega), Lane.at_wrote, if_pos (by omega), hu, h]; rfl
    | succ j =>
      have := ih (d + 1) (l.wrote free lat d a) j (by simpa using h) (by
        rw [Lane.held_rest (l.rest_wrote free lat d a), show (l.wrote free lat d a).wb = l.wb from rfl, show d + 1 + j = d + (j + 1) by omega]; exact hu)
      have hwb : (l.wrote free lat d a).wb = l.wb := rfl
      rw [hwb, show d + 1 + j = d + (j + 1) by omega] at this
      exact this

/-! ### Draws -/

/-- A lane that has its LFSR state after k draws of g, when g rounds under SR. -/
def Group.drawLane (g : Group) (k l : Nat) (x : Lane) : Lane := if g.rm = 5 then { x with lfsr := BitVec.ofNat 32 (g.drawn l k) } else x

theorem Group.drew_mapLanes (g : Group) (k : Nat) : g.drew k = g.mapLanes g.actives (g.drawLane k) := by
  simp only [Group.drew, Group.mapLanes]
  congr 1
  congr 1
  funext l x
  by_cases h1 : g.rm = 5 <;> by_cases h2 : l ∈ g.actives <;> simp [Group.drawLane, h1, h2]

theorem Group.drawLane_view (g : Group) (k l : Nat) (x : Lane) :
    (g.drawLane k l x).v = x.v ∧ (g.drawLane k l x).fill = x.fill ∧ (g.drawLane k l x).wb = x.wb ∧ (g.drawLane k l x).p = x.p ∧
    (g.drawLane k l x).spans = x.spans := by
  simp only [Group.drawLane]; split <;> exact ⟨rfl, rfl, rfl, rfl, rfl⟩

/-- An instruction whose body draws k times and writes words in each active lane has the drawn result. -/
theorem drawnResult_of {i : Instr} {legal : State → Bool} {k d : Nat} {words : State → Nat → List Word} {lat : State → Nat}
    {ok : State → Bool} {body : State → Group} (hok : ∀ s, legal s.merged = true → ok s = true)
    (he : ∀ s, s.issues i = true → exec i s = issue i (ok s) s fun t => .done (t.setG (body t)))
    (hb : ∀ t : State, legal t = true →
      body t = t.g.mapLanes t.g.actives fun l x => (t.g.drawLane k l x).putV (t.g.freeWord l) (lat t) d (words t l)) :
    DrawnResult i legal k d words := by
  intro s m hm hi hl
  subst hm
  have e0 := hb s.merged hl
  obtain ⟨h, e, es, ep⟩ := issue_done_next (i := i) (legal := ok s) (body := body) hi (hok s hl) (by rw [e0]; exact ⟨rfl, rfl⟩)
  generalize s.merged = m at *
  rw [e0] at es
  have hlane := m.g.lane_mapLanes m.g.actives fun l x => (m.g.drawLane k l x).putV (m.g.freeWord l) (lat m) d (words m l)
  refine ⟨h, (he s hi).trans e, ep, ?_, ?_, ?_, ?_, ?_, ?_⟩
  · rw [es.1, Group.drew_mapLanes]
    simp only [Group.rest, Group.mapLanes]
    congr 1
    apply List.ext_getElem?
    intro l
    simp only [List.getElem?_map, List.getElem?_mapIdx]
    cases m.g.lanes[l]? with
    | none => rfl
    | some x =>
      simp only [Option.map_some]
      split
      · rw [(Lane.putV_rest _ _ _ _ _).1]
      · rfl
  · intro l hla hlen j w hj hu
    rw [Group.same_vreg es]
    simp only [Group.vreg]
    rw [hlane l, if_pos ⟨hla, hlen⟩]
    have := Lane.at_putV_self (m.g.freeWord l) (lat m) d (words m l) (m.g.drawLane k l (m.g.lane l)) j w hj
      (by rw [Lane.held_congr (m := m.g.lane l) (by rw [(m.g.drawLane_view k l _).2.2.2.2]), (m.g.drawLane_view k l _).2.2.1]; exact hu)
    rw [(Lane.putV_rest _ _ _ _ _).2.2.2]
    exact this
  · intro l pos hv
    rw [Group.same_at es, hlane l]
    split
    · next hc =>
      have hview := m.g.drawLane_view k l (m.g.lane l)
      rw [Lane.at_putV_other]
      · exact Lane.at_congr hview.1 hview.2.1 pos
      · rw [hview.2.2.1]
        simp only [Group.window, Bool.and_eq_false_iff, decide_eq_false_iff_not, List.contains_eq_mem] at hv
        rcases hv with (hv | hv) | hv
        · exact absurd hc.1 hv
        · exact .inl (by omega)
        · exact .inr (by omega)
    · rfl
  · intro l x _
    rw [Group.same_preg es]
    simp only [Group.preg]
    rw [hlane l]
    split
    · rw [(Lane.putV_rest _ _ _ _ _).2.1, (m.g.drawLane_view k l _).2.2.2.1]
    · rfl
  · intro x _; rw [Group.same_sval es]; rfl
  · intro x _; rw [Group.same_fval es]; rfl

/-! ### Rounding -/

theorem RM.sr_iff {c : Nat} {rm : RM} (h : RM.ofCode c = some rm) : (rm = .sr) ↔ c = 5 := by
  match c with
  | 0 | 1 | 2 | 3 | 4 | 5 => simp only [RM.ofCode, Option.some.injEq] at h; subst h; simp
  | n + 6 => simp [RM.ofCode] at h

theorem RM.ofCode_some {c : Nat} (h : c < 6) : ∃ rm, RM.ofCode c = some rm := by
  match c with
  | 0 | 1 | 2 | 3 | 4 | 5 => exact ⟨_, rfl⟩

/-- A draw in a lane, as a local rewrite. -/
theorem Group.drawLfsr_eq (g : Group) (rm : RM) (l : Nat) (h : RM.ofCode g.rm = some rm) (a : Group) (ha : a.lane l = g.lane l) :
    a.drawLfsr rm l = (g.drawn l 0, a.modLane l (g.drawLane 1 l)) := by
  have hs := RM.sr_iff h
  by_cases h5 : g.rm = 5
  · have : rm = .sr := hs.mpr h5
    simp only [Group.drawLfsr, this, if_true, ha]
    congr 1
    · simp [Group.drawn, h5, Nat.repeat]
    · apply Group.modLane_congr
      simp [Group.drawLane, h5, Group.drawn, Nat.repeat, ha]
      exact BitVec.eq_of_toNat_eq (by simp)
  · have : rm ≠ .sr := fun e => h5 (hs.mp e)
    simp only [Group.drawLfsr, this, if_false]
    congr 1
    · simp [Group.drawn, h5]
    · have : a.modLane l (g.drawLane 1 l) = a.modLane l fun x => x := by
        apply Group.modLane_congr; simp [Group.drawLane, h5]
      rw [this]
      simp only [Group.modLane]
      have : modNth a.lanes l (fun x => x) = a.lanes := by
        apply List.ext_getElem?; intro j; rw [getElem?_modNth]; split <;> simp
      rw [this]

/-- One rounding in a lane, as a local rewrite. -/
theorem Group.roundF_eq (g : Group) (f : FFmt) (rm : RM) (l : Nat) (x : XR) (h : RM.ofCode g.rm = some rm) (a : Group)
    (hm : a.mode = g.mode) (ha : a.lane l = g.lane l) :
    a.roundF f rm l x = (f.flush g.ftz (f.round rm g.satM (g.drawn l 0) x).code, a.modLane l (g.drawLane 1 l)) := by
  have hftz : a.ftz = g.ftz := by simp only [Group.ftz, hm]
  have hsat : a.satM = g.satM := by simp only [Group.satM, hm]
  have e : (a.modLane l (g.drawLane 1 l)).ftz = g.ftz := hftz
  have e' : (a.modLane l (g.drawLane 1 l)).satM = g.satM := hsat
  simp only [Group.roundF, Group.drawLfsr_eq g rm l h a ha, e, e']

/-- floatMode allows the check of R266 that the instruction makes on the state before merging. -/
theorem floatMode_ok {rm : Bool} {xs : List (BitVec 6)} {s : State} (h : floatMode rm xs s.merged = true) :
    (fmtOf s.g.et).isSome = true ∧ (rm = true → rmLegal s = true) ∧ pairsEven s xs = true := by
  simp only [floatMode, Bool.and_eq_true, Bool.or_eq_true, decide_eq_true_eq, Bool.not_eq_true', State.merged_et] at h
  obtain ⟨⟨h1, h2⟩, h3⟩ := h
  refine ⟨h1, fun hr => ?_, by simpa [pairsEven] using h3⟩
  have h2 : s.merged.g.rm < 6 := h2.resolve_left (by simp [hr])
  obtain ⟨r, hr⟩ := RM.ofCode_some h2
  have : RM.ofCode s.g.rm = some r := by simpa only [Group.rm, Group.modeField, State.merged_mode] using hr
  simp [rmLegal, this]

theorem floatMode_fmt {rm : Bool} {xs : List (BitVec 6)} {s : State} (h : floatMode rm xs s = true) :
    (∃ f, fmtOf s.g.et = some f) ∧ (rm = true → ∃ r, RM.ofCode s.g.rm = some r) := by
  simp only [floatMode, Bool.and_eq_true, Bool.or_eq_true, decide_eq_true_eq, Bool.not_eq_true'] at h
  exact ⟨Option.isSome_iff_exists.mp h.1.1, fun hr => RM.ofCode_some (h.1.2.resolve_left (by simp [hr]))⟩

/-- The shared operation of the instructions that round one exact value (R268). -/
theorem floatRound_result {i : Instr} {d : BitVec 6} {xs : List (BitVec 6)} {val : Group → FFmt → RM → Nat → XR} {V : State → Nat → FFmt → RM → XR}
    (he : ∀ s, exec i s = floatRound i s d xs val) (hV : ∀ s l f rm, val s.g f rm l = V s l f rm) :
    DrawnResult i (floatMode true (d :: xs)) 1 d.toNat fun s l => elemWords s.g.et (s.g.rounds l 0 (V s l)) := by
  refine drawnResult_of (lat := fun s => latFloat s.g.et) (ok := fun s => (fmtOf s.g.et).isSome && rmLegal s && pairsEven s (d :: xs))
    (body := fun t => match fmtOf t.g.et, RM.ofCode t.g.rm with
      | some f, some rm => t.g.eachLane t.g.actives fun l h =>
        let (c, h) := h.roundF f rm l (val t.g f rm l)
        h.setElem (latFloat t.g.et) t.g.et l d.toNat c
      | _, _ => t.g) ?_ ?_ ?_
  · intro s h
    obtain ⟨h1, h2, h3⟩ := floatMode_ok h
    simp [h1, h2, h3]
  · intro s _; rw [he, floatRound, issueG] <;> rfl
  · intro t h
    obtain ⟨⟨f, hf⟩, hr⟩ := floatMode_fmt h
    obtain ⟨rm, hr⟩ := hr rfl
    simp only [hf, hr]
    apply Group.eachLane_congr _ _ _ _ t.g.nodup_actives
    intro l _ a ha hl
    simp only [t.g.roundF_eq f rm l _ hr a (by rw [ha]) hl, Group.setElem_putV, Group.putV_modLane, Group.modLane_modLane]
    simp only [Group.rounds, hf, hr, hV]
    have : (a.modLane l (t.g.drawLane 1 l)).freeWord l = t.g.freeWord l := by rw [ha]; rfl
    rw [this]

end Sys2Proof.Machine
end

