-- ==== Sys2Proof/Laws/Encode.lean ====
section
/-! SUPPORT. The fields of a word are read back as they were laid out: one lemma per form, per narrow field and per field of the operand literal. -/

namespace Sys2Proof

/-! ### Fields of the forms (R214) -/

theorem toNat_mkR (op : BitVec 8) (d a b : BitVec 6) (n : Ann) :
    (mkR op d a b n).toNat = op.toNat * 2 ^ 24 + d.toNat * 2 ^ 18 + a.toNat * 2 ^ 12 + b.toNat * 2 ^ 6 + n.h.toNat * 2 ^ 4 + n.s.toNat := by
  have h1 := op.isLt; have h2 := d.isLt; have h3 := a.isLt; have h4 := b.isLt; have h5 := n.h.isLt; have h6 := n.s.isLt
  simp only [mkR, BitVec.toNat_ofNat]; omega

theorem toNat_mkX (fn : BitVec 7) (y : BitVec 1) (d a b : BitVec 6) (eng : BitVec 3) :
    (mkX fn y d a b eng).toNat =
      7 * 2 ^ 29 + fn.toNat * 2 ^ 22 + y.toNat * 2 ^ 21 + d.toNat * 2 ^ 15 + a.toNat * 2 ^ 9 + b.toNat * 2 ^ 3 + eng.toNat := by
  have h1 := fn.isLt; have h2 := d.isLt; have h3 := a.isLt; have h4 := b.isLt; have h5 := y.isLt; have h6 := eng.isLt
  simp only [mkX, BitVec.toNat_ofNat]; omega

theorem toNat_mkM (op : BitVec 8) (i : BitVec 24) : (mkM op i).toNat = op.toNat * 2 ^ 24 + i.toNat := by
  have h1 := op.isLt; have h2 := i.isLt
  simp only [mkM, BitVec.toNat_ofNat]; omega

theorem toNat_mkJ (op : BitVec 8) (o : BitVec 20) (s : BitVec 4) : (mkJ op o s).toNat = op.toNat * 2 ^ 24 + o.toNat * 2 ^ 4 + s.toNat := by
  have h1 := op.isLt; have h2 := o.isLt; have h3 := s.isLt
  simp only [mkJ, BitVec.toNat_ofNat]; omega

theorem toNat_mkOL (len : BitVec 6) (pos : BitVec 5) (fn : BitVec 4) (pn : BitVec 1) (p : BitVec 3) (b : BitVec 6) :
    (mkOL len pos fn pn p b).toNat =
      len.toNat * 2 ^ 22 + pos.toNat * 2 ^ 16 + fn.toNat * 2 ^ 12 + pn.toNat * 2 ^ 11 + p.toNat * 2 ^ 8 + b.toNat := by
  have h1 := len.isLt; have h2 := pos.isLt; have h3 := fn.isLt; have h4 := pn.isLt; have h5 := p.isLt; have h6 := b.isLt
  simp only [mkOL, BitVec.toNat_ofNat]; omega

/-- A field is read back when the word's bits from `lo` on are the field's. -/
theorem bitsAt_eq {w lo : Nat} {x : Word} {v : BitVec w} (h : x.toNat / 2 ^ lo % 2 ^ w = v.toNat) : bitsAt w lo x = v := by
  apply BitVec.eq_of_toNat_eq
  simpa [bitsAt] using h

/-! ### The decoder at a laid-out word -/

theorem decode_mkR (slot : Bool) (op : BitVec 8) (d a b : BitVec 6) (n : Ann) (l1 l2 : Word)
    (h : op.toNat < 0xE0 ∧ op.toNat ≠ 1 ∧ op.toNat ≠ 2 ∧ op.toNat ≠ 5) :
    decode slot (mkR op d a b n) l1 l2 = decodeOp slot op.toNat d a b n l1 l2 := by
  have h2 := d.isLt; have h3 := a.isLt; have h4 := b.isLt; have h5 := n.h.isLt; have h6 := n.s.isLt
  have e := toNat_mkR op d a b n
  have hop : (mkR op d a b n).toNat / 2 ^ 24 = op.toNat := by omega
  have hx : (mkR op d a b n).toNat / 2 ^ 29 ≠ 7 := by omega
  have f1 : bitsAt 6 18 (mkR op d a b n) = d := bitsAt_eq (by omega)
  have f2 : bitsAt 6 12 (mkR op d a b n) = a := bitsAt_eq (by omega)
  have f3 : bitsAt 6 6 (mkR op d a b n) = b := bitsAt_eq (by omega)
  have f4 : bitsAt 2 4 (mkR op d a b n) = n.h := bitsAt_eq (by omega)
  have f5 : bitsAt 4 0 (mkR op d a b n) = n.s := bitsAt_eq (by omega)
  simp only [decode, hop, hx, h.2.1, h.2.2.1, h.2.2.2, f1, f2, f3, f4, f5, if_false]

theorem decode_mkX (slot : Bool) (fn : BitVec 7) (y : BitVec 1) (d a b : BitVec 6) (eng : BitVec 3) (l1 l2 : Word) :
    decode slot (mkX fn y d a b eng) l1 l2 = decodeX slot eng.toNat fn.toNat y d a b := by
  have h1 := fn.isLt; have h2 := d.isLt; have h3 := a.isLt; have h4 := b.isLt; have h5 := y.isLt; have h6 := eng.isLt
  have e := toNat_mkX fn y d a b eng
  have hx : (mkX fn y d a b eng).toNat / 2 ^ 29 = 7 := by omega
  have g1 : (mkX fn y d a b eng).toNat % 8 = eng.toNat := by omega
  have g2 : (mkX fn y d a b eng).toNat / 2 ^ 22 % 128 = fn.toNat := by omega
  have f1 : bitsAt 1 21 (mkX fn y d a b eng) = y := bitsAt_eq (by omega)
  have f2 : bitsAt 6 15 (mkX fn y d a b eng) = d := bitsAt_eq (by omega)
  have f3 : bitsAt 6 9 (mkX fn y d a b eng) = a := bitsAt_eq (by omega)
  have f4 : bitsAt 6 3 (mkX fn y d a b eng) = b := bitsAt_eq (by omega)
  simp only [decode, hx, g1, g2, f1, f2, f3, f4, if_true]

theorem decode_mkM (slot : Bool) (op : BitVec 8) (i : BitVec 24) (l1 l2 : Word) (h : op.toNat = 1 ∨ op.toNat = 2) :
    decode slot (mkM op i) l1 l2 = if op.toNat = 1 then .ok (.setm i) else .ok (.setmh i) := by
  have h1 := i.isLt
  have e := toNat_mkM op i
  have hop : (mkM op i).toNat / 2 ^ 24 = op.toNat := by omega
  have hx : (mkM op i).toNat / 2 ^ 29 ≠ 7 := by omega
  have f : bitsAt 24 0 (mkM op i) = i := bitsAt_eq (by omega)
  rcases h with h | h <;> simp only [decode, hop, hx, h, f, if_false, if_true, Nat.reduceEqDiff]

theorem decode_mkJ (slot : Bool) (op : BitVec 8) (o : BitVec 20) (s : BitVec 4) (l1 l2 : Word) (h : op.toNat = 5) :
    decode slot (mkJ op o s) l1 l2 = .ok (.braJ o s) := by
  have h1 := o.isLt; have h2 := s.isLt
  have e := toNat_mkJ op o s
  have hop : (mkJ op o s).toNat / 2 ^ 24 = 5 := by omega
  have hx : (mkJ op o s).toNat / 2 ^ 29 ≠ 7 := by omega
  have f1 : bitsAt 20 4 (mkJ op o s) = o := bitsAt_eq (by omega)
  have f2 : bitsAt 4 0 (mkJ op o s) = s := bitsAt_eq (by omega)
  simp only [decode, hop, hx, f1, f2, if_false, if_true, Nat.reduceEqDiff]

theorem wordCount_mkM (op : BitVec 8) (i : BitVec 24) (h : op.toNat = 1 ∨ op.toNat = 2) : wordCount (mkM op i) = 1 := by
  have h1 := i.isLt
  have e := toNat_mkM op i
  have hop : (mkM op i).toNat / 2 ^ 24 = op.toNat := by omega
  have hx : (mkM op i).toNat / 2 ^ 29 ≠ 7 := by omega
  rcases h with h | h <;> simp only [wordCount, hop, hx, h, if_false] <;> rfl

theorem wordCount_mkJ (op : BitVec 8) (o : BitVec 20) (s : BitVec 4) (h : op.toNat = 5) : wordCount (mkJ op o s) = 1 := by
  have h1 := o.isLt; have h2 := s.isLt
  have e := toNat_mkJ op o s
  have hop : (mkJ op o s).toNat / 2 ^ 24 = 5 := by omega
  have hx : (mkJ op o s).toNat / 2 ^ 29 ≠ 7 := by omega
  simp only [wordCount, hop, hx, if_false]; rfl

theorem opcode_mkR (op : BitVec 8) (d a b : BitVec 6) (n : Ann) : (mkR op d a b n).toNat / 2 ^ 24 = op.toNat := by
  have h2 := d.isLt; have h3 := a.isLt; have h4 := b.isLt; have h5 := n.h.isLt; have h6 := n.s.isLt
  have e := toNat_mkR op d a b n
  omega

theorem opcode_mkX (fn : BitVec 7) (y : BitVec 1) (d a b : BitVec 6) (eng : BitVec 3) : 0xE0 ≤ (mkX fn y d a b eng).toNat / 2 ^ 24 := by
  have e := toNat_mkX fn y d a b eng
  omega

theorem wordCount_mkR (op : BitVec 8) (d a b : BitVec 6) (n : Ann) (h : op.toNat < 0xE0) :
    wordCount (mkR op d a b n) = 1 + literalWords op.toNat := by
  have e := opcode_mkR op d a b n
  have hx : (mkR op d a b n).toNat / 2 ^ 29 ≠ 7 := by omega
  simp only [wordCount, hx, e, if_false]

theorem wordCount_mkX (fn : BitVec 7) (y : BitVec 1) (d a b : BitVec 6) (eng : BitVec 3) : wordCount (mkX fn y d a b eng) = 1 := by
  have h1 := fn.isLt; have h2 := d.isLt; have h3 := a.isLt; have h4 := b.isLt; have h5 := y.isLt; have h6 := eng.isLt
  have e := toNat_mkX fn y d a b eng
  have hx : (mkX fn y d a b eng).toNat / 2 ^ 29 = 7 := by omega
  simp only [wordCount, hx, if_true]

/-! ### The privileged slot (R224, R420) -/

/-- The leading word's opcode is a privileged one. -/
def privWord (w : Word) : Bool := decide (0xC0 ≤ w.toNat / 2 ^ 24) && decide (w.toNat / 2 ^ 24 ≤ 0xCE)

theorem privWord_mkR (op : BitVec 8) (d a b : BitVec 6) (n : Ann) :
    privWord (mkR op d a b n) = (decide (0xC0 ≤ op.toNat) && decide (op.toNat ≤ 0xCE)) := by
  simp only [privWord, opcode_mkR]

theorem privWord_mkX (fn : BitVec 7) (y : BitVec 1) (d a b : BitVec 6) (eng : BitVec 3) : privWord (mkX fn y d a b eng) = false := by
  have h := opcode_mkX fn y d a b eng
  have : ¬ (mkX fn y d a b eng).toNat / 2 ^ 24 ≤ 0xCE := by omega
  simp only [privWord, this, decide_false, Bool.and_false]

/-! ### Narrow fields (R215) -/

theorem up_div {w : Nat} (x : BitVec w) (h : w ≤ 6) : (up w x).toNat / 2 ^ w = 0 := by
  have hx := x.isLt
  have : 2 ^ w ≤ 2 ^ 6 := Nat.pow_le_pow_right (by decide) h
  simp only [up, BitVec.toNat_ofNat]
  rw [Nat.mod_eq_of_lt (by omega), Nat.div_eq_of_lt hx]

theorem low_up {w : Nat} (x : BitVec w) (h : w ≤ 6) : low w (up w x) = x := by
  have hx := x.isLt
  have : 2 ^ w ≤ 2 ^ 6 := Nat.pow_le_pow_right (by decide) h
  apply BitVec.eq_of_toNat_eq
  simp only [low, up, BitVec.toNat_ofNat]
  rw [Nat.mod_eq_of_lt (show x.toNat < 2 ^ 6 by omega), Nat.mod_eq_of_lt hx]

@[simp] theorem up1_div (x : BitVec 1) : (up 1 x).toNat / 2 = 0 := up_div x (by decide)
@[simp] theorem up2_div (x : BitVec 2) : (up 2 x).toNat / 4 = 0 := up_div x (by decide)
@[simp] theorem up3_div (x : BitVec 3) : (up 3 x).toNat / 8 = 0 := up_div x (by decide)
@[simp] theorem up5_div (x : BitVec 5) : (up 5 x).toNat / 32 = 0 := up_div x (by decide)
@[simp] theorem low1_up (x : BitVec 1) : low 1 (up 1 x) = x := low_up x (by decide)
@[simp] theorem low2_up (x : BitVec 2) : low 2 (up 2 x) = x := low_up x (by decide)
@[simp] theorem low3_up (x : BitVec 3) : low 3 (up 3 x) = x := low_up x (by decide)
@[simp] theorem low5_up (x : BitVec 5) : low 5 (up 5 x) = x := low_up x (by decide)
@[simp] theorem upHi_div : ∀ x : BitVec 3, (upHi 1 3 x).toNat / 8 = 1 := by decide
@[simp] theorem low3_upHi : ∀ x : BitVec 3, low 3 (upHi 1 3 x) = x := by decide

/-! ### The operand literal (R218) -/

variable (len : BitVec 6) (pos : BitVec 5) (fn : BitVec 4) (pn : BitVec 1) (p : BitVec 3) (b : BitVec 6)

@[simp] theorem olLen_mkOL : olLen (mkOL len pos fn pn p b) = len := by
  have h1 := len.isLt; have h2 := pos.isLt; have h3 := fn.isLt; have h4 := pn.isLt; have h5 := p.isLt; have h6 := b.isLt
  have e := toNat_mkOL len pos fn pn p b
  exact bitsAt_eq (by omega)
@[simp] theorem olPos_mkOL : olPos (mkOL len pos fn pn p b) = pos := by
  have h1 := len.isLt; have h2 := pos.isLt; have h3 := fn.isLt; have h4 := pn.isLt; have h5 := p.isLt; have h6 := b.isLt
  have e := toNat_mkOL len pos fn pn p b
  exact bitsAt_eq (by omega)
@[simp] theorem olFn_mkOL : olFn (mkOL len pos fn pn p b) = fn := by
  have h1 := len.isLt; have h2 := pos.isLt; have h3 := fn.isLt; have h4 := pn.isLt; have h5 := p.isLt; have h6 := b.isLt
  have e := toNat_mkOL len pos fn pn p b
  exact bitsAt_eq (by omega)
@[simp] theorem olPn_mkOL : olPn (mkOL len pos fn pn p b) = pn := by
  have h1 := len.isLt; have h2 := pos.isLt; have h3 := fn.isLt; have h4 := pn.isLt; have h5 := p.isLt; have h6 := b.isLt
  have e := toNat_mkOL len pos fn pn p b
  exact bitsAt_eq (by omega)
@[simp] theorem olP_mkOL : olP (mkOL len pos fn pn p b) = p := by
  have h1 := len.isLt; have h2 := pos.isLt; have h3 := fn.isLt; have h4 := pn.isLt; have h5 := p.isLt; have h6 := b.isLt
  have e := toNat_mkOL len pos fn pn p b
  exact bitsAt_eq (by omega)
@[simp] theorem olB_mkOL : olB (mkOL len pos fn pn p b) = b := by
  have h1 := len.isLt; have h2 := pos.isLt; have h3 := fn.isLt; have h4 := pn.isLt; have h5 := p.isLt; have h6 := b.isLt
  have e := toNat_mkOL len pos fn pn p b
  exact bitsAt_eq (by omega)

end Sys2Proof
end

