-- ==== Sys2Proof/Laws/Memory.lean ====
section
/-! SUPPORT. Memory: the canonical form is kept by every operation, a read after a write, and what a write leaves alone. -/

namespace Sys2Proof.Machine

theorem Memory.wfFrom_mono {lo hi : Nat} {m : Memory} (h : Memory.wfFrom hi m = true) (hl : lo ≤ hi) :
    Memory.wfFrom lo m = true := by
  cases m with
  | nil => rfl
  | cons c t =>
    simp only [Memory.wfFrom, Bool.and_eq_true, decide_eq_true_eq] at h ⊢
    exact ⟨⟨by omega, h.1.2⟩, h.2⟩

theorem Memory.wfFrom_enter {lo k : Nat} {m : Memory} {b : Byte} (hb : b ≠ Config.unwritten) (h : Memory.wfFrom lo m = true)
    (hk : lo ≤ k) : Memory.wfFrom lo (m.enter k b) = true := by
  induction m generalizing lo with
  | nil => simp [Memory.enter, Memory.wfFrom, hk, hb]
  | cons c t ih =>
    obtain ⟨j, c⟩ := c
    simp only [Memory.wfFrom, Bool.and_eq_true, decide_eq_true_eq] at h
    obtain ⟨⟨hj, hc⟩, ht⟩ := h
    simp only [Memory.enter]
    split
    · next hkj => simp [Memory.wfFrom, hk, hb, hc, ht]; omega
    · split
      · next hjk => subst hjk; simp [Memory.wfFrom, hk, hb, ht]
      · simp [Memory.wfFrom, hj, hc]
        exact ih ht (by omega)

theorem Memory.wfFrom_drop {lo : Nat} {m : Memory} (p : Nat → Bool) (h : Memory.wfFrom lo m = true) :
    Memory.wfFrom lo (m.drop p) = true := by
  induction m generalizing lo with
  | nil => rfl
  | cons c t ih =>
    obtain ⟨j, c⟩ := c
    simp only [Memory.wfFrom, Bool.and_eq_true, decide_eq_true_eq] at h
    obtain ⟨⟨hj, hc⟩, ht⟩ := h
    have := ih ht
    simp only [Memory.drop, List.filter_cons] at this ⊢
    split
    · simp only [Memory.wfFrom, Bool.and_eq_true, decide_eq_true_eq]; exact ⟨⟨hj, hc⟩, this⟩
    · exact Memory.wfFrom_mono this (by omega)

theorem Memory.wf_drop {m : Memory} (p : Nat → Bool) (h : m.wf = true) : (m.drop p).wf = true :=
  Memory.wfFrom_drop p h

theorem Memory.wf_put {m : Memory} (k : Nat) (b : Byte) (h : m.wf = true) : (m.put k b).wf = true := by
  simp only [Memory.put]
  split
  · exact Memory.wf_drop _ h
  · next hb => exact Memory.wfFrom_enter hb h (Nat.zero_le k)

theorem Memory.get_drop {k : Nat} (m : Memory) (p : Nat → Bool) (h : p k = false) : (m.drop p).get k = m.get k := by
  induction m with
  | nil => rfl
  | cons c t ih =>
    obtain ⟨i, c⟩ := c
    simp only [Memory.drop, List.filter_cons] at ih ⊢
    split
    · simp only [Memory.get, ih]
    · next hp =>
      simp only [Memory.get]
      rw [if_neg, ih]
      rintro rfl; simp [h] at hp

theorem Memory.get_drop_self {k : Nat} (m : Memory) : (m.drop fun j => j == k).get k = Config.unwritten := by
  induction m with
  | nil => rfl
  | cons c t ih =>
    obtain ⟨i, c⟩ := c
    simp only [Memory.drop, List.filter_cons] at ih ⊢
    split
    · next hi =>
      simp only [Memory.get]
      rw [if_neg (by simpa using hi)]
      exact ih
    · exact ih

theorem Memory.get_enter_self {k : Nat} (m : Memory) (b : Byte) : (m.enter k b).get k = b := by
  induction m with
  | nil => simp [Memory.enter, Memory.get]
  | cons c t ih =>
    obtain ⟨j, c⟩ := c
    simp only [Memory.enter]
    split
    · simp [Memory.get]
    · split
      · simp [Memory.get]
      · next hjk => simp only [Memory.get]; rw [if_neg hjk]; exact ih

theorem Memory.get_enter_other {k j : Nat} (m : Memory) (b : Byte) (h : j ≠ k) : (m.enter k b).get j = m.get j := by
  induction m with
  | nil => simp [Memory.enter, Memory.get, Ne.symm h]
  | cons c t ih =>
    obtain ⟨i, c⟩ := c
    simp only [Memory.enter]
    split
    · simp [Memory.get, Ne.symm h]
    · split
      · next h1 h2 => subst h2; simp [Memory.get, Ne.symm h]
      · simp [Memory.get, ih]

theorem Memory.get_put_self {k : Nat} (m : Memory) (b : Byte) : (m.put k b).get k = b := by
  simp only [Memory.put]
  split
  · next hb => rw [hb]; exact Memory.get_drop_self m
  · exact Memory.get_enter_self m b

theorem Memory.get_put_other {k j : Nat} (m : Memory) (b : Byte) (h : j ≠ k) : (m.put k b).get j = m.get j := by
  simp only [Memory.put]
  split
  · exact Memory.get_drop m _ (by simpa using h)
  · exact Memory.get_enter_other m b h

/-! ### Undefined ranges -/

/-- The undefined range a key lies in, if any. -/
def undefAt (u : List (Nat × Nat × Nat)) (k : Nat) : Option (Nat × Nat × Nat) :=
  u.find? fun u => decide (u.1 ≤ k) && decide (k < u.2.1)

theorem undefAt_cutKey_self (k : Nat) (u : List (Nat × Nat × Nat)) : undefAt (cutKey k u) k = none := by
  induction u with
  | nil => rfl
  | cons r t ih =>
    obtain ⟨lo, hi, sd⟩ := r
    simp only [cutKey]
    split
    · next h =>
      simp only [undefAt, List.find?_append] at ih ⊢
      rw [ih]
      by_cases h1 : lo < k <;> by_cases h2 : k + 1 < hi <;> simp [h1, h2] <;> omega
    · next h =>
      simp only [undefAt, List.find?_cons] at ih ⊢
      rw [show (decide (lo ≤ k) && decide (k < hi)) = false by simpa using h]
      exact ih

/-- Outside the key cut out, a byte is undefined under the same seed as before. -/
theorem undefAt_cutKey_other {k j : Nat} (u : List (Nat × Nat × Nat)) (h : j ≠ k) :
    (undefAt (cutKey k u) j).map (fun x => x.2.2) = (undefAt u j).map fun x => x.2.2 := by
  induction u with
  | nil => rfl
  | cons r t ih =>
    obtain ⟨lo, hi, sd⟩ := r
    simp only [cutKey]
    split
    · next hk =>
      by_cases hj : lo ≤ j ∧ j < hi
      · simp only [undefAt, List.find?_append, List.find?_cons] at ih ⊢
        rw [show (decide (lo ≤ j) && decide (j < hi)) = true by simpa using hj]
        by_cases hlt : j < k
        · have h1 : lo < k := by omega
          simp [h1, hj.1, hlt]
        · have h2 : k + 1 < hi := by omega
          have h3 : k + 1 ≤ j := by omega
          by_cases h1 : lo < k <;> simp [h1, h2, h3, hj.2, hlt]
      · simp only [undefAt, List.find?_append, List.find?_cons] at ih ⊢
        rw [show (decide (lo ≤ j) && decide (j < hi)) = false by simpa using hj]
        have e1 : ∀ l : List (Nat × Nat × Nat), (∀ x ∈ l, ¬ (x.1 ≤ j ∧ j < x.2.1)) →
            l.find? (fun u => decide (u.1 ≤ j) && decide (j < u.2.1)) = none := by
          intro l hl; simpa [List.find?_eq_none] using hl
        rw [e1 (if lo < k then [(lo, k, sd)] else []), e1 (if k + 1 < hi then [(k + 1, hi, sd)] else [])]
        · simpa using ih
        · intro x hx; split at hx <;> simp at hx; subst hx; simp; omega
        · intro x hx; split at hx <;> simp at hx; subst hx; simp; omega
    · simp only [undefAt, List.find?_cons] at ih ⊢
      split
      · rfl
      · exact ih

/-! ### The state's bytes -/

theorem State.byte_eq (s : State) (k : Nat) :
    s.byte k = match (undefAt s.undef k).map fun x => x.2.2 with
      | some sd => BitVec.ofNat 8 (Config.freeReg sd k).toNat
      | none => s.mem.get k := by
  simp only [State.byte, undefAt]
  cases List.find? (fun u => decide (u.1 ≤ k) && decide (k < u.2.1)) s.undef <;> rfl

theorem State.byte_setByte_self (s : State) (k : Nat) (b : Byte) : (s.setByte k b).byte k = b := by
  simp only [State.byte_eq, State.setByte, undefAt_cutKey_self, Option.map_none]
  exact Memory.get_put_self _ b

theorem State.byte_setByte_other (s : State) {k j : Nat} (b : Byte) (h : j ≠ k) : (s.setByte k b).byte j = s.byte j := by
  simp only [State.byte_eq, State.setByte, undefAt_cutKey_other _ h, Memory.get_put_other _ _ h]

theorem State.wf_setByte {s : State} (k : Nat) (b : Byte) (h : s.mem.wf = true) : (s.setByte k b).mem.wf = true :=
  Memory.wf_put k b h

theorem State.wf_setBytes {s : State} (k : Nat) (bs : List Byte) (h : s.mem.wf = true) :
    (s.setBytes k bs).mem.wf = true := by
  induction bs generalizing s k with
  | nil => exact h
  | cons b t ih => exact ih (k + 1) (State.wf_setByte k b h)

theorem State.wf_setNum {s : State} (k n x : Nat) (h : s.mem.wf = true) : (s.setNum k n x).mem.wf = true :=
  State.wf_setBytes k _ h

theorem State.wf_spoil {s : State} (lo n : Nat) (h : s.mem.wf = true) : (s.spoil lo n).mem.wf = true := by
  simp only [State.spoil]
  exact Memory.wf_drop _ h

theorem State.byte_setBytes_outside (s : State) (k : Nat) (bs : List Byte) (j : Nat) (h : j < k ∨ k + bs.length ≤ j) :
    (s.setBytes k bs).byte j = s.byte j := by
  induction bs generalizing s k with
  | nil => rfl
  | cons b t ih =>
    simp only [List.length_cons] at h
    rw [State.setBytes, ih _ _ (by omega), State.byte_setByte_other _ _ (by omega)]

theorem State.byte_setBytes_inside (s : State) (k : Nat) (bs : List Byte) (i : Nat) (hi : i < bs.length) :
    (s.setBytes k bs).byte (k + i) = bs[i] := by
  induction bs generalizing s k i with
  | nil => simp at hi
  | cons b t ih =>
    rw [State.setBytes]
    cases i with
    | zero =>
      rw [State.byte_setBytes_outside _ _ _ _ (by omega)]
      exact State.byte_setByte_self s k b
    | succ i =>
      have := ih (s.setByte k b) (k + 1) i (by simpa using hi)
      rw [show k + (i + 1) = k + 1 + i by omega, this]; simp

theorem State.byte_spoil_outside (s : State) (lo n j : Nat) (h : j < lo ∨ lo + n ≤ j) : (s.spoil lo n).byte j = s.byte j := by
  have e : undefAt (s.spoil lo n).undef j = undefAt s.undef j := by
    simp only [State.spoil, undefAt, List.find?_cons]
    rw [show (decide (lo ≤ j) && decide (j < lo + n)) = false by simp; omega]
  rw [State.byte_eq, State.byte_eq, e]
  cases (undefAt s.undef j).map fun x => x.2.2 with
  | some _ => rfl
  | none =>
    simp only [State.spoil]
    exact Memory.get_drop _ _ (by simp; omega)

end Sys2Proof.Machine
end

