-- ==== Sys2Proof/Laws/PerInstr.lean ====
section
/-! SUPPORT. The family RoundTrip: what an instruction's words decode to, one lemma per constructor. -/

namespace Sys2Proof.Laws.RoundTrip

open Sys2Proof

/-- A well-formed instruction's words, whatever words follow them, decode in the slot it issues from to the instruction, and the
leading word counts them; a device step has no words (R213 to R226). -/
def Statement (i : Instr) : Prop :=
  (i.isEvent = true → encode i = []) ∧
  (i.isEvent = false → i.wf = true → ∀ x y : Word,
    ∃ w l1 l2 rest, encode i ++ [x, y] = w :: l1 :: l2 :: rest ∧ decode (privSlot i) w l1 l2 = .ok i ∧ wordCount w = (encode i).length)

theorem of_event {i : Instr} (h : i.isEvent = true) (e : encode i = []) : Statement i :=
  ⟨fun _ => e, fun k => absurd h (by simp [k])⟩

/-- An instruction whose leading word is of form R, I or L, with no literal, one or two. -/
theorem of_mkR0 {i : Instr} (op : BitVec 8) (d a b : BitVec 6) (n : Ann) (hi : i.isEvent = false) (e : encode i = [mkR op d a b n])
    (h : op.toNat < 0xE0 ∧ op.toNat ≠ 1 ∧ op.toNat ≠ 2 ∧ op.toNat ≠ 5) (hl : literalWords op.toNat = 0) (slot : Bool)
    (hs : privSlot i = slot) (hd : i.wf = true → ∀ l1 l2 : Word, decodeOp slot op.toNat d a b n l1 l2 = .ok i) : Statement i :=
  ⟨fun k => absurd k (by simp [hi]), fun _ hw x y => ⟨_, x, y, [], by rw [e]; rfl, by rw [hs, decode_mkR _ _ _ _ _ _ _ _ h]; exact hd hw x y,
    by rw [wordCount_mkR _ _ _ _ _ h.1, hl, e]; rfl⟩⟩

theorem of_mkR1 {i : Instr} (op : BitVec 8) (d a b : BitVec 6) (n : Ann) (l : Word) (hi : i.isEvent = false)
    (e : encode i = [mkR op d a b n, l])
    (h : op.toNat < 0xE0 ∧ op.toNat ≠ 1 ∧ op.toNat ≠ 2 ∧ op.toNat ≠ 5) (hl : literalWords op.toNat = 1) (slot : Bool)
    (hs : privSlot i = slot) (hd : i.wf = true → ∀ l2 : Word, decodeOp slot op.toNat d a b n l l2 = .ok i) : Statement i :=
  ⟨fun k => absurd k (by simp [hi]), fun _ hw x y => ⟨_, l, x, [y], by rw [e]; rfl, by rw [hs, decode_mkR _ _ _ _ _ _ _ _ h]; exact hd hw x,
    by rw [wordCount_mkR _ _ _ _ _ h.1, hl, e]; rfl⟩⟩

theorem of_mkR2 {i : Instr} (op : BitVec 8) (d a b : BitVec 6) (n : Ann) (l k : Word) (hi : i.isEvent = false)
    (e : encode i = [mkR op d a b n, l, k])
    (h : op.toNat < 0xE0 ∧ op.toNat ≠ 1 ∧ op.toNat ≠ 2 ∧ op.toNat ≠ 5) (hl : literalWords op.toNat = 2) (slot : Bool)
    (hs : privSlot i = slot) (hd : i.wf = true → decodeOp slot op.toNat d a b n l k = .ok i) : Statement i :=
  ⟨fun k => absurd k (by simp [hi]), fun _ hw x y => ⟨_, l, k, [x, y], by rw [e]; rfl, by rw [hs, decode_mkR _ _ _ _ _ _ _ _ h]; exact hd hw,
    by rw [wordCount_mkR _ _ _ _ _ h.1, hl, e]; rfl⟩⟩

theorem bit_cases : ∀ x : BitVec 1, x = 0 ∨ x = 1 := by decide

/-- An instruction of form X. -/
theorem of_mkX {i : Instr} (fn : BitVec 7) (y : BitVec 1) (d a b : BitVec 6) (eng : BitVec 3) (hi : i.isEvent = false)
    (e : encode i = [mkX fn y d a b eng]) (slot : Bool) (hs : privSlot i = slot)
    (hd : i.wf = true → decodeX slot eng.toNat fn.toNat y d a b = .ok i) : Statement i :=
  ⟨fun k => absurd k (by simp [hi]), fun _ hw u v => ⟨_, u, v, [], by rw [e]; rfl,
    by rw [hs, decode_mkX]; exact hd hw, by rw [wordCount_mkX, e]; rfl⟩⟩

theorem priv_mkR {i : Instr} {op : BitVec 8} {d a b : BitVec 6} {n : Ann} {slot : Bool}
    (e : privSlot i = (privWord (mkR op d a b n) || false)) (h : (decide (0xC0 ≤ op.toNat) && decide (op.toNat ≤ 0xCE)) = slot) :
    privSlot i = slot := by rw [e, privWord_mkR, h, Bool.or_false]

theorem priv_mkX {i : Instr} {fn : BitVec 7} {y : BitVec 1} {d a b : BitVec 6} {eng : BitVec 3} {slot : Bool}
    (e : privSlot i = (privWord (mkX fn y d a b eng) || slot)) : privSlot i = slot := by
  rw [e, privWord_mkX, Bool.false_or]

theorem nop (ann : Ann) : Statement (.nop ann) :=
  of_mkR0 0x00 _ _ _ _ rfl rfl (by decide) rfl false (priv_mkR rfl rfl) (fun _ _ _ => rfl)
theorem yield (ann : Ann) : Statement (.yield ann) :=
  of_mkR0 0x00 _ _ _ _ rfl rfl (by decide) rfl false (priv_mkR rfl rfl) (fun _ _ _ => rfl)
theorem setm (i : BitVec 24) : Statement (.setm i) :=
  ⟨fun k => absurd k (by simp [Instr.isEvent]), fun _ _ x y => ⟨_, x, y, [], rfl, decode_mkM _ 1 _ _ _ (by decide), wordCount_mkM 1 _ (by decide)⟩⟩
theorem setmh (i : BitVec 24) : Statement (.setmh i) :=
  ⟨fun k => absurd k (by simp [Instr.isEvent]), fun _ _ x y => ⟨_, x, y, [], rfl, decode_mkM _ 2 _ _ _ (by decide), wordCount_mkM 2 _ (by decide)⟩⟩
theorem getm (d : BitVec 6) (ann : Ann) : Statement (.getm d ann) :=
  of_mkR0 0x03 _ _ _ _ rfl rfl (by decide) rfl false (priv_mkR rfl rfl) (fun _ _ _ => rfl)
theorem gets (d : BitVec 6) (a : BitVec 6) (ann : Ann) : Statement (.gets d a ann) :=
  of_mkR0 0x04 _ _ _ _ rfl rfl (by decide) rfl false (priv_mkR rfl rfl) (fun _ _ _ => rfl)
theorem braJ (o : BitVec 20) (s : BitVec 4) : Statement (.braJ o s) :=
  ⟨fun k => absurd k (by simp [Instr.isEvent]), fun _ _ x y => ⟨_, x, y, [], rfl, decode_mkJ _ 5 _ _ _ _ rfl, wordCount_mkJ 5 _ _ rfl⟩⟩
theorem braL (pn : BitVec 1) (p : BitVec 3) (off : Word) (ann : Ann) : Statement (.braL pn p off ann) :=
  of_mkR1 0x06 _ _ _ _ _ rfl rfl (by decide) rfl false (priv_mkR rfl rfl) (by intro h l2; simp [decodeOp, decode0, okIf])
theorem brx (a : BitVec 6) (ann : Ann) : Statement (.brx a ann) :=
  of_mkR0 0x07 _ _ _ _ rfl rfl (by decide) rfl false (priv_mkR rfl rfl) (fun _ _ _ => rfl)
theorem call (n : BitVec 6) (off : Word) (ann : Ann) : Statement (.call n off ann) :=
  of_mkR1 0x08 _ _ _ _ _ rfl rfl (by decide) rfl false (priv_mkR rfl rfl) (fun _ _ => rfl)
theorem callx (d : BitVec 6) (a : BitVec 6) (ann : Ann) : Statement (.callx d a ann) :=
  of_mkR0 0x09 _ _ _ _ rfl rfl (by decide) rfl false (priv_mkR rfl rfl) (fun _ _ _ => rfl)
theorem ret (d : BitVec 6) (ann : Ann) : Statement (.ret d ann) :=
  of_mkR0 0x0A _ _ _ _ rfl rfl (by decide) rfl false (priv_mkR rfl rfl) (by intro h l1 l2; simp [decodeOp, decode0, okIf])
theorem exit (ann : Ann) : Statement (.exit ann) :=
  of_mkR0 0x0B _ _ _ _ rfl rfl (by decide) rfl false (priv_mkR rfl rfl) (fun _ _ _ => rfl)
theorem trap (i : BitVec 6) (ann : Ann) : Statement (.trap i ann) :=
  of_mkR0 0x0C _ _ _ _ rfl rfl (by decide) rfl false (priv_mkR rfl rfl) (fun _ _ _ => rfl)
theorem brk (i : BitVec 6) (ann : Ann) : Statement (.brk i ann) :=
  of_mkR0 0x0C _ _ _ _ rfl rfl (by decide) rfl false (priv_mkR rfl rfl) (fun _ _ _ => rfl)
theorem wait (file : BitVec 2) (a : BitVec 6) (ann : Ann) : Statement (.wait file a ann) :=
  of_mkR0 0x0D _ _ _ _ rfl rfl (by decide) rfl false (priv_mkR rfl rfl) (by intro h l1 l2; simp [decodeOp, decode0, okIf])
theorem sleep (a : BitVec 6) (ann : Ann) : Statement (.sleep a ann) :=
  of_mkR0 0x0E _ _ _ _ rfl rfl (by decide) rfl false (priv_mkR rfl rfl) (fun _ _ _ => rfl)
theorem phint (r0 : BitVec 6) (r1 : BitVec 6) (lo : Word) (hi : Word) (ann : Ann) : Statement (.phint r0 r1 lo hi ann) :=
  of_mkR2 0x0F _ _ _ _ _ _ rfl rfl (by decide) rfl false (priv_mkR rfl rfl) (fun _ => rfl)
theorem iadd (d : BitVec 6) (a : BitVec 6) (b : BitVec 6) (ann : Ann) : Statement (.iadd d a b ann) :=
  of_mkR0 0x10 _ _ _ _ rfl rfl (by decide) rfl false (priv_mkR rfl rfl) (fun _ _ _ => rfl)
theorem isub (d : BitVec 6) (a : BitVec 6) (b : BitVec 6) (ann : Ann) : Statement (.isub d a b ann) :=
  of_mkR0 0x11 _ _ _ _ rfl rfl (by decide) rfl false (priv_mkR rfl rfl) (fun _ _ _ => rfl)
theorem iaddc (d : BitVec 6) (a : BitVec 6) (b : BitVec 6) (p : BitVec 3) (pn : BitVec 1) (ann : Ann) : Statement (.iaddc d a b p pn ann) :=
  of_mkR1 0x12 _ _ _ _ _ rfl rfl (by decide) rfl false (priv_mkR rfl rfl) (by intro h l2; simp [decodeOp, decode1, okIf])
theorem imul (d : BitVec 6) (a : BitVec 6) (b : BitVec 6) (ann : Ann) : Statement (.imul d a b ann) :=
  of_mkR0 0x13 _ _ _ _ rfl rfl (by decide) rfl false (priv_mkR rfl rfl) (fun _ _ _ => rfl)
theorem imulh (d : BitVec 6) (a : BitVec 6) (b : BitVec 6) (ann : Ann) : Statement (.imulh d a b ann) :=
  of_mkR0 0x14 _ _ _ _ rfl rfl (by decide) rfl false (priv_mkR rfl rfl) (fun _ _ _ => rfl)
theorem imad (d : BitVec 6) (a : BitVec 6) (b : BitVec 6) (ann : Ann) : Statement (.imad d a b ann) :=
  of_mkR0 0x15 _ _ _ _ rfl rfl (by decide) rfl false (priv_mkR rfl rfl) (fun _ _ _ => rfl)
theorem ineg (d : BitVec 6) (a : BitVec 6) (ann : Ann) : Statement (.ineg d a ann) :=
  of_mkR0 0x16 _ _ _ _ rfl rfl (by decide) rfl false (priv_mkR rfl rfl) (fun _ _ _ => rfl)
theorem iabs (d : BitVec 6) (a : BitVec 6) (ann : Ann) : Statement (.iabs d a ann) :=
  of_mkR0 0x17 _ _ _ _ rfl rfl (by decide) rfl false (priv_mkR rfl rfl) (fun _ _ _ => rfl)
theorem imin (d : BitVec 6) (a : BitVec 6) (b : BitVec 6) (ann : Ann) : Statement (.imin d a b ann) :=
  of_mkR0 0x18 _ _ _ _ rfl rfl (by decide) rfl false (priv_mkR rfl rfl) (fun _ _ _ => rfl)
theorem imax (d : BitVec 6) (a : BitVec 6) (b : BitVec 6) (ann : Ann) : Statement (.imax d a b ann) :=
  of_mkR0 0x19 _ _ _ _ rfl rfl (by decide) rfl false (priv_mkR rfl rfl) (fun _ _ _ => rfl)
theorem and (d : BitVec 6) (a : BitVec 6) (b : BitVec 6) (ann : Ann) : Statement (.and d a b ann) :=
  of_mkR0 0x1A _ _ _ _ rfl rfl (by decide) rfl false (priv_mkR rfl rfl) (fun _ _ _ => rfl)
theorem or (d : BitVec 6) (a : BitVec 6) (b : BitVec 6) (ann : Ann) : Statement (.or d a b ann) :=
  of_mkR0 0x1B _ _ _ _ rfl rfl (by decide) rfl false (priv_mkR rfl rfl) (fun _ _ _ => rfl)
theorem xor (d : BitVec 6) (a : BitVec 6) (b : BitVec 6) (ann : Ann) : Statement (.xor d a b ann) :=
  of_mkR0 0x1C _ _ _ _ rfl rfl (by decide) rfl false (priv_mkR rfl rfl) (fun _ _ _ => rfl)
theorem andn (d : BitVec 6) (a : BitVec 6) (b : BitVec 6) (ann : Ann) : Statement (.andn d a b ann) :=
  of_mkR0 0x1D _ _ _ _ rfl rfl (by decide) rfl false (priv_mkR rfl rfl) (fun _ _ _ => rfl)
theorem not (d : BitVec 6) (a : BitVec 6) (ann : Ann) : Statement (.not d a ann) :=
  of_mkR0 0x1E _ _ _ _ rfl rfl (by decide) rfl false (priv_mkR rfl rfl) (fun _ _ _ => rfl)
theorem shlR (d : BitVec 6) (a : BitVec 6) (b : BitVec 6) (ann : Ann) : Statement (.shlR d a b ann) :=
  of_mkR0 0x1F _ _ _ _ rfl rfl (by decide) rfl false (priv_mkR rfl rfl) (fun _ _ _ => rfl)
theorem shrR (d : BitVec 6) (a : BitVec 6) (b : BitVec 6) (ann : Ann) : Statement (.shrR d a b ann) :=
  of_mkR0 0x20 _ _ _ _ rfl rfl (by decide) rfl false (priv_mkR rfl rfl) (fun _ _ _ => rfl)
theorem shaR (d : BitVec 6) (a : BitVec 6) (b : BitVec 6) (ann : Ann) : Statement (.shaR d a b ann) :=
  of_mkR0 0x21 _ _ _ _ rfl rfl (by decide) rfl false (priv_mkR rfl rfl) (fun _ _ _ => rfl)
theorem rolR (d : BitVec 6) (a : BitVec 6) (b : BitVec 6) (ann : Ann) : Statement (.rolR d a b ann) :=
  of_mkR0 0x22 _ _ _ _ rfl rfl (by decide) rfl false (priv_mkR rfl rfl) (fun _ _ _ => rfl)
theorem shlI (d : BitVec 6) (a : BitVec 6) (i : BitVec 5) (ann : Ann) : Statement (.shlI d a i ann) :=
  of_mkR0 0x23 _ _ _ _ rfl rfl (by decide) rfl false (priv_mkR rfl rfl) (by intro h l1 l2; simp [decodeOp, decode2, okIf])
theorem shrI (d : BitVec 6) (a : BitVec 6) (i : BitVec 5) (ann : Ann) : Statement (.shrI d a i ann) :=
  of_mkR0 0x24 _ _ _ _ rfl rfl (by decide) rfl false (priv_mkR rfl rfl) (by intro h l1 l2; simp [decodeOp, decode2, okIf])
theorem shaI (d : BitVec 6) (a : BitVec 6) (i : BitVec 5) (ann : Ann) : Statement (.shaI d a i ann) :=
  of_mkR0 0x25 _ _ _ _ rfl rfl (by decide) rfl false (priv_mkR rfl rfl) (by intro h l1 l2; simp [decodeOp, decode2, okIf])
theorem rolI (d : BitVec 6) (a : BitVec 6) (i : BitVec 5) (ann : Ann) : Statement (.rolI d a i ann) :=
  of_mkR0 0x26 _ _ _ _ rfl rfl (by decide) rfl false (priv_mkR rfl rfl) (by intro h l1 l2; simp [decodeOp, decode2, okIf])
theorem fsh (d : BitVec 6) (a : BitVec 6) (i : BitVec 5) (ann : Ann) : Statement (.fsh d a i ann) :=
  of_mkR0 0x27 _ _ _ _ rfl rfl (by decide) rfl false (priv_mkR rfl rfl) (by intro h l1 l2; simp [decodeOp, decode2, okIf])
theorem popc (d : BitVec 6) (a : BitVec 6) (ann : Ann) : Statement (.popc d a ann) :=
  of_mkR0 0x28 _ _ _ _ rfl rfl (by decide) rfl false (priv_mkR rfl rfl) (fun _ _ _ => rfl)
theorem clz (d : BitVec 6) (a : BitVec 6) (ann : Ann) : Statement (.clz d a ann) :=
  of_mkR0 0x29 _ _ _ _ rfl rfl (by decide) rfl false (priv_mkR rfl rfl) (fun _ _ _ => rfl)
theorem brev (d : BitVec 6) (a : BitVec 6) (ann : Ann) : Statement (.brev d a ann) :=
  of_mkR0 0x2A _ _ _ _ rfl rfl (by decide) rfl false (priv_mkR rfl rfl) (fun _ _ _ => rfl)
theorem bfx (d : BitVec 6) (a : BitVec 6) (pos : BitVec 5) (len : BitVec 6) (ann : Ann) : Statement (.bfx d a pos len ann) :=
  of_mkR1 0x2B _ _ _ _ _ rfl rfl (by decide) rfl false (priv_mkR rfl rfl) (by intro h l2; simp [decodeOp, decode2, okIf])
theorem bfi (d : BitVec 6) (a : BitVec 6) (b : BitVec 6) (pos : BitVec 5) (len : BitVec 6) (ann : Ann) : Statement (.bfi d a b pos len ann) :=
  of_mkR1 0x2C _ _ _ _ _ rfl rfl (by decide) rfl false (priv_mkR rfl rfl) (by intro h l2; simp [decodeOp, decode2, okIf])
theorem bperm (d : BitVec 6) (a : BitVec 6) (b : BitVec 6) (ann : Ann) : Statement (.bperm d a b ann) :=
  of_mkR0 0x2D _ _ _ _ rfl rfl (by decide) rfl false (priv_mkR rfl rfl) (fun _ _ _ => rfl)
theorem sel (d : BitVec 6) (a : BitVec 6) (b : BitVec 6) (p : BitVec 3) (pn : BitVec 1) (ann : Ann) : Statement (.sel d a b p pn ann) :=
  of_mkR1 0x2E _ _ _ _ _ rfl rfl (by decide) rfl false (priv_mkR rfl rfl) (by intro h l2; simp [decodeOp, decode2, okIf])
theorem icmp (d : BitVec 3) (a : BitVec 6) (b : BitVec 6) (fn : BitVec 4) (ann : Ann) : Statement (.icmp d a b fn ann) :=
  of_mkR1 0x2F _ _ _ _ _ rfl rfl (by decide) rfl false (priv_mkR rfl rfl) (by intro h l2; simp [decodeOp, decode2, okIf])
theorem iaddi (d : BitVec 6) (a : BitVec 6) (i : BitVec 6) (ann : Ann) : Statement (.iaddi d a i ann) :=
  of_mkR0 0x30 _ _ _ _ rfl rfl (by decide) rfl false (priv_mkR rfl rfl) (fun _ _ _ => rfl)
theorem mov (d : BitVec 6) (a : BitVec 6) (ann : Ann) : Statement (.mov d a ann) :=
  of_mkR0 0x31 _ _ _ _ rfl rfl (by decide) rfl false (priv_mkR rfl rfl) (fun _ _ _ => rfl)
theorem movi (d : BitVec 6) (i : BitVec 6) (ann : Ann) : Statement (.movi d i ann) :=
  of_mkR0 0x32 _ _ _ _ rfl rfl (by decide) rfl false (priv_mkR rfl rfl) (fun _ _ _ => rfl)
theorem lit (d : BitVec 6) (x : Word) (ann : Ann) : Statement (.lit d x ann) :=
  of_mkR1 0x33 _ _ _ _ _ rfl rfl (by decide) rfl false (priv_mkR rfl rfl) (fun _ _ => rfl)
theorem movs (d : BitVec 6) (a : BitVec 6) (ann : Ann) : Statement (.movs d a ann) :=
  of_mkR0 0x34 _ _ _ _ rfl rfl (by decide) rfl false (priv_mkR rfl rfl) (fun _ _ _ => rfl)
theorem movv (d : BitVec 6) (a : BitVec 6) (i : BitVec 6) (ann : Ann) : Statement (.movv d a i ann) :=
  of_mkR0 0x35 _ _ _ _ rfl rfl (by decide) rfl false (priv_mkR rfl rfl) (fun _ _ _ => rfl)
theorem lea (d : BitVec 6) (a : BitVec 6) (b : BitVec 6) (ann : Ann) : Statement (.lea d a b ann) :=
  of_mkR0 0x36 _ _ _ _ rfl rfl (by decide) rfl false (priv_mkR rfl rfl) (fun _ _ _ => rfl)
theorem sadd (d : BitVec 6) (a : BitVec 6) (b : BitVec 6) (ann : Ann) : Statement (.sadd d a b ann) :=
  of_mkR0 0x40 _ _ _ _ rfl rfl (by decide) rfl false (priv_mkR rfl rfl) (fun _ _ _ => rfl)
theorem ssub (d : BitVec 6) (a : BitVec 6) (b : BitVec 6) (ann : Ann) : Statement (.ssub d a b ann) :=
  of_mkR0 0x41 _ _ _ _ rfl rfl (by decide) rfl false (priv_mkR rfl rfl) (fun _ _ _ => rfl)
theorem smul (d : BitVec 6) (a : BitVec 6) (b : BitVec 6) (ann : Ann) : Statement (.smul d a b ann) :=
  of_mkR0 0x42 _ _ _ _ rfl rfl (by decide) rfl false (priv_mkR rfl rfl) (fun _ _ _ => rfl)
theorem sand (d : BitVec 6) (a : BitVec 6) (b : BitVec 6) (ann : Ann) : Statement (.sand d a b ann) :=
  of_mkR0 0x43 _ _ _ _ rfl rfl (by decide) rfl false (priv_mkR rfl rfl) (fun _ _ _ => rfl)
theorem sor (d : BitVec 6) (a : BitVec 6) (b : BitVec 6) (ann : Ann) : Statement (.sor d a b ann) :=
  of_mkR0 0x44 _ _ _ _ rfl rfl (by decide) rfl false (priv_mkR rfl rfl) (fun _ _ _ => rfl)
theorem sxor (d : BitVec 6) (a : BitVec 6) (b : BitVec 6) (ann : Ann) : Statement (.sxor d a b ann) :=
  of_mkR0 0x45 _ _ _ _ rfl rfl (by decide) rfl false (priv_mkR rfl rfl) (fun _ _ _ => rfl)
theorem sshl (d : BitVec 6) (a : BitVec 6) (b : BitVec 6) (ann : Ann) : Statement (.sshl d a b ann) :=
  of_mkR0 0x46 _ _ _ _ rfl rfl (by decide) rfl false (priv_mkR rfl rfl) (fun _ _ _ => rfl)
theorem sshr (d : BitVec 6) (a : BitVec 6) (b : BitVec 6) (ann : Ann) : Statement (.sshr d a b ann) :=
  of_mkR0 0x47 _ _ _ _ rfl rfl (by decide) rfl false (priv_mkR rfl rfl) (fun _ _ _ => rfl)
theorem scmp (d : BitVec 3) (a : BitVec 6) (b : BitVec 6) (fn : BitVec 4) (ann : Ann) : Statement (.scmp d a b fn ann) :=
  of_mkR1 0x48 _ _ _ _ _ rfl rfl (by decide) rfl false (priv_mkR rfl rfl) (by intro h l2; simp [decodeOp, decode4, okIf])
theorem smovSS (d : BitVec 6) (a : BitVec 6) (ann : Ann) : Statement (.smovSS d a ann) :=
  of_mkR0 0x49 _ _ _ _ rfl rfl (by decide) rfl false (priv_mkR rfl rfl) (fun _ _ _ => rfl)
theorem smovFS (d : BitVec 3) (a : BitVec 6) (ann : Ann) : Statement (.smovFS d a ann) :=
  of_mkR0 0x4A _ _ _ _ rfl rfl (by decide) rfl false (priv_mkR rfl rfl) (by intro h l1 l2; simp [decodeOp, decode4, okIf])
theorem smovSF (d : BitVec 6) (a : BitVec 3) (ann : Ann) : Statement (.smovSF d a ann) :=
  of_mkR0 0x4B _ _ _ _ rfl rfl (by decide) rfl false (priv_mkR rfl rfl) (by intro h l1 l2; simp [decodeOp, decode4, okIf])
theorem slitS (d : BitVec 6) (x : Word) (ann : Ann) : Statement (.slitS d x ann) :=
  of_mkR1 0x4C _ _ _ _ _ rfl rfl (by decide) rfl false (priv_mkR rfl rfl) (fun _ _ => rfl)
theorem slitF (d : BitVec 3) (x : Word) (ann : Ann) : Statement (.slitF d x ann) :=
  of_mkR1 0x4D _ _ _ _ _ rfl rfl (by decide) rfl false (priv_mkR rfl rfl) (by intro h l2; simp [decodeOp, decode4, okIf])
theorem pand (d : BitVec 3) (a : BitVec 3) (b : BitVec 3) (ann : Ann) : Statement (.pand d a b ann) :=
  of_mkR0 0x50 _ _ _ _ rfl rfl (by decide) rfl false (priv_mkR rfl rfl) (by intro h l1 l2; simp [decodeOp, decode5, okIf])
theorem por (d : BitVec 3) (a : BitVec 3) (b : BitVec 3) (ann : Ann) : Statement (.por d a b ann) :=
  of_mkR0 0x51 _ _ _ _ rfl rfl (by decide) rfl false (priv_mkR rfl rfl) (by intro h l1 l2; simp [decodeOp, decode5, okIf])
theorem pxor (d : BitVec 3) (a : BitVec 3) (b : BitVec 3) (ann : Ann) : Statement (.pxor d a b ann) :=
  of_mkR0 0x52 _ _ _ _ rfl rfl (by decide) rfl false (priv_mkR rfl rfl) (by intro h l1 l2; simp [decodeOp, decode5, okIf])
theorem pnot (d : BitVec 3) (a : BitVec 3) (ann : Ann) : Statement (.pnot d a ann) :=
  of_mkR0 0x53 _ _ _ _ rfl rfl (by decide) rfl false (priv_mkR rfl rfl) (by intro h l1 l2; simp [decodeOp, decode5, okIf])
theorem pmov (d : BitVec 3) (a : BitVec 3) (ann : Ann) : Statement (.pmov d a ann) :=
  of_mkR0 0x54 _ _ _ _ rfl rfl (by decide) rfl false (priv_mkR rfl rfl) (by intro h l1 l2; simp [decodeOp, decode5, okIf])
theorem shfl (d : BitVec 6) (a : BitVec 6) (b : BitVec 6) (ann : Ann) : Statement (.shfl d a b ann) :=
  of_mkR0 0x58 _ _ _ _ rfl rfl (by decide) rfl false (priv_mkR rfl rfl) (fun _ _ _ => rfl)
theorem vote (d : BitVec 6) (a : BitVec 3) (ann : Ann) : Statement (.vote d a ann) :=
  of_mkR0 0x59 _ _ _ _ rfl rfl (by decide) rfl false (priv_mkR rfl rfl) (by intro h l1 l2; simp [decodeOp, decode5, okIf])
theorem lred (d : BitVec 6) (a : BitVec 6) (i : BitVec 6) (ann : Ann) : Statement (.lred d a i ann) :=
  of_mkR0 0x5A _ _ _ _ rfl rfl (by decide) rfl false (priv_mkR rfl rfl) (fun _ _ _ => rfl)
theorem lscan (d : BitVec 6) (a : BitVec 6) (i : BitVec 6) (ann : Ann) : Statement (.lscan d a i ann) :=
  of_mkR0 0x5B _ _ _ _ rfl rfl (by decide) rfl false (priv_mkR rfl rfl) (fun _ _ _ => rfl)
theorem matchV (d : BitVec 6) (a : BitVec 6) (ann : Ann) : Statement (.matchV d a ann) :=
  of_mkR0 0x5C _ _ _ _ rfl rfl (by decide) rfl false (priv_mkR rfl rfl) (fun _ _ _ => rfl)
theorem compact (d : BitVec 6) (a : BitVec 6) (ann : Ann) : Statement (.compact d a ann) :=
  of_mkR0 0x5D _ _ _ _ rfl rfl (by decide) rfl false (priv_mkR rfl rfl) (fun _ _ _ => rfl)
theorem regroup (d : BitVec 3) (a : BitVec 6) (b : BitVec 6) (ann : Ann) : Statement (.regroup d a b ann) :=
  of_mkR0 0x5E _ _ _ _ rfl rfl (by decide) rfl false (priv_mkR rfl rfl) (by intro h l1 l2; simp [decodeOp, decode5, okIf])
theorem fadd (d : BitVec 6) (a : BitVec 6) (b : BitVec 6) (ann : Ann) : Statement (.fadd d a b ann) :=
  of_mkR0 0x60 _ _ _ _ rfl rfl (by decide) rfl false (priv_mkR rfl rfl) (fun _ _ _ => rfl)
theorem fsub (d : BitVec 6) (a : BitVec 6) (b : BitVec 6) (ann : Ann) : Statement (.fsub d a b ann) :=
  of_mkR0 0x61 _ _ _ _ rfl rfl (by decide) rfl false (priv_mkR rfl rfl) (fun _ _ _ => rfl)
theorem fmul (d : BitVec 6) (a : BitVec 6) (b : BitVec 6) (ann : Ann) : Statement (.fmul d a b ann) :=
  of_mkR0 0x62 _ _ _ _ rfl rfl (by decide) rfl false (priv_mkR rfl rfl) (fun _ _ _ => rfl)
theorem ffma (d : BitVec 6) (a : BitVec 6) (b : BitVec 6) (ann : Ann) : Statement (.ffma d a b ann) :=
  of_mkR0 0x63 _ _ _ _ rfl rfl (by decide) rfl false (priv_mkR rfl rfl) (fun _ _ _ => rfl)
theorem fmin (d : BitVec 6) (a : BitVec 6) (b : BitVec 6) (ann : Ann) : Statement (.fmin d a b ann) :=
  of_mkR0 0x64 _ _ _ _ rfl rfl (by decide) rfl false (priv_mkR rfl rfl) (fun _ _ _ => rfl)
theorem fmax (d : BitVec 6) (a : BitVec 6) (b : BitVec 6) (ann : Ann) : Statement (.fmax d a b ann) :=
  of_mkR0 0x65 _ _ _ _ rfl rfl (by decide) rfl false (priv_mkR rfl rfl) (fun _ _ _ => rfl)
theorem fminn (d : BitVec 6) (a : BitVec 6) (b : BitVec 6) (ann : Ann) : Statement (.fminn d a b ann) :=
  of_mkR0 0x66 _ _ _ _ rfl rfl (by decide) rfl false (priv_mkR rfl rfl) (fun _ _ _ => rfl)
theorem fmaxn (d : BitVec 6) (a : BitVec 6) (b : BitVec 6) (ann : Ann) : Statement (.fmaxn d a b ann) :=
  of_mkR0 0x67 _ _ _ _ rfl rfl (by decide) rfl false (priv_mkR rfl rfl) (fun _ _ _ => rfl)
theorem fabs (d : BitVec 6) (a : BitVec 6) (ann : Ann) : Statement (.fabs d a ann) :=
  of_mkR0 0x68 _ _ _ _ rfl rfl (by decide) rfl false (priv_mkR rfl rfl) (fun _ _ _ => rfl)
theorem fneg (d : BitVec 6) (a : BitVec 6) (ann : Ann) : Statement (.fneg d a ann) :=
  of_mkR0 0x69 _ _ _ _ rfl rfl (by decide) rfl false (priv_mkR rfl rfl) (fun _ _ _ => rfl)
theorem fcmp (d : BitVec 3) (a : BitVec 6) (b : BitVec 6) (fn : BitVec 4) (ann : Ann) : Statement (.fcmp d a b fn ann) :=
  of_mkR1 0x6A _ _ _ _ _ rfl rfl (by decide) rfl false (priv_mkR rfl rfl) (by intro h l2; simp [decodeOp, decode6, okIf])
theorem frcp (d : BitVec 6) (a : BitVec 6) (ann : Ann) : Statement (.frcp d a ann) :=
  of_mkR0 0x6B _ _ _ _ rfl rfl (by decide) rfl false (priv_mkR rfl rfl) (fun _ _ _ => rfl)
theorem frsq (d : BitVec 6) (a : BitVec 6) (ann : Ann) : Statement (.frsq d a ann) :=
  of_mkR0 0x6C _ _ _ _ rfl rfl (by decide) rfl false (priv_mkR rfl rfl) (fun _ _ _ => rfl)
theorem fsqrt (d : BitVec 6) (a : BitVec 6) (ann : Ann) : Statement (.fsqrt d a ann) :=
  of_mkR0 0x6D _ _ _ _ rfl rfl (by decide) rfl false (priv_mkR rfl rfl) (fun _ _ _ => rfl)
theorem fex2 (d : BitVec 6) (a : BitVec 6) (ann : Ann) : Statement (.fex2 d a ann) :=
  of_mkR0 0x6E _ _ _ _ rfl rfl (by decide) rfl false (priv_mkR rfl rfl) (fun _ _ _ => rfl)
theorem flg2 (d : BitVec 6) (a : BitVec 6) (ann : Ann) : Statement (.flg2 d a ann) :=
  of_mkR0 0x6F _ _ _ _ rfl rfl (by decide) rfl false (priv_mkR rfl rfl) (fun _ _ _ => rfl)
theorem fsin (d : BitVec 6) (a : BitVec 6) (ann : Ann) : Statement (.fsin d a ann) :=
  of_mkR0 0x70 _ _ _ _ rfl rfl (by decide) rfl false (priv_mkR rfl rfl) (fun _ _ _ => rfl)
theorem fcos (d : BitVec 6) (a : BitVec 6) (ann : Ann) : Statement (.fcos d a ann) :=
  of_mkR0 0x71 _ _ _ _ rfl rfl (by decide) rfl false (priv_mkR rfl rfl) (fun _ _ _ => rfl)
theorem ftanh (d : BitVec 6) (a : BitVec 6) (ann : Ann) : Statement (.ftanh d a ann) :=
  of_mkR0 0x72 _ _ _ _ rfl rfl (by decide) rfl false (priv_mkR rfl rfl) (fun _ _ _ => rfl)
theorem fscl (d : BitVec 6) (a : BitVec 6) (b : BitVec 6) (ann : Ann) : Statement (.fscl d a b ann) :=
  of_mkR0 0x73 _ _ _ _ rfl rfl (by decide) rfl false (priv_mkR rfl rfl) (fun _ _ _ => rfl)
theorem frnd (d : BitVec 6) (a : BitVec 6) (ann : Ann) : Statement (.frnd d a ann) :=
  of_mkR0 0x74 _ _ _ _ rfl rfl (by decide) rfl false (priv_mkR rfl rfl) (fun _ _ _ => rfl)
theorem fcls (d : BitVec 6) (a : BitVec 6) (ann : Ann) : Statement (.fcls d a ann) :=
  of_mkR0 0x75 _ _ _ _ rfl rfl (by decide) rfl false (priv_mkR rfl rfl) (fun _ _ _ => rfl)
theorem fcvt (d : BitVec 6) (a : BitVec 6) (i : BitVec 5) (ann : Ann) : Statement (.fcvt d a i ann) :=
  of_mkR0 0x76 _ _ _ _ rfl rfl (by decide) rfl false (priv_mkR rfl rfl) (by intro h l1 l2; simp [decodeOp, decode7, okIf])
theorem icvt (d : BitVec 6) (a : BitVec 6) (i : BitVec 5) (ann : Ann) : Statement (.icvt d a i ann) :=
  of_mkR0 0x77 _ _ _ _ rfl rfl (by decide) rfl false (priv_mkR rfl rfl) (by intro h l1 l2; simp [decodeOp, decode7, okIf])
theorem tsum (d : BitVec 6) (a : BitVec 6) (b : BitVec 6) (ann : Ann) : Statement (.tsum d a b ann) :=
  of_mkR0 0x78 _ _ _ _ rfl rfl (by decide) rfl false (priv_mkR rfl rfl) (fun _ _ _ => rfl)
theorem tprd (d : BitVec 6) (a : BitVec 6) (b : BitVec 6) (ann : Ann) : Statement (.tprd d a b ann) :=
  of_mkR0 0x79 _ _ _ _ rfl rfl (by decide) rfl false (priv_mkR rfl rfl) (fun _ _ _ => rfl)
theorem cmul (d : BitVec 6) (a : BitVec 6) (b : BitVec 6) (ann : Ann) : Statement (.cmul d a b ann) :=
  of_mkR0 0x7A _ _ _ _ rfl rfl (by decide) rfl false (priv_mkR rfl rfl) (fun _ _ _ => rfl)
theorem cfma (d : BitVec 6) (a : BitVec 6) (b : BitVec 6) (ann : Ann) : Statement (.cfma d a b ann) :=
  of_mkR0 0x7B _ _ _ _ rfl rfl (by decide) rfl false (priv_mkR rfl rfl) (fun _ _ _ => rfl)
theorem dot2 (d : BitVec 6) (a : BitVec 6) (b : BitVec 6) (ann : Ann) : Statement (.dot2 d a b ann) :=
  of_mkR0 0x7C _ _ _ _ rfl rfl (by decide) rfl false (priv_mkR rfl rfl) (fun _ _ _ => rfl)
theorem h2add (d : BitVec 6) (a : BitVec 6) (b : BitVec 6) (ann : Ann) : Statement (.h2add d a b ann) :=
  of_mkR0 0x7D _ _ _ _ rfl rfl (by decide) rfl false (priv_mkR rfl rfl) (fun _ _ _ => rfl)
theorem h2mul (d : BitVec 6) (a : BitVec 6) (b : BitVec 6) (ann : Ann) : Statement (.h2mul d a b ann) :=
  of_mkR0 0x7E _ _ _ _ rfl rfl (by decide) rfl false (priv_mkR rfl rfl) (fun _ _ _ => rfl)
theorem h2fma (d : BitVec 6) (a : BitVec 6) (b : BitVec 6) (ann : Ann) : Statement (.h2fma d a b ann) :=
  of_mkR0 0x7F _ _ _ _ rfl rfl (by decide) rfl false (priv_mkR rfl rfl) (fun _ _ _ => rfl)
theorem qblk (d : BitVec 6) (a : BitVec 6) (b : BitVec 6) (ann : Ann) : Statement (.qblk d a b ann) :=
  of_mkR0 0x90 _ _ _ _ rfl rfl (by decide) rfl false (priv_mkR rfl rfl) (fun _ _ _ => rfl)
theorem qcvt (d : BitVec 6) (a : BitVec 6) (b : BitVec 6) (ann : Ann) : Statement (.qcvt d a b ann) :=
  of_mkR0 0x91 _ _ _ _ rfl rfl (by decide) rfl false (priv_mkR rfl rfl) (fun _ _ _ => rfl)
theorem plsplit (d : BitVec 6) (a : BitVec 6) (i : BitVec 2) (ann : Ann) : Statement (.plsplit d a i ann) :=
  of_mkR0 0x92 _ _ _ _ rfl rfl (by decide) rfl false (priv_mkR rfl rfl) (by intro h l1 l2; simp [decodeOp, decode9, okIf])
theorem pljoin (d : BitVec 6) (a : BitVec 6) (b : BitVec 6) (ann : Ann) : Statement (.pljoin d a b ann) :=
  of_mkR0 0x93 _ _ _ _ rfl rfl (by decide) rfl false (priv_mkR rfl rfl) (fun _ _ _ => rfl)
theorem ldI (d : BitVec 6) (a : BitVec 6) (i : BitVec 6) (ann : Ann) : Statement (.ldI d a i ann) :=
  of_mkR0 0x98 _ _ _ _ rfl rfl (by decide) rfl false (priv_mkR rfl rfl) (fun _ _ _ => rfl)
theorem ldL (d : BitVec 6) (a : BitVec 6) (off : Word) (ann : Ann) : Statement (.ldL d a off ann) :=
  of_mkR1 0x99 _ _ _ _ _ rfl rfl (by decide) rfl false (priv_mkR rfl rfl) (fun _ _ => rfl)
theorem stI (d : BitVec 6) (a : BitVec 6) (i : BitVec 6) (ann : Ann) : Statement (.stI d a i ann) :=
  of_mkR0 0x9A _ _ _ _ rfl rfl (by decide) rfl false (priv_mkR rfl rfl) (fun _ _ _ => rfl)
theorem stL (d : BitVec 6) (a : BitVec 6) (off : Word) (ann : Ann) : Statement (.stL d a off ann) :=
  of_mkR1 0x9B _ _ _ _ _ rfl rfl (by decide) rfl false (priv_mkR rfl rfl) (fun _ _ => rfl)
theorem ldl (d : BitVec 6) (a : BitVec 6) (b : BitVec 6) (ann : Ann) : Statement (.ldl d a b ann) :=
  of_mkR0 0x9C _ _ _ _ rfl rfl (by decide) rfl false (priv_mkR rfl rfl) (fun _ _ _ => rfl)
theorem stl (d : BitVec 6) (a : BitVec 6) (b : BitVec 6) (ann : Ann) : Statement (.stl d a b ann) :=
  of_mkR0 0x9D _ _ _ _ rfl rfl (by decide) rfl false (priv_mkR rfl rfl) (fun _ _ _ => rfl)
theorem atom (d : BitVec 6) (a : BitVec 6) (b : BitVec 6) (fn : BitVec 4) (ann : Ann) : Statement (.atom d a b fn ann) :=
  of_mkR1 0x9E _ _ _ _ _ rfl rfl (by decide) rfl false (priv_mkR rfl rfl) (by intro h l2; simp [decodeOp, decode9, okIf])
theorem atomc (d : BitVec 6) (a : BitVec 6) (b : BitVec 6) (ann : Ann) : Statement (.atomc d a b ann) :=
  of_mkR0 0x9F _ _ _ _ rfl rfl (by decide) rfl false (priv_mkR rfl rfl) (fun _ _ _ => rfl)
theorem red (a : BitVec 6) (b : BitVec 6) (fn : BitVec 4) (ann : Ann) : Statement (.red a b fn ann) :=
  of_mkR1 0xA0 _ _ _ _ _ rfl rfl (by decide) rfl false (priv_mkR rfl rfl) (by intro h l2; simp [decodeOp, decodeA, okIf])
theorem fence (ann : Ann) : Statement (.fence ann) :=
  of_mkR0 0xA1 _ _ _ _ rfl rfl (by decide) rfl false (priv_mkR rfl rfl) (fun _ _ _ => rfl)
theorem cctl (a : BitVec 6) (i : BitVec 6) (ann : Ann) : Statement (.cctl a i ann) :=
  of_mkR0 0xA2 _ _ _ _ rfl rfl (by decide) rfl false (priv_mkR rfl rfl) (fun _ _ _ => rfl)
theorem lalloc (d : BitVec 6) (a : BitVec 6) (i : BitVec 6) (ann : Ann) : Statement (.lalloc d a i ann) :=
  of_mkR0 0xA3 _ _ _ _ rfl rfl (by decide) rfl false (priv_mkR rfl rfl) (fun _ _ _ => rfl)
theorem lfree (d : BitVec 6) (a : BitVec 6) (i : BitVec 6) (ann : Ann) : Statement (.lfree d a i ann) :=
  of_mkR0 0xA4 _ _ _ _ rfl rfl (by decide) rfl false (priv_mkR rfl rfl) (fun _ _ _ => rfl)
theorem tlmake (d : BitVec 6) (a : BitVec 6) (ann : Ann) : Statement (.tlmake d a ann) :=
  of_mkR0 0xA5 _ _ _ _ rfl rfl (by decide) rfl false (priv_mkR rfl rfl) (fun _ _ _ => rfl)
theorem tldrop (d : BitVec 6) (a : BitVec 6) (ann : Ann) : Statement (.tldrop d a ann) :=
  of_mkR0 0xA6 _ _ _ _ rfl rfl (by decide) rfl false (priv_mkR rfl rfl) (fun _ _ _ => rfl)
theorem tlqry (d : BitVec 6) (a : BitVec 6) (i : BitVec 6) (ann : Ann) : Statement (.tlqry d a i ann) :=
  of_mkR0 0xA7 _ _ _ _ rfl rfl (by decide) rfl false (priv_mkR rfl rfl) (fun _ _ _ => rfl)
theorem binit (d : BitVec 6) (a : BitVec 6) (i : BitVec 3) (ann : Ann) : Statement (.binit d a i ann) :=
  of_mkR0 0xB0 _ _ _ _ rfl rfl (by decide) rfl false (priv_mkR rfl rfl) (by intro h l1 l2; simp [decodeOp, decodeB, okIf])
theorem blink (d : BitVec 6) (a : BitVec 6) (b : BitVec 6) (ann : Ann) : Statement (.blink d a b ann) :=
  of_mkR0 0xB1 _ _ _ _ rfl rfl (by decide) rfl false (priv_mkR rfl rfl) (fun _ _ _ => rfl)
theorem bara (a : BitVec 6) (i : BitVec 3) (ann : Ann) : Statement (.bara a i ann) :=
  of_mkR0 0xB2 _ _ _ _ rfl rfl (by decide) rfl false (priv_mkR rfl rfl) (by intro h l1 l2; simp [decodeOp, decodeB, okIf])
theorem barw (d : BitVec 6) (a : BitVec 6) (i : BitVec 3) (ann : Ann) : Statement (.barw d a i ann) :=
  of_mkR0 0xB3 _ _ _ _ rfl rfl (by decide) rfl false (priv_mkR rfl rfl) (by intro h l1 l2; simp [decodeOp, decodeB, okIf])
theorem baraw (d : BitVec 6) (a : BitVec 6) (i : BitVec 3) (ann : Ann) : Statement (.baraw d a i ann) :=
  of_mkR0 0xB4 _ _ _ _ rfl rfl (by decide) rfl false (priv_mkR rfl rfl) (by intro h l1 l2; simp [decodeOp, decodeB, okIf])
theorem bart (d : BitVec 6) (a : BitVec 6) (i : BitVec 3) (ann : Ann) : Statement (.bart d a i ann) :=
  of_mkR0 0xB5 _ _ _ _ rfl rfl (by decide) rfl false (priv_mkR rfl rfl) (by intro h l1 l2; simp [decodeOp, decodeB, okIf])
theorem barx (d : BitVec 6) (a : BitVec 6) (i : BitVec 3) (ann : Ann) : Statement (.barx d a i ann) :=
  of_mkR0 0xB6 _ _ _ _ rfl rfl (by decide) rfl false (priv_mkR rfl rfl) (by intro h l1 l2; simp [decodeOp, decodeB, okIf])
theorem push (a : BitVec 6) (i : BitVec 3) (ann : Ann) : Statement (.push a i ann) :=
  of_mkR0 0xB8 _ _ _ _ rfl rfl (by decide) rfl false (priv_mkR rfl rfl) (by intro h l1 l2; simp [decodeOp, decodeB, okIf])
theorem pushr (a : BitVec 6) (i : BitVec 3) (ann : Ann) : Statement (.pushr a i ann) :=
  of_mkR0 0xB9 _ _ _ _ rfl rfl (by decide) rfl false (priv_mkR rfl rfl) (by intro h l1 l2; simp [decodeOp, decodeB, okIf])
theorem pop (d : BitVec 6) (i : BitVec 3) (ann : Ann) : Statement (.pop d i ann) :=
  of_mkR0 0xBA _ _ _ _ rfl rfl (by decide) rfl false (priv_mkR rfl rfl) (by intro h l1 l2; simp [decodeOp, decodeB, okIf])
theorem peek (d : BitVec 6) (i : BitVec 3) (ann : Ann) : Statement (.peek d i ann) :=
  of_mkR0 0xBB _ _ _ _ rfl rfl (by decide) rfl false (priv_mkR rfl rfl) (by intro h l1 l2; simp [decodeOp, decodeB, okIf])
theorem pqry (d : BitVec 6) (i : BitVec 3) (ann : Ann) : Statement (.pqry d i ann) :=
  of_mkR0 0xBC _ _ _ _ rfl rfl (by decide) rfl false (priv_mkR rfl rfl) (by intro h l1 l2; simp [decodeOp, decodeB, okIf])
theorem plink (d : BitVec 6) (a : BitVec 6) (i : BitVec 3) (ann : Ann) : Statement (.plink d a i ann) :=
  of_mkR0 0xBD _ _ _ _ rfl rfl (by decide) rfl false (priv_mkR rfl rfl) (by intro h l1 l2; simp [decodeOp, decodeB])
theorem plinkUnlink (d : BitVec 6) (i : BitVec 3) (ann : Ann) : Statement (.plinkUnlink d i ann) :=
  of_mkR0 0xBD _ _ _ _ rfl rfl (by decide) rfl false (priv_mkR rfl rfl) (by intro h l1 l2; simp [decodeOp, decodeB, okIf])
theorem tret (ann : Ann) : Statement (.tret ann) :=
  of_mkR0 0xC0 _ _ _ _ rfl rfl (by decide) rfl true (priv_mkR rfl rfl) (fun _ _ _ => rfl)
theorem csrr (d : BitVec 6) (csr : Word) (ann : Ann) : Statement (.csrr d csr ann) :=
  of_mkR1 0xC1 _ _ _ _ _ rfl rfl (by decide) rfl true (priv_mkR rfl rfl) (by intro h l2; simp [Instr.wf] at h; simp [decodeOp, decodeC, okIf, h])
theorem csrw (a : BitVec 6) (csr : Word) (ann : Ann) : Statement (.csrw a csr ann) :=
  of_mkR1 0xC2 _ _ _ _ _ rfl rfl (by decide) rfl true (priv_mkR rfl rfl) (by intro h l2; simp [Instr.wf] at h; simp [decodeOp, decodeC, okIf, h])
theorem ctxrd (d : BitVec 6) (a : BitVec 6) (item : Word) (ann : Ann) : Statement (.ctxrd d a item ann) :=
  of_mkR1 0xC3 _ _ _ _ _ rfl rfl (by decide) rfl true (priv_mkR rfl rfl) (fun _ _ => rfl)
theorem ctxwr (d : BitVec 6) (a : BitVec 6) (item : Word) (ann : Ann) : Statement (.ctxwr d a item ann) :=
  of_mkR1 0xC4 _ _ _ _ _ rfl rfl (by decide) rfl true (priv_mkR rfl rfl) (fun _ _ => rfl)
theorem save (d : BitVec 6) (a : BitVec 6) (b : BitVec 6) (ann : Ann) : Statement (.save d a b ann) :=
  of_mkR0 0xC5 _ _ _ _ rfl rfl (by decide) rfl true (priv_mkR rfl rfl) (fun _ _ _ => rfl)
theorem rstr (d : BitVec 6) (a : BitVec 6) (b : BitVec 6) (ann : Ann) : Statement (.rstr d a b ann) :=
  of_mkR0 0xC6 _ _ _ _ rfl rfl (by decide) rfl true (priv_mkR rfl rfl) (fun _ _ _ => rfl)
theorem haltcr (d : BitVec 6) (a : BitVec 6) (ann : Ann) : Statement (.haltcr d a ann) :=
  of_mkR0 0xC7 _ _ _ _ rfl rfl (by decide) rfl true (priv_mkR rfl rfl) (fun _ _ _ => rfl)
theorem resume (d : BitVec 6) (a : BitVec 6) (ann : Ann) : Statement (.resume d a ann) :=
  of_mkR0 0xC8 _ _ _ _ rfl rfl (by decide) rfl true (priv_mkR rfl rfl) (fun _ _ _ => rfl)
theorem killcr (d : BitVec 6) (a : BitVec 6) (ann : Ann) : Statement (.killcr d a ann) :=
  of_mkR0 0xC9 _ _ _ _ rfl rfl (by decide) rfl true (priv_mkR rfl rfl) (fun _ _ _ => rfl)
theorem tlbinv (d : BitVec 6) (a : BitVec 6) (b : BitVec 6) (ann : Ann) : Statement (.tlbinv d a b ann) :=
  of_mkR0 0xCA _ _ _ _ rfl rfl (by decide) rfl true (priv_mkR rfl rfl) (fun _ _ _ => rfl)
theorem cinv (a : BitVec 6) (i : BitVec 6) (ann : Ann) : Statement (.cinv a i ann) :=
  of_mkR0 0xCB _ _ _ _ rfl rfl (by decide) rfl true (priv_mkR rfl rfl) (fun _ _ _ => rfl)
theorem tkt (d : BitVec 6) (a : BitVec 6) (b : BitVec 6) (ann : Ann) : Statement (.tkt d a b ann) :=
  of_mkR0 0xCC _ _ _ _ rfl rfl (by decide) rfl true (priv_mkR rfl rfl) (fun _ _ _ => rfl)
theorem hmsg (d : BitVec 6) (a : BitVec 6) (b : BitVec 6) (ann : Ann) : Statement (.hmsg d a b ann) :=
  of_mkR0 0xCD _ _ _ _ rfl rfl (by decide) rfl true (priv_mkR rfl rfl) (fun _ _ _ => rfl)
theorem idle (ann : Ann) : Statement (.idle ann) :=
  of_mkR0 0xCE _ _ _ _ rfl rfl (by decide) rfl true (priv_mkR rfl rfl) (fun _ _ _ => rfl)
theorem mcopy (y : BitVec 1) (d : BitVec 6) (a : BitVec 6) : Statement (.mcopy y d a) :=
  of_mkX _ _ _ _ _ _ rfl rfl false (priv_mkX rfl) (fun _ => rfl)
theorem ucopy (y : BitVec 1) (d : BitVec 6) (a : BitVec 6) : Statement (.ucopy y d a) :=
  of_mkX _ _ _ _ _ _ rfl rfl false (priv_mkX rfl) (fun _ => rfl)
theorem gcopy (y : BitVec 1) (d : BitVec 6) (a : BitVec 6) : Statement (.gcopy y d a) :=
  of_mkX _ _ _ _ _ _ rfl rfl false (priv_mkX rfl) (fun _ => rfl)
theorem reduce (y : BitVec 1) (d : BitVec 6) (a : BitVec 6) : Statement (.reduce y d a) :=
  of_mkX _ _ _ _ _ _ rfl rfl false (priv_mkX rfl) (fun _ => rfl)
theorem cqry (d : BitVec 6) (a : BitVec 6) (b : BitVec 6) : Statement (.cqry d a b) :=
  of_mkX _ _ _ _ _ _ rfl rfl false (priv_mkX rfl) (fun _ => rfl)
theorem vinit (y : BitVec 1) (d : BitVec 6) (a : BitVec 6) (b : BitVec 6) : Statement (.vinit y d a b) :=
  of_mkX _ _ _ _ _ _ rfl rfl false (priv_mkX rfl) (fun _ => rfl)
theorem vtake (d : BitVec 6) (a : BitVec 6) : Statement (.vtake d a) :=
  of_mkX _ _ _ _ _ _ rfl rfl false (priv_mkX rfl) (fun _ => rfl)
theorem vput (y : BitVec 1) (d : BitVec 6) (a : BitVec 6) (b : BitVec 6) : Statement (.vput y d a b) :=
  of_mkX _ _ _ _ _ _ rfl rfl false (priv_mkX rfl) (fun _ => rfl)
theorem vqry (d : BitVec 6) (a : BitVec 6) (b : BitVec 6) : Statement (.vqry d a b) :=
  of_mkX _ _ _ _ _ _ rfl rfl false (priv_mkX rfl) (fun _ => rfl)
theorem sfill (y : BitVec 1) (d : BitVec 6) (a : BitVec 6) (b : BitVec 6) : Statement (.sfill y d a b) :=
  of_mkX _ _ _ _ _ _ rfl rfl false (priv_mkX rfl) (fun _ => rfl)
theorem sdrain (y : BitVec 1) (d : BitVec 6) (a : BitVec 6) (b : BitVec 6) : Statement (.sdrain y d a b) :=
  of_mkX _ _ _ _ _ _ rfl rfl false (priv_mkX rfl) (fun _ => rfl)
theorem sstop (y : BitVec 1) (d : BitVec 6) (a : BitVec 6) : Statement (.sstop y d a) :=
  of_mkX _ _ _ _ _ _ rfl rfl false (priv_mkX rfl) (fun _ => rfl)
theorem mma (y : BitVec 1) (d : BitVec 6) (a : BitVec 6) (b : BitVec 6) : Statement (.mma y d a b) :=
  of_mkX _ _ _ _ _ _ rfl rfl false (priv_mkX rfl) (fun _ => rfl)
theorem mmac (y : BitVec 1) (d : BitVec 6) (a : BitVec 6) (b : BitVec 6) : Statement (.mmac y d a b) :=
  of_mkX _ _ _ _ _ _ rfl rfl false (priv_mkX rfl) (fun _ => rfl)
theorem mfence : Statement (.mfence) :=
  of_mkX _ _ _ _ _ _ rfl rfl false (by decide) (fun _ => rfl)
theorem mwait (a : BitVec 6) : Statement (.mwait a) :=
  of_mkX _ _ _ _ _ _ rfl rfl false (priv_mkX rfl) (fun _ => rfl)
theorem mqry (d : BitVec 6) (a : BitVec 6) : Statement (.mqry d a) :=
  of_mkX _ _ _ _ _ _ rfl rfl false (priv_mkX rfl) (fun _ => rfl)
theorem celget (d : BitVec 6) (a : BitVec 6) : Statement (.celget d a) :=
  of_mkX _ _ _ _ _ _ rfl rfl false (priv_mkX rfl) (fun _ => rfl)
theorem celpin (y : BitVec 1) (d : BitVec 6) (a : BitVec 6) (b : BitVec 6) : Statement (.celpin y d a b) :=
  of_mkX _ _ _ _ _ _ rfl rfl false (priv_mkX rfl) (fun _ => rfl)
theorem celfree (y : BitVec 1) (d : BitVec 6) (a : BitVec 6) : Statement (.celfree y d a) :=
  of_mkX _ _ _ _ _ _ rfl rfl false (priv_mkX rfl) (fun _ => rfl)
theorem celfreeEvict (y : BitVec 1) (d : BitVec 6) (a : BitVec 6) : Statement (.celfreeEvict y d a) :=
  of_mkX _ _ _ _ _ _ rfl rfl true (priv_mkX rfl) (fun _ => rfl)
theorem celld (y : BitVec 1) (d : BitVec 6) (a : BitVec 6) : Statement (.celld y d a) :=
  of_mkX _ _ _ _ _ _ rfl rfl false (priv_mkX rfl) (fun _ => rfl)
theorem celst (y : BitVec 1) (d : BitVec 6) (a : BitVec 6) : Statement (.celst y d a) :=
  of_mkX _ _ _ _ _ _ rfl rfl false (priv_mkX rfl) (fun _ => rfl)
theorem celz (y : BitVec 1) (d : BitVec 6) (a : BitVec 6) : Statement (.celz y d a) :=
  of_mkX _ _ _ _ _ _ rfl rfl false (priv_mkX rfl) (fun _ => rfl)
theorem delta (y : BitVec 1) (d : BitVec 6) (a : BitVec 6) : Statement (.delta y d a) :=
  of_mkX _ _ _ _ _ _ rfl rfl false (priv_mkX rfl) (fun _ => rfl)
theorem dqry (y : BitVec 1) (d : BitVec 6) (a : BitVec 6) : Statement (.dqry y d a) :=
  of_mkX _ _ _ _ _ _ rfl rfl false (priv_mkX rfl) (fun _ => rfl)
theorem agset (d : BitVec 6) (a : BitVec 6) : Statement (.agset d a) :=
  of_mkX _ _ _ _ _ _ rfl rfl false (priv_mkX rfl) (fun _ => rfl)
theorem agfree (y : BitVec 1) (d : BitVec 6) (a : BitVec 6) : Statement (.agfree y d a) :=
  of_mkX _ _ _ _ _ _ rfl rfl false (priv_mkX rfl) (fun _ => rfl)
theorem mst (y : BitVec 1) (d : BitVec 6) (a : BitVec 6) : Statement (.mst y d a) :=
  of_mkX _ _ _ _ _ _ rfl rfl false (priv_mkX rfl) (fun _ => rfl)
theorem mldr (y : BitVec 1) (d : BitVec 6) (a : BitVec 6) : Statement (.mldr y d a) :=
  of_mkX _ _ _ _ _ _ rfl rfl false (priv_mkX rfl) (fun _ => rfl)
theorem coll (y : BitVec 1) (d : BitVec 6) (a : BitVec 6) : Statement (.coll y d a) :=
  of_mkX _ _ _ _ _ _ rfl rfl false (priv_mkX rfl) (fun _ => rfl)
theorem collw (d : BitVec 6) (a : BitVec 6) : Statement (.collw d a) :=
  of_mkX _ _ _ _ _ _ rfl rfl false (priv_mkX rfl) (fun _ => rfl)
theorem flush : Statement (.flush) :=
  of_mkX _ _ _ _ _ _ rfl rfl false (by decide) (fun _ => rfl)
theorem launch (y : BitVec 1) (d : BitVec 6) (a : BitVec 6) (b : BitVec 6) : Statement (.launch y d a b) :=
  of_mkX _ _ _ _ _ _ rfl rfl false (priv_mkX rfl) (fun _ => rfl)
theorem launchd (y : BitVec 1) (d : BitVec 6) (a : BitVec 6) (b : BitVec 6) : Statement (.launchd y d a b) :=
  of_mkX _ _ _ _ _ _ rfl rfl false (priv_mkX rfl) (fun _ => rfl)
theorem join (d : BitVec 6) : Statement (.join d) :=
  of_mkX _ _ _ _ _ _ rfl rfl false (priv_mkX rfl) (fun _ => rfl)
theorem joinall (d : BitVec 6) : Statement (.joinall d) :=
  of_mkX _ _ _ _ _ _ rfl rfl false (priv_mkX rfl) (fun _ => rfl)
theorem tileq (d : BitVec 6) (a : BitVec 6) : Statement (.tileq d a) :=
  of_mkX _ _ _ _ _ _ rfl rfl false (priv_mkX rfl) (fun _ => rfl)
theorem cancel (y : BitVec 1) (d : BitVec 6) : Statement (.cancel y d) :=
  of_mkX _ _ _ _ _ _ rfl rfl false (priv_mkX rfl) (fun _ => rfl)
theorem qpush (y : BitVec 1) (d : BitVec 6) (a : BitVec 6) (b : BitVec 6) : Statement (.qpush y d a b) :=
  of_mkX _ _ _ _ _ _ rfl rfl false (priv_mkX rfl) (fun _ => rfl)
theorem timeq (d : BitVec 6) (a : BitVec 6) : Statement (.timeq d a) :=
  of_mkX _ _ _ _ _ _ rfl rfl false (priv_mkX rfl) (fun _ => rfl)
theorem tsig (y : BitVec 1) (d : BitVec 6) (a : BitVec 6) (b : BitVec 6) : Statement (.tsig y d a b) :=
  of_mkX _ _ _ _ _ _ rfl rfl false (priv_mkX rfl) (fun _ => rfl)
theorem scoreboardLand (gid : Nat) (sb : Nat) : Statement (.scoreboardLand gid sb) := of_event rfl rfl
theorem storeQueueDrain (gid : Nat) : Statement (.storeQueueDrain gid) := of_event rfl rfl
theorem storeAck (id : Nat) : Statement (.storeAck id) := of_event rfl rfl
theorem remoteAccess (pkt : Nat) : Statement (.remoteAccess pkt) := of_event rfl rfl
theorem fabricResponse (pkt : Nat) : Statement (.fabricResponse pkt) := of_event rfl rfl
theorem impreciseFault : Statement (.impreciseFault) := of_event rfl rfl
theorem spill (gid : Nat) (split : Nat) : Statement (.spill gid split) := of_event rfl rfl
theorem fill (gid : Nat) (split : Nat) : Statement (.fill gid split) := of_event rfl rfl
theorem haltComplete (crew : Nat) : Statement (.haltComplete crew) := of_event rfl rfl
theorem eventDelivery (pkg : Nat) (core : Nat) : Statement (.eventDelivery pkg core) := of_event rfl rfl
theorem preqWrite (a : BitVec 6) (hi : BitVec 1) (ann : Ann) : Statement (.preqWrite a hi ann) :=
  of_mkR1 0xC2 _ _ _ _ _ rfl rfl (by decide) rfl true (priv_mkR rfl rfl) (by intro h l2; rcases bit_cases hi with rfl | rfl <;> simp [decodeOp, decodeC])
theorem graceExpiry (crew : Nat) : Statement (.graceExpiry crew) := of_event rfl rfl
theorem watchdog (gid : Nat) (split : Nat) : Statement (.watchdog gid split) := of_event rfl rfl
theorem dsplitWrite (a : BitVec 6) (ann : Ann) : Statement (.dsplitWrite a ann) :=
  of_mkR1 0xC2 _ _ _ _ _ rfl rfl (by decide) rfl true (priv_mkR rfl rfl) (fun _ _ => rfl)
theorem dsplitDone (pkg : Nat) (die : Nat) : Statement (.dsplitDone pkg die) := of_event rfl rfl
theorem timelRead (d : BitVec 6) (ann : Ann) : Statement (.timelRead d ann) :=
  of_mkR1 0xC1 _ _ _ _ _ rfl rfl (by decide) rfl true (priv_mkR rfl rfl) (fun _ _ => rfl)
theorem ctxerrRead (d : BitVec 6) (ann : Ann) : Statement (.ctxerrRead d ann) :=
  of_mkR1 0xC1 _ _ _ _ _ rfl rfl (by decide) rfl true (priv_mkR rfl rfl) (fun _ _ => rfl)
theorem childStart (tile : Nat) (k : Nat) : Statement (.childStart tile k) := of_event rfl rfl
theorem dependenceEntry (tile : Nat) (k : Nat) : Statement (.dependenceEntry tile k) := of_event rfl rfl
theorem childRelaunch (tile : Nat) (k : Nat) : Statement (.childRelaunch tile k) := of_event rfl rfl
theorem tileComplete (tile : Nat) : Statement (.tileComplete tile) := of_event rfl rfl
theorem sleepWake (gid : Nat) (split : Nat) : Statement (.sleepWake gid split) := of_event rfl rfl
theorem tsigFire (crew : Nat) (n : Nat) : Statement (.tsigFire crew n) := of_event rfl rfl
theorem copyArrival (cmd : Nat) : Statement (.copyArrival cmd) := of_event rfl rfl
theorem streamSlotDone (stream : Nat) : Statement (.streamSlotDone stream) := of_event rfl rfl
theorem streamFault (stream : Nat) : Statement (.streamFault stream) := of_event rfl rfl
theorem matrixArrival (cmd : Nat) : Statement (.matrixArrival cmd) := of_event rfl rfl
theorem portValueLand (gid : Nat) (port : Nat) (lane : Nat) : Statement (.portValueLand gid port lane) := of_event rfl rfl
theorem portPark (gid : Nat) (split : Nat) : Statement (.portPark gid split) := of_event rfl rfl
theorem portDeadlock (gid : Nat) : Statement (.portDeadlock gid) := of_event rfl rfl
theorem fabricArrival (cmd : Nat) : Statement (.fabricArrival cmd) := of_event rfl rfl
theorem switchContribution (cmd : Nat) : Statement (.switchContribution cmd) := of_event rfl rfl
theorem tupleTimeout (grp : Nat) (seq : Nat) : Statement (.tupleTimeout grp seq) := of_event rfl rfl
theorem collStepTimeout (cmd : Nat) : Statement (.collStepTimeout cmd) := of_event rfl rfl
theorem fabricPacketExpiry (pkt : Nat) : Statement (.fabricPacketExpiry pkt) := of_event rfl rfl
theorem linkFailure (pkg : Nat) (plane : Nat) (what : Nat) : Statement (.linkFailure pkg plane what) := of_event rfl rfl
theorem kick (pkg : Nat) (ctx : Nat) (slot : Nat) (w : Nat) : Statement (.kick pkg ctx slot w) := of_event rfl rfl
theorem nopPacket (pkg : Nat) (q : Nat) : Statement (.nopPacket pkg q) := of_event rfl rfl
theorem launchPacket (pkg : Nat) (q : Nat) (core : Nat) : Statement (.launchPacket pkg q core) := of_event rfl rfl
theorem gangPacket (pkg : Nat) (q : Nat) : Statement (.gangPacket pkg q) := of_event rfl rfl
theorem waitPacket (pkg : Nat) (q : Nat) : Statement (.waitPacket pkg q) := of_event rfl rfl
theorem waitPacketPoll (pkg : Nat) (q : Nat) (idx : Nat) : Statement (.waitPacketPoll pkg q idx) := of_event rfl rfl
theorem signalPacket (pkg : Nat) (q : Nat) : Statement (.signalPacket pkg q) := of_event rfl rfl
theorem signalAck (pkg : Nat) (q : Nat) (idx : Nat) : Statement (.signalAck pkg q idx) := of_event rfl rfl
theorem timestampPacket (pkg : Nat) (q : Nat) : Statement (.timestampPacket pkg q) := of_event rfl rfl
theorem reserve (gang : Nat) (part : Nat) (core : Nat) : Statement (.reserve gang part core) := of_event rfl rfl
theorem held (gang : Nat) (part : Nat) : Statement (.held gang part) := of_event rfl rfl
theorem gangNo (gang : Nat) (part : Nat) : Statement (.gangNo gang part) := of_event rfl rfl
theorem commit (gang : Nat) (part : Nat) : Statement (.commit gang part) := of_event rfl rfl
theorem release (gang : Nat) (part : Nat) : Statement (.release gang part) := of_event rfl rfl
theorem reserveTimerExpiry (gang : Nat) : Statement (.reserveTimerExpiry gang) := of_event rfl rfl
theorem holdTimerExpiry (gang : Nat) (part : Nat) : Statement (.holdTimerExpiry gang part) := of_event rfl rfl
theorem backoffExpiry (gang : Nat) : Statement (.backoffExpiry gang) := of_event rfl rfl
theorem gangPartStart (gang : Nat) (part : Nat) : Statement (.gangPartStart gang part) := of_event rfl rfl
theorem rdmaWrite (pkg : Nat) (ctx : Nat) (hnd : Nat) (off : Nat) (data : List Byte) : Statement (.rdmaWrite pkg ctx hnd off data) := of_event rfl rfl
theorem rdmaRead (pkg : Nat) (ctx : Nat) (hnd : Nat) (off : Nat) (len : Nat) : Statement (.rdmaRead pkg ctx hnd off len) := of_event rfl rfl
theorem rdmaNak (pkg : Nat) (kind : Nat) : Statement (.rdmaNak pkg kind) := of_event rfl rfl
theorem hmsgTimeout (cmd : Nat) : Statement (.hmsgTimeout cmd) := of_event rfl rfl
theorem query (pkg : Nat) (msg : List Byte) : Statement (.query pkg msg) := of_event rfl rfl
theorem setp (pkg : Nat) (msg : List Byte) : Statement (.setp pkg msg) := of_event rfl rfl
theorem setfloor (pkg : Nat) (msg : List Byte) : Statement (.setfloor pkg msg) := of_event rfl rfl
theorem cleartrip (pkg : Nat) (msg : List Byte) : Statement (.cleartrip pkg msg) := of_event rfl rfl
theorem attest (pkg : Nat) (msg : List Byte) : Statement (.attest pkg msg) := of_event rfl rfl
theorem idkey (pkg : Nat) (msg : List Byte) : Statement (.idkey pkg msg) := of_event rfl rfl
theorem joinmem (pkg : Nat) (msg : List Byte) : Statement (.joinmem pkg msg) := of_event rfl rfl
theorem thermalTrip (pkg : Nat) : Statement (.thermalTrip pkg) := of_event rfl rfl
theorem powerOn (pkg : Nat) : Statement (.powerOn pkg) := of_event rfl rfl
theorem firmwareLoaded (pkg : Nat) (die : Nat) (image : List Byte) : Statement (.firmwareLoaded pkg die image) := of_event rfl rfl
theorem firmwareVerified (pkg : Nat) (die : Nat) : Statement (.firmwareVerified pkg die) := of_event rfl rfl
theorem stackTrainingDone (pkg : Nat) (stack : Nat) (pass : Bool) : Statement (.stackTrainingDone pkg stack pass) := of_event rfl rfl
theorem dieLinksUp (pkg : Nat) (die : Nat) : Statement (.dieLinksUp pkg die) := of_event rfl rfl
theorem thermalCalibrationDone (pkg : Nat) : Statement (.thermalCalibrationDone pkg) := of_event rfl rfl
theorem coreReset (pkg : Nat) (core : Nat) : Statement (.coreReset pkg core) := of_event rfl rfl
theorem dieReset (pkg : Nat) (die : Nat) : Statement (.dieReset pkg die) := of_event rfl rfl
theorem packageReset (pkg : Nat) : Statement (.packageReset pkg) := of_event rfl rfl
theorem powerCycle (pkg : Nat) : Statement (.powerCycle pkg) := of_event rfl rfl
theorem softError (kind : Nat) (addr : Nat) (idx : Nat) (corrected : Bool) : Statement (.softError kind addr idx corrected) := of_event rfl rfl
theorem podTimeSyncChange (pkg : Nat) (sync : Bool) (skew : Bool) : Statement (.podTimeSyncChange pkg sync skew) := of_event rfl rfl
theorem packageReachable (pkg : Nat) (plane : Nat) : Statement (.packageReachable pkg plane) := of_event rfl rfl

end Sys2Proof.Laws.RoundTrip
end

