-- ==== Sys2Proof/Laws/Shared.lean ====
section
/-! SUPPORT. The results of the shared operations over registers: typed, untyped, scalar, predOp. -/

namespace Sys2Proof.Machine

/-- The shared operation of the typed integer instructions (R247). -/
theorem typed_lane {i : Instr} {d : BitVec 6} {xs : List (BitVec 6)} {exact : Bool} {f : Group → Nat → Int}
    (he : ∀ s, exec i s = typed i s d xs exact f) :
    LaneResult i (intMode (d :: xs)) d.toNat (fun s l => elemWords s.g.et (bring s.g.et (s.g.satM && !exact) (f s.g l))) := by
  refine laneResult_of (lat := fun _ => latInt) (ok := fun s => intLegal s && pairsEven s (d :: xs)) ?_ ?_
  · intro s h
    simpa [intMode, intLegal, pairsEven] using h
  · intro s _
    rw [he, typed]
    simp only [Group.setElem_putV]; rfl
/-- The same with the words named otherwise. -/
theorem typed_result {i : Instr} {d : BitVec 6} {xs : List (BitVec 6)} {exact : Bool} {f : Group → Nat → Int} {W : State → Nat → List Word}
    (he : ∀ s, exec i s = typed i s d xs exact f)
    (hW : ∀ s l, W s l = elemWords s.g.et (bring s.g.et (s.g.satM && !exact) (f s.g l))) :
    LaneResult i (intMode (d :: xs)) d.toNat W := by
  have : W = fun s l => elemWords s.g.et (bring s.g.et (s.g.satM && !exact) (f s.g l)) := by
    funext s l; exact hW s l
  rw [this]; exact typed_lane he

/-- The shared operation of the untyped instructions (R249). -/
theorem untyped_result {i : Instr} {d : BitVec 6} {f : Group → Nat → Word} {F : State → Nat → Word}
    (he : ∀ s, exec i s = untyped i s d f) (hF : ∀ s : State, s.issues i = true → ∀ l, f s.merged.g l = F s.merged l) :
    LaneResult i anyMode d.toNat (fun s l => [F s l]) := by
  intro s m hm hi hl
  have := laneResult_of (i := i) (legal := anyMode) (d := d.toNat) (words := fun s l => [f s.g l]) (lat := fun _ => latInt)
    (ok := fun _ => true) (fun _ _ => rfl) (fun s _ => by rw [he, untyped]; rfl) s m hm hi hl
  subst hm
  simpa only [hF s hi] using this

/-- The shared operation of the scalar instructions (R256). -/
theorem scalar_result {i : Instr} {d : BitVec 6} {f : Group → Word} {F : State → Word} (he : ∀ s, exec i s = scalar i s d f)
    (hF : ∀ s : State, f s.g = F s) : ScalarResult i anyMode d F :=
  scalarResult_of (lat := fun _ => latInt) (ok := fun _ => true) (fun _ _ => rfl) (fun s _ => by
      rw [he, scalar, issueG]; simp only [hF])
/-- The shared operation of predicate logic (R258). -/
theorem predOp_result {i : Instr} {d : BitVec 3} {f : Group → Nat → Bool} {F : State → Nat → Bool} (he : ∀ s, exec i s = predOp i s d f)
    (hF : ∀ (s : State) l, f s.g l = F s l) : PredResult i anyMode (fun s => s.g.actives) d F :=
    predResult_of (lat := fun _ => latInt)
      (ok := fun _ => true) (fun s => s.g.nodup_actives) (fun _ _ => rfl) (fun s _ => by
        have : F = fun s l => f s.g l := by funext s l; exact (hF s l).symm
        subst this
        rw [he, predOp]; rfl)

end Sys2Proof.Machine
end

