-- ==== Sys2Proof/Laws/Translate.lean ====
section
/-! SUPPORT. What translation answers where one leaf maps a whole span, whatever the TLB serves. -/

namespace Sys2Proof.Machine

/-- A walk reads memory alone: the TLB and the free values do not matter. -/
theorem State.walk_with (s : State) (tlb : List Tlb) (free pkg off n table : Nat) :
    ({ s with tlb := tlb, free := free } : State).walk pkg off n table = s.walk pkg off n table := by
  induction n generalizing table with
  | zero => rfl
  | succ n ih =>
    have hn : ({ s with tlb := tlb, free := free } : State).num = s.num := rfl
    have hq : ({ s with tlb := tlb, free := free } : State).poisonedAt = s.poisonedAt := rfl
    have hp : ({ s with tlb := tlb, free := free } : State).pkg = s.pkg := rfl
    simp only [State.walk, hn, hq, hp, ih]

/-- The lowest offset bit that level n + 1 of a walk reads. -/
def walkLow (n : Nat) : Nat :=
  match n with
  | 3 => 34
  | 2 => 30
  | 1 => 21
  | _ => 16

def walkHigh (n : Nat) : Nat :=
  match n with
  | 3 => 39
  | 2 => 33
  | 1 => 29
  | _ => 20

theorem State.walk_succ (s : State) (pkg o n table : Nat) :
    s.walk pkg o (n + 1) table =
      (let k := keyPkg pkg (table + 8 * field o (walkHigh n) (walkLow n))
       let e := s.num k 8
       let cap := (s.pkg pkg).capacity
       if s.poisonedAt k 8 then (none, some k)
       else if !flag e 0 || malformed cap n e then (none, none)
       else
         let addr := field e 47 12 * 2 ^ 12
         if flag e 1 then
           let base := o / 2 ^ walkLow n * 2 ^ walkLow n
           (if addr + 2 ^ walkLow n ≤ cap then (some ⟨base, 2 ^ walkLow n, addr, entryRights e⟩, none) else (none, none))
         else s.walk pkg o n addr) := by
  match n with
  | 0 | 1 | 2 | 3 | n + 4 => rfl

theorem walkLow_mono (n : Nat) (h : n < 4) : walkLow (n - 1) ≤ walkLow n := by
  match n, h with
  | 0, _ | 1, _ | 2, _ | 3, _ => decide

theorem div_pow_mono {a b k m : Nat} (h : a / 2 ^ k = b / 2 ^ k) (hk : k ≤ m) : a / 2 ^ m = b / 2 ^ m := by
  obtain ⟨d, rfl⟩ := Nat.exists_eq_add_of_le hk
  rw [Nat.pow_add, ← Nat.div_div_eq_div_mul, ← Nat.div_div_eq_div_mul, h]

/-- A leaf's page is the block of its offset of some size that the levels above do not read, and every offset of that block walks
to it. -/
theorem State.walk_page (s : State) (pkg off n table : Nat) (hn : n ≤ 4) (l : Leaf) (x : Option Nat)
    (h : s.walk pkg off n table = (some l, x)) :
    ∃ k, k ≤ walkLow (n - 1) ∧ l.len = 2 ^ k ∧ l.base = off / 2 ^ k * 2 ^ k ∧
      ∀ off', off' / 2 ^ k = off / 2 ^ k → s.walk pkg off' n table = (some l, x) := by
  induction n generalizing table with
  | zero => simp [State.walk] at h
  | succ n ih =>
    have hw := fun o => s.walk_succ pkg o n table
    have hf : ∀ o, o / 2 ^ walkLow n = off / 2 ^ walkLow n → ∀ hi, field o hi (walkLow n) = field off hi (walkLow n) := by
      intro o ho hi
      simp only [field, ho]
    rw [hw] at h
    simp only at h
    split at h
    · simp at h
    · split at h
      · simp at h
      · split at h
        · split at h
          · rename_i h1 h2 h3 h4
            obtain ⟨rfl, rfl⟩ := Prod.mk.inj h |>.imp Option.some.inj id
            refine ⟨walkLow n, Nat.le_refl _, rfl, rfl, fun off' ho => ?_⟩
            rw [hw]
            simp only [hf _ ho, ho]
            rw [if_neg h1, if_neg h2, if_pos h3, if_pos h4]
          · simp at h
        · rename_i h1 h2 h3
          obtain ⟨k, hk, hl, hb, hall⟩ := ih _ (by omega) h
          have hm : k ≤ walkLow n := Nat.le_trans hk (walkLow_mono n (by omega))
          refine ⟨k, hm, hl, hb, fun off' ho => ?_⟩
          have hd := div_pow_mono ho hm
          rw [hw]
          simp only [hf _ hd]
          rw [if_neg h1, if_neg h2, if_neg h3]
          exact hall off' ho

/-- The TLB entry of a leaf. -/
def Leaf.entry (l : Leaf) (pkg ctx : Nat) : Tlb := ⟨pkg, ctx, l.base, l.len, l.pa, l.rights⟩

/-- The state whose TLB is empty or holds the leaf alone. -/
def State.oneLeaf (s : State) (e : Tlb) (free : Nat) (b : Bool) : State := { s with tlb := if b then [e] else [], free := free }

/-- No handle table stands in a package's memory for a context (R120). -/
def State.noTable (s : State) (pkg ctx : Nat) : Bool := s.ctxField pkg ctx 0x18 8 == 0 && s.handles.isEmpty

theorem State.tableByte_none {s : State} {pkg ctx : Nat} (h : s.noTable pkg ctx = true) (pa : Nat) : s.tableByte pkg ctx pa = false := by
  simp only [State.noTable, Bool.and_eq_true, beq_iff_eq, List.isEmpty_iff] at h
  simp [State.tableByte, State.inHandleTable, h.1, h.2]

theorem State.translate_at (s : State) (l : Leaf) (pkg ctx off need free : Nat) (b : Bool) (live : s.ctxLive pkg ctx = true)
    (walk : s.walk pkg off 4 (s.ctxField pkg ctx 0x08 8) = (some l, none)) (lo : l.base ≤ off) (hi : off < l.base + l.len)
    (rights : l.rights &&& need = need) (table : s.noTable pkg ctx = true) :
    (s.oneLeaf (l.entry pkg ctx) free b).translate pkg ctx off need =
      (some (l.pa + (off - l.base)), s.oneLeaf (l.entry pkg ctx) (if b then free + 1 else free) true) := by
  have hl : (s.oneLeaf (l.entry pkg ctx) free b).ctxLive pkg ctx = true := live
  have ht : ∀ f c pa, (s.oneLeaf (l.entry pkg ctx) f c).tableByte pkg ctx pa = false := fun _ _ pa => State.tableByte_none (s := s) table pa
  have hw : ∀ f, (s.oneLeaf (l.entry pkg ctx) f b).walk pkg off 4 ((s.oneLeaf (l.entry pkg ctx) f b).ctxField pkg ctx 0x08 8) = (some l, none) :=
    fun f => (s.walk_with _ f pkg off 4 _).trans walk
  cases b
  · have h := hw free
    have hf : (s.oneLeaf (l.entry pkg ctx) free false).tlb.find? (fun t => t.pkg == pkg && t.ctx == ctx && decide (t.base ≤ off) && decide (off < t.base + t.len))
        = none := rfl
    have hc : (s.oneLeaf (l.entry pkg ctx) free false).tlb.contains ⟨pkg, ctx, l.base, l.len, l.pa, l.rights⟩ = false := rfl
    unfold State.translate
    simp only [hl, Bool.not_true, Bool.false_eq_true, if_false, hf, Option.isSome_none, h, hc]
    have e : ∀ u : State, u = s.oneLeaf (l.entry pkg ctx) free true →
        u.allow pkg ctx (l.pa + (off - l.base)) l.rights need = some (l.pa + (off - l.base)) := by
      rintro u rfl; simp [State.allow, ht, rights]
    exact Prod.ext (e _ rfl) rfl
  · have h := hw (free + 1)
    unfold State.translate
    simp only [hl, Bool.not_true, Bool.false_eq_true, if_false]
    have hf : (s.oneLeaf (l.entry pkg ctx) free true).tlb.find? (fun t => t.pkg == pkg && t.ctx == ctx && decide (t.base ≤ off) && decide (off < t.base + t.len))
        = some (l.entry pkg ctx) := by simp [State.oneLeaf, Leaf.entry, lo, hi]
    have hp : (s.oneLeaf (l.entry pkg ctx) free true).pick 2 = (Config.freeNat free % 2, s.oneLeaf (l.entry pkg ctx) (free + 1) true) := rfl
    simp only [hf, Option.isSome_some, if_true, hp]
    split
    · rename_i e heq _
      obtain rfl := Option.some.inj heq
      have := ht (free + 1) true (l.pa + (off - l.base))
      simp only [Leaf.entry] at this
      simp [State.allow, this, Leaf.entry, rights]
    · simp only [h]
      have hc : (s.oneLeaf (l.entry pkg ctx) (free + 1) true).tlb.contains ⟨pkg, ctx, l.base, l.len, l.pa, l.rights⟩ = true := by
        simp [State.oneLeaf, Leaf.entry]
      simp only [hc, if_true, State.allow, ht, rights, and_self]

theorem State.translate_leaf (s : State) (l : Leaf) (pkg ctx off need free : Nat) (b : Bool) (live : s.ctxLive pkg ctx = true)
    (walk : s.walk pkg off 4 (s.ctxField pkg ctx 0x08 8) = (some l, none)) (lo : l.base ≤ off) (hi : off < l.base + l.len)
    (rights : l.rights &&& need = need) (table : s.noTable pkg ctx = true) :
    ∃ f, (s.oneLeaf (l.entry pkg ctx) free b).translate pkg ctx off need = (some (l.pa + (off - l.base)), s.oneLeaf (l.entry pkg ctx) f true) :=
  ⟨_, s.translate_at l pkg ctx off need free b live walk lo hi rights table⟩

/-- The next byte's key, after those of the bytes before it. -/
theorem State.spanKey_leaf (s : State) (l : Leaf) (pkg ctx off need n free : Nat) (b : Bool) (live : s.ctxLive pkg ctx = true)
    (walk : s.walk pkg (off + n) 4 (s.ctxField pkg ctx 0x08 8) = (some l, none)) (lo : l.base ≤ off) (hi : off + n < l.base + l.len)
    (rights : l.rights &&& need = need) (table : s.noTable pkg ctx = true) :
    ∃ f c, (s.oneLeaf (l.entry pkg ctx) free b).spanKey pkg ctx off need n ((List.range n).map fun j => keyPkg pkg (l.pa + (off + j - l.base))) =
      (some (keyPkg pkg (l.pa + (off + n - l.base))), s.oneLeaf (l.entry pkg ctx) f c) := by
  obtain ⟨f, h⟩ := s.translate_leaf l pkg ctx (off + n) need free b live walk (by omega) hi rights table
  unfold State.spanKey
  split
  · rename_i k hk _
    refine ⟨free, b, ?_⟩
    obtain ⟨m, rfl⟩ : ∃ m, n = m + 1 := by cases n with
      | zero => simp at hk
      | succ m => exact ⟨m, rfl⟩
    obtain rfl : keyPkg pkg (l.pa + (off + m - l.base)) = k := by simpa [List.range_succ] using hk
    have ht : (s.oneLeaf (l.entry pkg ctx) free b).tableByte pkg ctx ((keyPkg pkg (l.pa + (off + m - l.base)) + 1) % 2 ^ 48) = false :=
      State.tableByte_none (s := s) table _
    rw [if_neg (by rw [ht]; exact Bool.false_ne_true)]
    simp only [keyPkg, Prod.mk.injEq, Option.some.injEq, and_true]
    omega
  · exact ⟨f, true, by rw [h]⟩

theorem State.translateSpan_leaf (s : State) (l : Leaf) (pkg ctx off need n free : Nat) (b : Bool) (live : s.ctxLive pkg ctx = true)
    (walk : ∀ j < n, s.walk pkg (off + j) 4 (s.ctxField pkg ctx 0x08 8) = (some l, none)) (lo : l.base ≤ off) (hi : off + n ≤ l.base + l.len)
    (rights : l.rights &&& need = need) (table : s.noTable pkg ctx = true) :
    ∃ f c, (s.oneLeaf (l.entry pkg ctx) free b).translateSpan pkg ctx off need n =
      (some ((List.range n).map fun j => keyPkg pkg (l.pa + (off + j - l.base))), s.oneLeaf (l.entry pkg ctx) f c) := by
  induction n with
  | zero => exact ⟨free, b, rfl⟩
  | succ n ih =>
    obtain ⟨f, c, h⟩ := ih (fun j hj => walk j (by omega)) (by omega)
    obtain ⟨f', c', h'⟩ := s.spanKey_leaf l pkg ctx off need n f c live (walk n (by omega)) lo (by omega) rights table
    refine ⟨f', c', ?_⟩
    simp only [State.translateSpan, h, h', List.range_succ, List.map_append, List.map_cons, List.map_nil]

/-- The test form: an empty TLB, a live context, and a leaf with the rights over n bytes. -/
def State.spanB (s : State) (l : Leaf) (pkg ctx off need n : Nat) : Bool :=
  s.tlb.isEmpty && s.ctxLive pkg ctx && decide (l.base ≤ off) && decide (off + n ≤ l.base + l.len) && (l.rights &&& need == need) &&
  s.noTable pkg ctx && s.walk pkg off 4 (s.ctxField pkg ctx 0x08 8) == (some l, none)

/-- Every offset of the span walks to the leaf. -/
theorem State.walk_span (s : State) (l : Leaf) (pkg off n table : Nat) (lo : l.base ≤ off) (hi : off + n ≤ l.base + l.len)
    (walk : s.walk pkg off 4 table = (some l, none)) : ∀ j < n, s.walk pkg (off + j) 4 table = (some l, none) := by
  obtain ⟨k, -, hl, hb, hall⟩ := s.walk_page pkg off 4 _ (by decide) l none walk
  refine fun j hj => hall _ ?_
  have hp := Nat.two_pow_pos k
  rw [hl, hb] at hi
  rw [hb] at lo
  have := Nat.div_add_mod off (2 ^ k)
  rw [Nat.mul_comm] at this
  refine Nat.div_eq_of_lt_le (by omega) ?_
  rw [Nat.add_mul, Nat.one_mul]
  omega

theorem State.spanB_iff {s : State} {l : Leaf} {pkg ctx off need n : Nat} (h : s.spanB l pkg ctx off need n = true) :
    s.oneLeaf (l.entry pkg ctx) s.free false = s ∧ s.ctxLive pkg ctx = true ∧ l.base ≤ off ∧ off + n ≤ l.base + l.len ∧ l.rights &&& need = need ∧
      s.noTable pkg ctx = true ∧ s.walk pkg off 4 (s.ctxField pkg ctx 0x08 8) = (some l, none) := by
  simp only [State.spanB, Bool.and_eq_true, List.isEmpty_iff, decide_eq_true_eq, beq_iff_eq] at h
  obtain ⟨⟨⟨⟨⟨⟨ht, live⟩, lo⟩, hi⟩, rights⟩, table⟩, walk⟩ := h
  refine ⟨?_, live, lo, hi, rights, table, walk⟩
  cases s; simp only [State.oneLeaf] at *; simp [ht]

/-- The keys of a span, after the TLB has served it once or not at all. -/
theorem State.span_leaf {s : State} {l : Leaf} {pkg ctx off need n : Nat} (h : s.spanB l pkg ctx off need n = true) (free : Nat) (b : Bool) :
    ∃ f c, (s.oneLeaf (l.entry pkg ctx) free b).translateSpan pkg ctx off need n =
      (some ((List.range n).map fun j => keyPkg pkg (l.pa + (off + j - l.base))), s.oneLeaf (l.entry pkg ctx) f c) := by
  obtain ⟨-, live, lo, hi, rights, table, walk⟩ := State.spanB_iff h
  exact s.translateSpan_leaf l pkg ctx off need n free b live (s.walk_span l pkg off n _ lo hi walk) lo hi rights table

theorem State.span_of {s : State} {l : Leaf} {pkg ctx off need n : Nat} (h : s.spanB l pkg ctx off need n = true) :
    ∃ f c, s.translateSpan pkg ctx off need n =
      (some ((List.range n).map fun j => keyPkg pkg (l.pa + (off + j - l.base))), s.oneLeaf (l.entry pkg ctx) f c) := by
  obtain ⟨f, c, e⟩ := State.span_leaf h s.free false
  rw [(State.spanB_iff h).1] at e
  exact ⟨f, c, e⟩

/-- A structure of n bytes read with read rights, after the TLB has served the page or not. -/
theorem State.fetch_at {s : State} {l : Leaf} {g : Group} {va pkg off n : Nat} (place : s.place g va = some (.home pkg off)) (h : s.spanB l pkg g.ctx off 1 n = true)
    (hn : 0 < n) (poison : s.poison = []) (free : Nat) (b : Bool) :
    (s.oneLeaf (l.entry pkg g.ctx) free b).fetchStruct g va n =
      (some (s.bytes (keyPkg pkg (l.pa + (off - l.base))) n), s.oneLeaf (l.entry pkg g.ctx) (if b then free + 1 else free) true) := by
  obtain ⟨-, live, lo, hi, rights, table, walk⟩ := State.spanB_iff h
  have e := s.translate_at l pkg g.ctx off 1 free b live walk lo (by omega) rights table
  have walk' := s.walk_span l pkg off n _ lo hi walk (n - 1) (by omega)
  rw [show off + (n - 1) = off + n - 1 by omega] at walk'
  obtain ⟨f', e'⟩ := s.translate_leaf l pkg g.ctx (off + n - 1) 1 free b live walk' (by omega) (by omega) rights table
  have hp : (s.oneLeaf (l.entry pkg g.ctx) free b).place g va = some (.home pkg off) := place
  have hq : ∀ k m, (s.oneLeaf (l.entry pkg g.ctx) (if b then free + 1 else free) true).poisonedAt k m = false := fun k m => by
    show (!s.poison.isEmpty && _) = false
    rw [poison]; rfl
  have hm : l.pa + (off + n - 1 - l.base) = l.pa + (off - l.base) + (n - 1) := by omega
  unfold State.fetchStruct
  simp only [hp, e, e', hm, or_true, if_true, hq, Bool.or_self, Bool.false_eq_true, if_false]
  show (some (s.bytes _ n ++ s.bytes _ (n - n)), _) = _
  simp [State.bytes]

theorem State.fetch_leaf {s : State} {l : Leaf} {g : Group} {va pkg off n : Nat} (place : s.place g va = some (.home pkg off)) (h : s.spanB l pkg g.ctx off 1 n = true)
    (hn : 0 < n) (poison : s.poison = []) (free : Nat) (b : Bool) :
    ∃ f, (s.oneLeaf (l.entry pkg g.ctx) free b).fetchStruct g va n = (some (s.bytes (keyPkg pkg (l.pa + (off - l.base))) n), s.oneLeaf (l.entry pkg g.ctx) f true) :=
  ⟨_, State.fetch_at place h hn poison free b⟩

end Sys2Proof.Machine
end

