-- ==== Sys2Proof/Tests/Decode0.lean ====
section
/-! SUPPORT. Tests of the decoder: a word of every instruction, laid out from the encoding tables of the spec (R214 to R225). -/

namespace Sys2Proof.Tests

set_option Elab.async false

open Sys2Proof

/-- The word w with the literals l1 and l2 decodes to the instruction. -/
def reads (slot : Bool) (w l1 l2 : Word) (i : Instr) : Bool := decide ((decode slot w l1 l2).toOption = some i)

/-- The word w names no instruction, for the reason e. -/
def refuses (slot : Bool) (w : Word) (e : DecodeError) : Bool :=
  match decode slot w 0 0 with
  | .error x => decide (x = e)
  | .ok _ => false

theorem test_decode_control : ([
  reads false 0x06043029 0xFFFFFFFE 0 (.braL 1 3 0xFFFFFFFE ⟨2, 9⟩),
  reads false 0x081C0029 0x00000010 0 (.call 7 0x10 ⟨2, 9⟩),
  reads false 0x0F54A029 0x0000FFFF 0x80000001 (.phint 21 10 0xFFFF 0x80000001 ⟨2, 9⟩),
  reads false 0x00000029 0 0 (.nop ⟨2, 9⟩),
  reads false 0x00040029 0 0 (.yield ⟨2, 9⟩),
  reads false 0x012D2D29 0 0 (.setm 2960681),
  reads false 0x022D2D29 0 0 (.setmh 2960681),
  reads false 0x03540029 0 0 (.getm 21 ⟨2, 9⟩),
  reads false 0x0454A029 0 0 (.gets 21 10 ⟨2, 9⟩),
  reads false 0x05ABCDE9 0 0 (.braJ 703710 9),
  reads false 0x0700A029 0 0 (.brx 10 ⟨2, 9⟩),
  reads false 0x0954A029 0 0 (.callx 21 10 ⟨2, 9⟩),
  reads false 0x0A540029 0 0 (.ret 21 ⟨2, 9⟩),
  reads false 0x0B000029 0 0 (.exit ⟨2, 9⟩),
  reads false 0x0C000A69 0 0 (.trap 41 ⟨2, 9⟩),
  reads false 0x0C040A69 0 0 (.brk 41 ⟨2, 9⟩),
  reads false 0x0D04A029 0 0 (.wait 1 10 ⟨2, 9⟩),
  reads false 0x0E00A029 0 0 (.sleep 10 ⟨2, 9⟩)] : List Bool).all id = true := by decide +kernel

theorem test_decode_integer : ([
  reads false 0x1254A029 0x00000D13 0 (.iaddc 21 10 19 5 1 ⟨2, 9⟩),
  reads false 0x2B54A029 0x08000000 0 (.bfx 21 10 0 32 ⟨2, 9⟩),
  reads false 0x2C54A029 0x01D90013 0 (.bfi 21 10 19 25 7 ⟨2, 9⟩),
  reads false 0x2E54A029 0x00000E13 0 (.sel 21 10 19 6 1 ⟨2, 9⟩),
  reads false 0x2F14A029 0x00005013 0 (.icmp 5 10 19 5 ⟨2, 9⟩),
  reads false 0x33540029 0xDEADBEEF 0 (.lit 21 0xDEADBEEF ⟨2, 9⟩),
  reads false 0x1054A4E9 0 0 (.iadd 21 10 19 ⟨2, 9⟩),
  reads false 0x1154A4E9 0 0 (.isub 21 10 19 ⟨2, 9⟩),
  reads false 0x1354A4E9 0 0 (.imul 21 10 19 ⟨2, 9⟩),
  reads false 0x1454A4E9 0 0 (.imulh 21 10 19 ⟨2, 9⟩),
  reads false 0x1554A4E9 0 0 (.imad 21 10 19 ⟨2, 9⟩),
  reads false 0x1654A029 0 0 (.ineg 21 10 ⟨2, 9⟩),
  reads false 0x1754A029 0 0 (.iabs 21 10 ⟨2, 9⟩),
  reads false 0x1854A4E9 0 0 (.imin 21 10 19 ⟨2, 9⟩),
  reads false 0x1954A4E9 0 0 (.imax 21 10 19 ⟨2, 9⟩),
  reads false 0x1A54A4E9 0 0 (.and 21 10 19 ⟨2, 9⟩),
  reads false 0x1B54A4E9 0 0 (.or 21 10 19 ⟨2, 9⟩),
  reads false 0x1C54A4E9 0 0 (.xor 21 10 19 ⟨2, 9⟩),
  reads false 0x1D54A4E9 0 0 (.andn 21 10 19 ⟨2, 9⟩),
  reads false 0x1E54A029 0 0 (.not 21 10 ⟨2, 9⟩),
  reads false 0x1F54A4E9 0 0 (.shlR 21 10 19 ⟨2, 9⟩),
  reads false 0x2054A4E9 0 0 (.shrR 21 10 19 ⟨2, 9⟩),
  reads false 0x2154A4E9 0 0 (.shaR 21 10 19 ⟨2, 9⟩),
  reads false 0x2254A4E9 0 0 (.rolR 21 10 19 ⟨2, 9⟩),
  reads false 0x2354A269 0 0 (.shlI 21 10 9 ⟨2, 9⟩),
  reads false 0x2454A269 0 0 (.shrI 21 10 9 ⟨2, 9⟩),
  reads false 0x2554A269 0 0 (.shaI 21 10 9 ⟨2, 9⟩),
  reads false 0x2654A269 0 0 (.rolI 21 10 9 ⟨2, 9⟩),
  reads false 0x2754A269 0 0 (.fsh 21 10 9 ⟨2, 9⟩),
  reads false 0x2854A029 0 0 (.popc 21 10 ⟨2, 9⟩),
  reads false 0x2954A029 0 0 (.clz 21 10 ⟨2, 9⟩),
  reads false 0x2A54A029 0 0 (.brev 21 10 ⟨2, 9⟩),
  reads false 0x2D54A4E9 0 0 (.bperm 21 10 19 ⟨2, 9⟩),
  reads false 0x3054AA69 0 0 (.iaddi 21 10 41 ⟨2, 9⟩),
  reads false 0x3154A029 0 0 (.mov 21 10 ⟨2, 9⟩),
  reads false 0x32540A69 0 0 (.movi 21 41 ⟨2, 9⟩),
  reads false 0x3454A029 0 0 (.movs 21 10 ⟨2, 9⟩),
  reads false 0x3554AA69 0 0 (.movv 21 10 41 ⟨2, 9⟩),
  reads false 0x3654A4E9 0 0 (.lea 21 10 19 ⟨2, 9⟩)] : List Bool).all id = true := by decide +kernel

theorem test_decode_scalar : ([
  reads false 0x4814A029 0x00002013 0 (.scmp 5 10 19 2 ⟨2, 9⟩),
  reads false 0x4C540029 0xDEADBEEF 0 (.slitS 21 0xDEADBEEF ⟨2, 9⟩),
  reads false 0x4D140029 0xDEADBEEF 0 (.slitF 5 0xDEADBEEF ⟨2, 9⟩),
  reads false 0x4054A4E9 0 0 (.sadd 21 10 19 ⟨2, 9⟩),
  reads false 0x4154A4E9 0 0 (.ssub 21 10 19 ⟨2, 9⟩),
  reads false 0x4254A4E9 0 0 (.smul 21 10 19 ⟨2, 9⟩),
  reads false 0x4354A4E9 0 0 (.sand 21 10 19 ⟨2, 9⟩),
  reads false 0x4454A4E9 0 0 (.sor 21 10 19 ⟨2, 9⟩),
  reads false 0x4554A4E9 0 0 (.sxor 21 10 19 ⟨2, 9⟩),
  reads false 0x4654A4E9 0 0 (.sshl 21 10 19 ⟨2, 9⟩),
  reads false 0x4754A4E9 0 0 (.sshr 21 10 19 ⟨2, 9⟩),
  reads false 0x4954A029 0 0 (.smovSS 21 10 ⟨2, 9⟩),
  reads false 0x4A14A029 0 0 (.smovFS 5 10 ⟨2, 9⟩),
  reads false 0x4B542029 0 0 (.smovSF 21 2 ⟨2, 9⟩),
  reads false 0x501420E9 0 0 (.pand 5 2 3 ⟨2, 9⟩),
  reads false 0x511420E9 0 0 (.por 5 2 3 ⟨2, 9⟩),
  reads false 0x521420E9 0 0 (.pxor 5 2 3 ⟨2, 9⟩),
  reads false 0x53142029 0 0 (.pnot 5 2 ⟨2, 9⟩),
  reads false 0x54142029 0 0 (.pmov 5 2 ⟨2, 9⟩),
  reads false 0x5854A4E9 0 0 (.shfl 21 10 19 ⟨2, 9⟩),
  reads false 0x59542029 0 0 (.vote 21 2 ⟨2, 9⟩),
  reads false 0x5A54AA69 0 0 (.lred 21 10 41 ⟨2, 9⟩),
  reads false 0x5B54AA69 0 0 (.lscan 21 10 41 ⟨2, 9⟩),
  reads false 0x5C54A029 0 0 (.matchV 21 10 ⟨2, 9⟩),
  reads false 0x5D54A029 0 0 (.compact 21 10 ⟨2, 9⟩),
  reads false 0x5E14A4E9 0 0 (.regroup 5 10 19 ⟨2, 9⟩)] : List Bool).all id = true := by decide +kernel

theorem test_decode_float : ([
  reads false 0x6A14A029 0x00007013 0 (.fcmp 5 10 19 7 ⟨2, 9⟩),
  reads false 0x6054A4E9 0 0 (.fadd 21 10 19 ⟨2, 9⟩),
  reads false 0x6154A4E9 0 0 (.fsub 21 10 19 ⟨2, 9⟩),
  reads false 0x6254A4E9 0 0 (.fmul 21 10 19 ⟨2, 9⟩),
  reads false 0x6354A4E9 0 0 (.ffma 21 10 19 ⟨2, 9⟩),
  reads false 0x6454A4E9 0 0 (.fmin 21 10 19 ⟨2, 9⟩),
  reads false 0x6554A4E9 0 0 (.fmax 21 10 19 ⟨2, 9⟩),
  reads false 0x6654A4E9 0 0 (.fminn 21 10 19 ⟨2, 9⟩),
  reads false 0x6754A4E9 0 0 (.fmaxn 21 10 19 ⟨2, 9⟩),
  reads false 0x6854A029 0 0 (.fabs 21 10 ⟨2, 9⟩),
  reads false 0x6954A029 0 0 (.fneg 21 10 ⟨2, 9⟩),
  reads false 0x6B54A029 0 0 (.frcp 21 10 ⟨2, 9⟩),
  reads false 0x6C54A029 0 0 (.frsq 21 10 ⟨2, 9⟩),
  reads false 0x6D54A029 0 0 (.fsqrt 21 10 ⟨2, 9⟩),
  reads false 0x6E54A029 0 0 (.fex2 21 10 ⟨2, 9⟩),
  reads false 0x6F54A029 0 0 (.flg2 21 10 ⟨2, 9⟩),
  reads false 0x7054A029 0 0 (.fsin 21 10 ⟨2, 9⟩),
  reads false 0x7154A029 0 0 (.fcos 21 10 ⟨2, 9⟩),
  reads false 0x7254A029 0 0 (.ftanh 21 10 ⟨2, 9⟩),
  reads false 0x7354A4E9 0 0 (.fscl 21 10 19 ⟨2, 9⟩),
  reads false 0x7454A029 0 0 (.frnd 21 10 ⟨2, 9⟩),
  reads false 0x7554A029 0 0 (.fcls 21 10 ⟨2, 9⟩),
  reads false 0x7654A269 0 0 (.fcvt 21 10 9 ⟨2, 9⟩),
  reads false 0x7754A269 0 0 (.icvt 21 10 9 ⟨2, 9⟩),
  reads false 0x7854A4E9 0 0 (.tsum 21 10 19 ⟨2, 9⟩),
  reads false 0x7954A4E9 0 0 (.tprd 21 10 19 ⟨2, 9⟩),
  reads false 0x7A54A4E9 0 0 (.cmul 21 10 19 ⟨2, 9⟩),
  reads false 0x7B54A4E9 0 0 (.cfma 21 10 19 ⟨2, 9⟩),
  reads false 0x7C54A4E9 0 0 (.dot2 21 10 19 ⟨2, 9⟩),
  reads false 0x7D54A4E9 0 0 (.h2add 21 10 19 ⟨2, 9⟩),
  reads false 0x7E54A4E9 0 0 (.h2mul 21 10 19 ⟨2, 9⟩),
  reads false 0x7F54A4E9 0 0 (.h2fma 21 10 19 ⟨2, 9⟩),
  reads false 0x9054A4E9 0 0 (.qblk 21 10 19 ⟨2, 9⟩),
  reads false 0x9154A4E9 0 0 (.qcvt 21 10 19 ⟨2, 9⟩),
  reads false 0x9254A069 0 0 (.plsplit 21 10 1 ⟨2, 9⟩),
  reads false 0x9354A4E9 0 0 (.pljoin 21 10 19 ⟨2, 9⟩)] : List Bool).all id = true := by decide +kernel

theorem test_decode_memory : ([
  reads false 0x9950A029 0xFFFFFFFC 0 (.ldL 20 10 0xFFFFFFFC ⟨2, 9⟩),
  reads false 0x9B50A029 0xFFFFFFFC 0 (.stL 20 10 0xFFFFFFFC ⟨2, 9⟩),
  reads false 0x9E54A029 0x00006013 0 (.atom 21 10 19 6 ⟨2, 9⟩),
  reads false 0xA000A029 0x00005013 0 (.red 10 19 5 ⟨2, 9⟩),
  reads false 0x9854AA69 0 0 (.ldI 21 10 41 ⟨2, 9⟩),
  reads false 0x9A54AA69 0 0 (.stI 21 10 41 ⟨2, 9⟩),
  reads false 0x9C54A4E9 0 0 (.ldl 21 10 19 ⟨2, 9⟩),
  reads false 0x9D54A4E9 0 0 (.stl 21 10 19 ⟨2, 9⟩),
  reads false 0x9F54A4E9 0 0 (.atomc 21 10 19 ⟨2, 9⟩),
  reads false 0xA1000029 0 0 (.fence ⟨2, 9⟩),
  reads false 0xA200AA69 0 0 (.cctl 10 41 ⟨2, 9⟩),
  reads false 0xA354AA69 0 0 (.lalloc 21 10 41 ⟨2, 9⟩),
  reads false 0xA454AA69 0 0 (.lfree 21 10 41 ⟨2, 9⟩),
  reads false 0xA554A029 0 0 (.tlmake 21 10 ⟨2, 9⟩),
  reads false 0xA654A029 0 0 (.tldrop 21 10 ⟨2, 9⟩),
  reads false 0xA754AA69 0 0 (.tlqry 21 10 41 ⟨2, 9⟩)] : List Bool).all id = true := by decide +kernel

theorem test_decode_barrier : ([
  reads false 0xB054A069 0 0 (.binit 21 10 1 ⟨2, 9⟩),
  reads false 0xB154A4E9 0 0 (.blink 21 10 19 ⟨2, 9⟩),
  reads false 0xB200A069 0 0 (.bara 10 1 ⟨2, 9⟩),
  reads false 0xB354A069 0 0 (.barw 21 10 1 ⟨2, 9⟩),
  reads false 0xB454A069 0 0 (.baraw 21 10 1 ⟨2, 9⟩),
  reads false 0xB554A069 0 0 (.bart 21 10 1 ⟨2, 9⟩),
  reads false 0xB654A069 0 0 (.barx 21 10 1 ⟨2, 9⟩),
  reads false 0xB800A069 0 0 (.push 10 1 ⟨2, 9⟩),
  reads false 0xB900A069 0 0 (.pushr 10 1 ⟨2, 9⟩),
  reads false 0xBA540069 0 0 (.pop 21 1 ⟨2, 9⟩),
  reads false 0xBB540069 0 0 (.peek 21 1 ⟨2, 9⟩),
  reads false 0xBC540069 0 0 (.pqry 21 1 ⟨2, 9⟩),
  reads false 0xBD54A069 0 0 (.plink 21 10 1 ⟨2, 9⟩),
  reads false 0xBD540269 0 0 (.plinkUnlink 21 1 ⟨2, 9⟩)] : List Bool).all id = true := by decide +kernel

theorem test_decode_privileged : ([
  reads true 0xC1540029 0x00002000 0 (.csrr 21 0x2000 ⟨2, 9⟩),
  reads true 0xC1540029 0x00002002 0 (.timelRead 21 ⟨2, 9⟩),
  reads true 0xC1540029 0x0000000B 0 (.ctxerrRead 21 ⟨2, 9⟩),
  reads true 0xC200A029 0x00000003 0 (.csrw 10 3 ⟨2, 9⟩),
  reads true 0xC200A029 0x00000008 0 (.preqWrite 10 0 ⟨2, 9⟩),
  reads true 0xC200A029 0x00000009 0 (.preqWrite 10 1 ⟨2, 9⟩),
  reads true 0xC200A029 0x00001000 0 (.dsplitWrite 10 ⟨2, 9⟩),
  reads true 0xC354A029 0x00000105 0 (.ctxrd 21 10 0x105 ⟨2, 9⟩),
  reads true 0xC454A029 0x00000105 0 (.ctxwr 21 10 0x105 ⟨2, 9⟩),
  reads true 0xC0000029 0 0 (.tret ⟨2, 9⟩),
  reads true 0xC554A4E9 0 0 (.save 21 10 19 ⟨2, 9⟩),
  reads true 0xC654A4E9 0 0 (.rstr 21 10 19 ⟨2, 9⟩),
  reads true 0xC754A029 0 0 (.haltcr 21 10 ⟨2, 9⟩),
  reads true 0xC854A029 0 0 (.resume 21 10 ⟨2, 9⟩),
  reads true 0xC954A029 0 0 (.killcr 21 10 ⟨2, 9⟩),
  reads true 0xCA54A4E9 0 0 (.tlbinv 21 10 19 ⟨2, 9⟩),
  reads true 0xCB00AA69 0 0 (.cinv 10 41 ⟨2, 9⟩),
  reads true 0xCC54A4E9 0 0 (.tkt 21 10 19 ⟨2, 9⟩),
  reads true 0xCD54A4E9 0 0 (.hmsg 21 10 19 ⟨2, 9⟩),
  reads true 0xCE000029 0 0 (.idle ⟨2, 9⟩)] : List Bool).all id = true := by decide +kernel

theorem test_decode_engines : ([
  reads false 0xE02A9400 0 0 (.mcopy 1 21 10),
  reads false 0xE06A9400 0 0 (.ucopy 1 21 10),
  reads false 0xE0AA9400 0 0 (.gcopy 1 21 10),
  reads false 0xE0EA9400 0 0 (.reduce 1 21 10),
  reads false 0xE12A9498 0 0 (.cqry 21 10 19),
  reads false 0xE02A9499 0 0 (.vinit 1 21 10 19),
  reads false 0xE06A9401 0 0 (.vtake 21 10),
  reads false 0xE0AA9499 0 0 (.vput 1 21 10 19),
  reads false 0xE0EA9499 0 0 (.vqry 21 10 19),
  reads false 0xE12A9499 0 0 (.sfill 1 21 10 19),
  reads false 0xE16A9499 0 0 (.sdrain 1 21 10 19),
  reads false 0xE1AA9401 0 0 (.sstop 1 21 10),
  reads false 0xE02A949A 0 0 (.mma 1 21 10 19),
  reads false 0xE06A949A 0 0 (.mmac 1 21 10 19),
  reads false 0xE0800002 0 0 (.mfence),
  reads false 0xE0C01402 0 0 (.mwait 10),
  reads false 0xE12A9402 0 0 (.mqry 21 10),
  reads false 0xE02A9403 0 0 (.celget 21 10),
  reads false 0xE06A949B 0 0 (.celpin 1 21 10 19),
  reads false 0xE0AA9403 0 0 (.celfree 1 21 10),
  reads true 0xE0AA9403 0 0 (.celfreeEvict 1 21 10),
  reads false 0xE0EA9403 0 0 (.celld 1 21 10),
  reads false 0xE12A9403 0 0 (.celst 1 21 10),
  reads false 0xE16A9403 0 0 (.celz 1 21 10),
  reads false 0xE1AA9403 0 0 (.delta 1 21 10),
  reads false 0xE1EA9403 0 0 (.dqry 1 21 10),
  reads false 0xE02A9404 0 0 (.agset 21 10),
  reads false 0xE06A9404 0 0 (.agfree 1 21 10),
  reads false 0xE0AA9404 0 0 (.mst 1 21 10),
  reads false 0xE0EA9404 0 0 (.mldr 1 21 10),
  reads false 0xE12A9404 0 0 (.coll 1 21 10),
  reads false 0xE16A9404 0 0 (.collw 21 10),
  reads false 0xE1800004 0 0 (.flush),
  reads false 0xE02A949D 0 0 (.launch 1 21 10 19),
  reads false 0xE06A949D 0 0 (.launchd 1 21 10 19),
  reads false 0xE0AA8005 0 0 (.join 21),
  reads false 0xE0EA8005 0 0 (.joinall 21),
  reads false 0xE12A9405 0 0 (.tileq 21 10),
  reads false 0xE16A8005 0 0 (.cancel 1 21),
  reads false 0xE1AA949D 0 0 (.qpush 1 21 10 19),
  reads false 0xE02A9406 0 0 (.timeq 21 10),
  reads false 0xE06A949E 0 0 (.tsig 1 21 10 19)] : List Bool).all id = true := by decide +kernel

/-- R226 check 1: every unassigned primary opcode, engine 7 and an unassigned FN7 of each engine name no instruction. -/
theorem test_decode_unassigned : ([0x37, 0x3F, 0x4E, 0x4F, 0x55, 0x56, 0x57, 0x5F, 0x80, 0x8F, 0x94, 0x97, 0xA8, 0xAF, 0xB7, 0xBE, 0xBF, 0xCF, 0xD0, 0xDF].all fun op =>
    [false, true].all fun slot => (decode slot (BitVec.ofNat 32 (op * 2 ^ 24)) 0 0).toOption.isNone) = true := by decide +kernel
theorem test_decode_noCommand : ([0xE0000007, 0xFFFFFFFF, 0xE1600000, 0xE1C00001, 0xE1400002, 0xE2000003, 0xE1C00004, 0xE1C00005, 0xE0800006].all fun w =>
    (decode false (BitVec.ofNat 32 w) 0 0).toOption.isNone) = true := by decide +kernel

/-- R226 check 3: a res0 field, a high bit of a narrow field, an OL field that is not used, a Y that the class forbids. -/
theorem test_decode_res0 : ([(0x00080000, 0), (0x07040000, 0), (0x0D400000, 0), (0x23000800, 0), (0x2B000000, 0x00000001), (0x2B000000, 0x80400000), (0x2E000000, 0x00001000),
    (0x2F200000, 0x00000000), (0x2F000000, 0x00000800), (0x4A200000, 0), (0x92000400, 0), (0x9E000040, 0x00000000), (0xB2040000, 0), (0xB8000200, 0), (0xBD000400, 0),
    (0xBD001200, 0), (0xE1000000, 0), (0xE0A00002, 0), (0xE0E00002, 0), (0xE0800005, 0), (0xE0000008, 0)].all fun x =>
    (decode false (BitVec.ofNat 32 x.1) (BitVec.ofNat 32 x.2) 0).toOption.isNone) = true := by decide +kernel

/-- A privileged opcode outside the privileged slot is PRIV, its fields unchecked; CELFREE evicts in the privileged slot alone (R226, R420). -/
theorem test_decode_slot : refuses false 0xC0FFFFFF .priv = true ∧ refuses true 0xC0FFFFFF .illegal = true ∧
    reads false 0xE0A48803 0 0 (.celfree 1 9 4) = true ∧ reads true 0xE0A48803 0 0 (.celfreeEvict 1 9 4) = true := by decide +kernel

/-- The table's bit numbering: the second word's bits follow the first's. -/
theorem test_decodeTableWord : decodeTableWord 64 (0xDEADBEEF33000000 + 0x140000) = some (.lit 5 0xDEADBEEF ⟨0, 0⟩) ∧
    decodeTableWord 32 0xC0000000 = some (.tret ⟨0, 0⟩) := by decide +kernel

end Sys2Proof.Tests
end

