-- ==== Sys2Proof/Tests/Slice0.lean ====
section
/-! SUPPORT. Tests of WellFormed: an ill-formed term for each field rule, which the check refuses, beside a well-formed neighbour. -/

namespace Sys2Proof.Tests

set_option Elab.async false

open Sys2Proof

def z : Ann := ⟨0, 0⟩

/-- R56, R62, R219: SETMH above one bit, special registers and the pair of `sr.time`, shift fields, and the operands of WAIT. -/
theorem test_wf_control : ([.setmh 2, .gets 0 18 z, .gets 1 13 z, .brx 1 z, .call 0 0 z, .call 8 0 z, .callx 0 0 z, .callx 8 0 z, .callx 1 1 z,
    .ret 0 z, .ret 8 z, .wait 2 8 z, .wait 3 1 z, .sleep 1 z] : List Instr).all (fun i => !i.wf) = true ∧
    ([.setmh 1, .gets 1 17 z, .gets 2 13 z, .brx 2 z, .call 7 0 z, .callx 7 2 z, .ret 1 z, .wait 2 7 z, .wait 3 0 z, .wait 1 63 z, .sleep 2 z] : List Instr).all
      (fun i => i.wf) = true := by decide +kernel

/-- R218, R220, R221: pairs, OL ranges, comparisons, and the operations of LRED and LSCAN. -/
theorem test_wf_integer : ([.fsh 0 1 0 z, .bfx 0 0 0 0 z, .bfx 0 0 0 33 z, .bfx 0 0 1 32 z, .bfi 0 0 0 0 0 z, .bfi 0 0 0 31 2 z, .icmp 0 0 0 6 z,
    .lea 1 0 0 z, .lea 0 1 0 z, .scmp 0 0 0 6 z, .vote 1 0 z, .lred 0 0 6 z, .lscan 0 0 6 z, .lscan 0 0 16 z, .regroup 0 0 1 z] : List Instr).all
      (fun i => !i.wf) = true ∧
    ([.fsh 0 2 0 z, .bfx 0 0 0 32 z, .bfx 0 0 31 1 z, .bfi 0 0 0 24 8 z, .icmp 0 0 0 5 z, .lea 2 4 1 z, .scmp 0 0 0 5 z, .vote 2 0 z, .lred 0 0 5 z,
      .lscan 0 0 13 z, .regroup 0 0 2 z] : List Instr).all (fun i => i.wf) = true := by decide +kernel

/-- R222, R281: source types, pairs and the quad of CFMA. -/
theorem test_wf_float : ([.fcmp 0 0 0 8 z, .fcvt 0 0 20 z, .icvt 0 0 3 z, .icvt 0 0 12 z, .tsum 1 0 0 z, .tprd 1 0 0 z, .cmul 1 0 0 z, .cmul 0 1 0 z,
    .cmul 0 0 1 z, .cfma 2 0 0 z, .cfma 0 1 0 z, .cfma 0 0 1 z] : List Instr).all (fun i => !i.wf) = true ∧
    ([.fcmp 0 0 0 7 z, .fcvt 0 0 19 z, .icvt 0 0 11 z, .tsum 2 1 1 z, .tprd 2 1 1 z, .cmul 2 4 6 z, .cfma 4 2 6 z] : List Instr).all
      (fun i => i.wf) = true := by decide +kernel

/-- R218, R223: address pairs, atomic operations, levels, cache operations, barrier status pairs and ports. -/
theorem test_wf_memory : ([.ldI 0 1 0 z, .ldL 0 1 0 z, .stI 0 1 0 z, .stL 0 1 0 z, .atom 0 1 0 0 z, .atom 0 0 0 7 z, .atomc 0 1 0 z, .red 1 0 0 z, .red 0 0 6 z,
    .cctl 1 0 z, .cctl 0 5 z, .lalloc 0 0 0 z, .lalloc 0 0 4 z, .lfree 0 0 0 z, .lfree 0 0 4 z, .tlmake 0 1 z, .tlqry 0 0 17 z, .barw 1 0 0 z, .baraw 1 0 0 z,
    .bart 1 0 0 z, .push 0 6 z, .pushr 0 6 z, .pop 0 6 z, .peek 0 6 z, .pqry 0 6 z, .plink 0 0 6 z, .plinkUnlink 0 6 z] : List Instr).all (fun i => !i.wf) = true ∧
    ([.ldI 1 2 0 z, .ldL 1 2 0 z, .stI 1 2 0 z, .stL 1 2 0 z, .atom 0 2 1 6 z, .atomc 1 2 1 z, .red 2 1 5 z, .cctl 2 4 z, .lalloc 0 0 3 z, .lfree 0 0 1 z,
      .tlmake 1 2 z, .tlqry 0 0 16 z, .barw 2 1 0 z, .baraw 2 1 0 z, .bart 2 1 7 z, .push 0 5 z, .pushr 0 5 z, .pop 0 5 z, .peek 0 5 z, .pqry 0 5 z, .plink 0 0 5 z,
      .plinkUnlink 0 5 z] : List Instr).all (fun i => i.wf) = true := by decide +kernel

/-- R224, R364: pairs and CINV operations; the CSR numbers that are rows of their own. -/
theorem test_wf_privileged : ([.csrr 0 0x2002 z, .csrr 0 0x000B z, .csrw 0 0x0008 z, .csrw 0 0x0009 z, .csrw 0 0x1000 z, .save 0 0 1 z, .rstr 0 0 1 z,
    .tlbinv 0 1 0 z, .cinv 1 0 z, .cinv 0 4 z, .tkt 0 1 0 z, .hmsg 0 1 0 z] : List Instr).all (fun i => !i.wf) = true ∧
    ([.csrr 0 0x2003 z, .csrw 0 0x0007 z, .save 1 1 2 z, .rstr 1 1 2 z, .tlbinv 0 2 1 z, .cinv 2 3 z, .tkt 0 2 1 z, .hmsg 0 2 1 z] : List Instr).all
      (fun i => i.wf) = true := by decide +kernel

/-- R225: D is res0 with Y = 0, and pairs of the engines. -/
theorem test_wf_engines : ([.mcopy 0 1 0, .mcopy 0 0 1, .ucopy 0 1 0, .ucopy 0 0 1, .gcopy 0 1 0, .gcopy 0 0 1, .reduce 0 1 0, .reduce 0 0 1, .vinit 0 1 0 0,
    .vinit 0 0 0 1, .vput 0 1 0 0, .sfill 0 1 0 0, .sdrain 0 1 0 0, .sstop 0 1 0, .mma 0 1 0 0, .mmac 0 1 0 0, .celpin 0 1 0 0, .celfree 0 1 0, .celfreeEvict 0 1 0,
    .celld 0 1 0, .celst 0 1 0, .celz 0 1 0, .delta 0 1 0, .dqry 0 1 0, .agset 0 1, .agfree 0 1 0, .mst 0 1 0, .mst 0 0 1, .mldr 0 1 0, .mldr 0 0 1, .coll 0 1 0,
    .coll 0 0 1, .collw 0 1, .launch 0 1 0 0, .launch 0 0 0 1, .launchd 0 1 0 0, .launchd 0 0 0 2, .cancel 0 1, .qpush 0 1 0 0, .qpush 0 0 0 1, .tsig 0 1 0 0,
    .tsig 0 0 1 0] : List Instr).all (fun i => !i.wf) = true ∧
    ([.mcopy 1 1 2, .ucopy 0 0 2, .gcopy 1 63 62, .reduce 0 0 0, .vinit 1 1 1 2, .vput 1 1 1 1, .sfill 0 0 1 1, .sdrain 1 1 1 1, .sstop 1 1 1, .mma 1 1 1 1,
      .mmac 0 0 1 1, .celpin 1 1 1 1, .celfree 1 1 1, .celld 1 1 1, .celst 0 0 1, .celz 1 1 1, .delta 1 1 1, .dqry 1 1 1, .agset 1 2, .agfree 1 1 1, .mst 1 1 2,
      .mldr 1 1 2, .coll 1 1 2, .collw 1 2, .launch 1 1 1 2, .launchd 1 1 1 4, .cancel 1 1, .qpush 1 1 1 2, .tsig 1 1 2 1] : List Instr).all
      (fun i => i.wf) = true := by decide +kernel

end Sys2Proof.Tests
end

