-- ==== Sys2Proof/Tests/States0.lean ====
section
/-! SUPPORT. Small states for the tests: one group of a running crew, or of the privileged slot, on a ready package. -/

namespace Sys2Proof.Machine

set_option Elab.async false

open Host (Outcome)

/-- A lane with the given registers and predicates. -/
def tLane (v : RegMap) (p : BitVec 8) : Lane := ⟨v, none, 0, 0, p, 0, 1, [], [], [], [], [], []⟩

/-- A group of crew 7 with two lanes in one split at 0x1000. -/
def tGroup (mode : Word) (s : RegMap) (l0 l1 : Lane) : Group :=
  { Group.empty with
    id := 5
    crew := 7
    num := 2
    lanes := [l0, l1]
    s := s
    mode := mode
    splits := [⟨0, 0x1000, 3, .none, 4, 0⟩] }

/-- Crew 7, number 3 of core 0, in process context 1, running. -/
def tCrew : Crew := ⟨7, 0, 0, 3, 1, .run, none, 0, [(0, 2)], 1, 8, 0, none, [], none, none, false⟩

/-- Package 0 with every die and stack ready, in FULL service. -/
def tPkg : Package :=
  { Package.reset 0 with
    service := 2
    inService := List.range 12
    thermal := true
    dies := List.replicate 9 { Die.reset with st := .ready, links := true }
    hbm := List.replicate 12 .ready }

/-- The machine with the group in focus. -/
def tState (g : Group) : State := { State.reset with g := g, crews := [tCrew], pkgs := [tPkg], next := 100 }

/-- Two lanes with values in v2 to v7 and p1 true in lane 0, two scalar registers. -/
def tG (mode : Word) : Group :=
  tGroup mode [(2, 5), (3, 7)] (tLane [(2, 0x80000001), (3, 3), (4, 9), (5, 1), (6, 0x2000), (7, 0)] 0x03)
    (tLane [(2, 0xFFFFFFFF), (3, 2), (4, 8), (5, 0), (6, 0x3000), (7, 0)] 0x01)

/-- The same machine under a MODE. -/
def tM (mode : Word) : State := tState (tG mode)

/-- MODE with an element type, and with it SAT, RM or GP. -/
def mEt (et : Nat) : Word := BitVec.ofNat 32 (et * 2 ^ 4)

/-- The instruction issues and its MODE is legal: what the result statements ask. -/
def tOk (i : Instr) (legal : State → Bool) (s : State) : Bool := s.issues i && legal s.merged

/-- The issuing split stands and MODE, or what the fields name, is not legal. -/
def tBad (legal : State → Bool) (s : State) : Bool := (s.g.split? s.g.cur).isSome && !legal s.merged

/-- The group of a privileged slot: the agent group, or the handler group. -/
def tPriv (handler : Bool) (s : RegMap) : State :=
  tState { tGroup 0 s (tLane [] 1) (tLane [] 1) with priv := true, crew := 0, handler := handler, alloc := 2 }

/-- The CORE tile of the group: 4096 bytes at 0x10000 of core 0. -/
def tTile : Tile := ⟨9, 8, 0, 0, 0, 0, none, 7, 1, 4096, keyCore 0 0 0x10000, 0, [], none, true, 0, []⟩

/-- A group of that tile, and page tables of process context 1 that map the first GiB of package memory with all rights. -/
def tW (g : Group) : State :=
  let s := { tState { g with tile := some 9, ctx := 1 } with
    tiles := [tTile], crews := [{ tCrew with tile := some 9 }], pkgs := [{ tPkg with pctx := 0x100000 }] }
  (((s.setNum (keyPkg 0 0x140080) 1 1).setNum (keyPkg 0 0x140088) 8 0x1000).setNum (keyPkg 0 0x1000) 8 0x2001).setNum (keyPkg 0 0x2000) 8 0x1F

/-- The key of a CORE window offset of that tile. -/
def tKey (o : Nat) : Nat := keyCore 0 0 (0x10000 + o)

/-! ### The hypotheses of the statements as tests -/

def State.levelAtB (s : State) (va n key : Nat) : Bool :=
  (match s.place s.g va with
   | some (.level k _ off memb) => k == key && !s.guardHit key off memb n
   | _ => false) && !s.poisonedAt key n &&
  (List.range n).all fun j => (s.cmds.all fun c => !inSpans c.dst (key + j)) && s.g.unretired.all fun u => !inSpans u.dst (key + j)

theorem levelAt_of {s : State} {va n key : Nat} (h : s.levelAtB va n key = true) : s.levelAt va n key := by
  unfold State.levelAtB at h
  simp only [Bool.and_eq_true, Bool.not_eq_true', List.all_eq_true, List.mem_range] at h
  obtain ⟨⟨h1, h2⟩, h3⟩ := h
  refine ⟨?_, h2, fun j hj => h3 j hj⟩
  split at h1
  · rename_i k lvl off memb e
    simp only [Bool.and_eq_true, Bool.not_eq_true', beq_iff_eq] at h1
    obtain ⟨rfl, h1⟩ := h1
    exact ⟨lvl, off, memb, e, h1⟩
  · exact absurd h1 (by decide)

def State.pkgAtB (s : State) (va n need key : Nat) : Bool :=
  (match s.place s.g va with
   | some (.home pkg off) => pkg == s.g.pkg && (match (s.translate s.g.pkg s.g.ctx off need).1 with
     | some pa => key == keyPkg s.g.pkg pa
     | none => false)
   | _ => false) && !s.poisonedAt key n && decide (key % 64 + n ≤ 64) &&
  (s.line? (unitL1 s.g.pkg s.g.core) key).isNone && (s.line? (unitDie s.g.pkg s.g.core) key).isNone &&
  (List.range n).all fun j => (s.cmds.all fun c => !inSpans c.dst (key + j)) && s.g.unretired.all fun u => !inSpans u.dst (key + j)

theorem pkgAt_of {s : State} {va n need key : Nat} (h : s.pkgAtB va n need key = true) : s.pkgAt va n need key := by
  unfold State.pkgAtB at h
  simp only [Bool.and_eq_true, Bool.not_eq_true', List.all_eq_true, List.mem_range, decide_eq_true_eq, Option.isNone_iff_eq_none] at h
  obtain ⟨⟨⟨⟨⟨h1, h2⟩, h3⟩, h4⟩, h5⟩, h6⟩ := h
  refine ⟨?_, h2, h3, h4, h5, fun j hj => h6 j hj⟩
  split at h1
  · rename_i pkg off e
    simp only [Bool.and_eq_true, beq_iff_eq] at h1
    obtain ⟨rfl, h1⟩ := h1
    split at h1
    · rename_i pa e2
      exact ⟨off, pa, e, e2, by simpa using h1⟩
    · exact absurd h1 (by decide)
  · exact absurd h1 (by decide)

def State.clearB (s : State) : Bool := !s.g.acqPending && s.g.sq.isEmpty && (s.net.all fun p => p.gid != s.g.id) && (!decide (2 ≤ s.g.ord) || !s.relWaits s.scope)

theorem clear_of {s : State} (h : s.clearB = true) : s.clear := by
  simp only [State.clearB, Bool.and_eq_true, Bool.not_eq_true', Bool.or_eq_true, decide_eq_false_iff_not, List.isEmpty_iff, List.all_eq_true, bne_iff_ne] at h
  exact ⟨h.1.1.1, h.1.1.2, h.1.2, fun k => h.2.resolve_left (fun n => n k)⟩

def State.quietB (s : State) (n key : Nat) : Bool :=
  !s.poisonedAt key n && (s.liveBars.all fun o => decide (key + n ≤ o) || decide (o + 32 ≤ key)) && (List.range n).all fun j =>
    (s.cmds.all fun c => !inSpans c.src (key + j) && !inSpans c.dst (key + j)) &&
    (s.g.unretired.all fun u => !inSpans u.src (key + j) && !inSpans u.dst (key + j)) && (s.vatHolding (key + j)).isNone

theorem quietAt_of {s : State} {n key : Nat} (h : s.quietB n key = true) : s.quietAt n key := by
  simp only [State.quietB, Bool.and_eq_true, Bool.not_eq_true', List.all_eq_true, List.mem_range, Option.isNone_iff_eq_none, Bool.or_eq_true, decide_eq_true_eq] at h
  exact ⟨h.1.1, h.1.2, fun j hj => ⟨(h.2 j hj).1.1, (h.2 j hj).1.2, (h.2 j hj).2⟩⟩

def State.namesB (s : State) (lv : BitVec 3) (a : BitVec 6) (obj : Nat) : Bool :=
  s.resolve s.g lv.toNat != 0 && s.barLegal lv a && decide ((s.barNamed (s.resolve s.g lv.toNat) a).1 = .inr obj)

theorem names_of {s : State} {lv : BitVec 3} {a : BitVec 6} {obj : Nat} (h : s.namesB lv a obj = true) : s.names lv a obj := by
  simp only [State.namesB, Bool.and_eq_true, bne_iff_ne, decide_eq_true_eq] at h
  exact ⟨h.1.1, h.1.2, h.2⟩

/-- The one leaf of the page tables of `tW`. -/
def tLeaf : Leaf := ⟨0, 2 ^ 30, 0, 7⟩

/-- n bytes at an address are package memory that the leaf maps with the rights: the keys at a physical address. -/
def State.keysB (s : State) (va n need pa : Nat) : Bool :=
  s.place s.g va == some (.home s.g.pkg pa) && s.spanB tLeaf s.g.pkg s.g.ctx pa need n

/-- The TLB entry of that leaf. -/
def tEntry (pkg ctx : Nat) : Tlb := tLeaf.entry pkg ctx

theorem keys_leaf {s : State} {va n need pa : Nat} (h : s.keysB va n need pa = true) (free : Nat) (b : Bool) :
    ∃ f c, (s.oneLeaf (tEntry s.g.pkg s.g.ctx) free b).localKeys s.g va n need =
      (some ((List.range n).map fun j => keyPkg s.g.pkg (pa + j)), s.oneLeaf (tEntry s.g.pkg s.g.ctx) f c) := by
  simp only [State.keysB, Bool.and_eq_true, beq_iff_eq] at h
  obtain ⟨f, c, e⟩ := State.span_leaf h.2 free b
  refine ⟨f, c, ?_⟩
  have hp : (s.oneLeaf (tLeaf.entry s.g.pkg s.g.ctx) free b).place s.g va = some (.home s.g.pkg pa) := h.1
  unfold tEntry State.localKeys
  simp only [hp, if_true, e]
  simp [tLeaf]

theorem keys_of {s : State} {va n need pa : Nat} (h : s.keysB va n need pa = true) :
    ∃ f c, s.localKeys s.g va n need = (some ((List.range n).map fun j => keyPkg s.g.pkg (pa + j)), s.oneLeaf (tEntry s.g.pkg s.g.ctx) f c) := by
  obtain ⟨f, c, e⟩ := keys_leaf h s.free false
  have h2 := h
  simp only [State.keysB, Bool.and_eq_true] at h2
  rw [tEntry, (State.spanB_iff h2.2).1] at e
  exact ⟨f, c, e⟩

/-- n bytes of a message at an address of the issuing package, a member. -/
theorem message_of {s : State} {va n pa : Nat} (h : s.keysB va n 1 pa = true) (hm : (s.pkg s.g.pkg).member = true) :
    (s.messageKeys s.g va n).1 = .inr ((List.range n).map fun j => keyPkg s.g.pkg (pa + j)) := by
  obtain ⟨f, c, e⟩ := keys_of h
  simp only [State.keysB, Bool.and_eq_true, beq_iff_eq] at h
  unfold State.localKeys at e
  simp only [h.1, if_true] at e
  simp [State.messageKeys, h.1, hm, State.reaches, e]

/-- n bytes at an address can be read there, and no word is poisoned. -/
def State.readB (s : State) (va n pa : Nat) : Bool := va / 2 ^ 60 == 0 && s.keysB va n 1 pa && decide (0 < n) && s.poison.isEmpty

theorem read_at {s : State} {va n pa : Nat} (h : s.readB va n pa = true) (free : Nat) (b : Bool) :
    (s.oneLeaf (tEntry s.g.pkg s.g.ctx) free b).readFor s.g va n =
      (some (s.bytes (keyPkg s.g.pkg pa) n), s.oneLeaf (tEntry s.g.pkg s.g.ctx) (if b then free + 1 else free) true) := by
  simp only [State.readB, State.keysB, Bool.and_eq_true, beq_iff_eq, decide_eq_true_eq, List.isEmpty_iff] at h
  obtain ⟨⟨⟨h0, hp, hs⟩, hn⟩, hq⟩ := h
  have e := State.fetch_at hp hs hn hq free b
  unfold tEntry State.readFor
  simp only [h0, if_true, e]
  simp [tLeaf]

theorem read_leaf {s : State} {va n pa : Nat} (h : s.readB va n pa = true) (free : Nat) (b : Bool) :
    ∃ f, (s.oneLeaf (tEntry s.g.pkg s.g.ctx) free b).readFor s.g va n = (some (s.bytes (keyPkg s.g.pkg pa) n), s.oneLeaf (tEntry s.g.pkg s.g.ctx) f true) :=
  ⟨_, read_at h free b⟩

theorem read_of {s : State} {va n pa : Nat} (h : s.readB va n pa = true) :
    ∃ f, s.readFor s.g va n = (some (s.bytes (keyPkg s.g.pkg pa) n), s.oneLeaf (tEntry s.g.pkg s.g.ctx) f true) := by
  obtain ⟨f, e⟩ := read_leaf h s.free false
  have h2 := h
  simp only [State.readB, State.keysB, Bool.and_eq_true] at h2
  rw [tEntry, (State.spanB_iff h2.1.1.2.2).1] at e
  exact ⟨f, e⟩

theorem keys_nodup (pkg pa n : Nat) : ((List.range n).map fun j => keyPkg pkg (pa + j)).Nodup := by
  refine List.pairwise_map.2 (List.Pairwise.imp (fun {a b} h e => ?_) (List.nodup_range (n := n)))
  simp only [keyPkg] at e
  omega

/-- A record with two levels: CORE tiles of eight lanes and 4096 bytes, a 2 by 2 box of children of a domain under them. -/
def tLevels (dom : Nat) : List Level :=
  [⟨1, 8, 1, 1, 4, 2, 2, 2, 1, 0, 4096, 0, 0, 0, 0, 0, 0⟩, ⟨dom, 8, 1, 1, 0, 2, 1, 1, 1, 0, 1024, 0, 0, 0, 0, 0, 0⟩]

def tRcd (dom : Nat) : LaunchRec := ⟨0x9000, false, false, 0, 0x1000, 0, 0, 0, tLevels dom⟩

/-- The tree of `tTile`. -/
def tTree (dom : Nat) : Tree := ⟨8, 0, 1, tRcd dom, 0, 0, 0, 0, 0, 0, false, 0, [0], [0], 0⟩

/-- The state with a barrier object of an expected count, pending count, link bits and status words at a key. -/
def State.withBar (s : State) (obj w0 w1 w2 w3 : Nat) : State :=
  (((s.setNum obj 8 w0).setNum (obj + 8) 8 w1).setNum (obj + 16) 8 w2).setNum (obj + 24) 8 w3

/-- A state a step leaves, for tests of one field. -/
def tNext (o : Outcome State Fault Refusal) : State :=
  match o with
  | .next t => t
  | _ => State.reset

end Sys2Proof.Machine
end

