-- ==== Sys2Proof/Tests/Witness1.lean ====
section
/-! SUPPORT. Witnesses: for each statement a concrete state and operands that meet its hypotheses, clause by clause. -/

namespace Sys2Proof.Machine

open Host (Outcome)

set_option Elab.async false

/-! ### Control -/

def zz : Ann := ⟨0, 0⟩

/-- A split with p1 as its guard: lane 0 active, lane 1 off. -/
def tGuarded : State := tM 1

theorem witness_ControlAndModeResults :
    ([.nop zz, .yield ⟨3, 15⟩, .setm 0xFFFFFF, .setmh 1, .getm 0 zz, .getm 63 zz, .gets 62 13 zz, .gets 5 0 zz, .gets 5 1 zz, .gets 5 14 zz, .gets 5 15 zz,
      .gets 5 17 zz, .gets 5 9 zz] : List Instr).all (fun i => tOk i anyMode (tM 0)) = true := by decide +kernel

/-- Twelve park records: a branch that divides four splits further does not fit. -/
def tFull : State :=
  let g := tG 1
  tState { g with splits := [⟨0, 0x1000, 3, .none, 4, 0⟩, ⟨1, 0x2000, 4, .none, 0, 0⟩, ⟨2, 0x3000, 8, .none, 0, 0⟩, ⟨3, 0x4000, 16, .none, 0, 0⟩],
                  parks := (List.range 12).map fun k => ⟨0x5000 + 4 * k, 2 ^ (20 + k)⟩,
                  lanes := [tLane [] 3, tLane [] 1] }

theorem witness_BranchCallAndExitResults_branch :
    (tOk (.braJ 0x80000 0) anyMode tGuarded && tGuarded.merged.g.fits [0x1004, 0x1000] &&
      tOk (.braL 1 3 0xFFFFFFFF zz) anyMode tGuarded && tGuarded.merged.g.lanesIn == [0, 1] &&
      tOk (.braJ 1 0) anyMode tFull && !tFull.merged.g.fits (tFull.merged.g.lanesIn.map fun l => if tFull.merged.g.active l then 0x9000 else 0x1004) &&
      tOk (.brx 6 zz) (fun s => s.g.actives.all fun l => s.g.v2 l 6 % 4 == 0) (tM 0) &&
      tOk (.brx 2 zz) (fun s => !s.g.actives.all fun l => s.g.v2 l 2 % 4 == 0) (tM 0)) = true := by decide +kernel

/-- A lane whose window has moved 56 registers up, its return address in v62:v63; the group's window fits. -/
def tCalled : State :=
  tState { tGroup 0 [] (tLane [(118, 0x2000)] 1) (tLane [(118, 0x2000)] 1) with
    alloc := 2, lanes := [{ tLane [(118, 0x2000)] 1 with wb := 56 }, { tLane [(118, 0x2000)] 1 with wb := 56 }] }

/-- Whether a call by `up` registers, or a return by them, spills or fills in some active lane (R63). -/
def tMoves (s : State) (up : Bool) (n : Nat) : Bool :=
  let m := s.merged
  m.g.actives.any fun l =>
    let wb := if up then (m.g.lane l).wb + n else (m.g.lane l).wb - n
    decide (8 * (m.g.lane l).mark + 64 * m.g.alloc < wb + 64) || decide (wb < 8 * (m.g.lane l).mark)

theorem witness_BranchCallAndExitResults_call :
    (tOk (.call 7 0 zz) anyMode tCalled && tMoves tCalled true 56 && !tCalled.g.priv && tCalled.merged.g.fits [0x1008, 0x1008] &&
      tOk (.call 1 4 zz) anyMode tCalled && !tMoves tCalled true 8 &&
      tOk (.callx 1 6 zz) (fun s => s.g.actives.all fun l => s.g.v2 l 6 % 4 == 0) tCalled &&
      tOk (.ret 7 zz) (fun s => s.g.actives.all fun l => s.g.v2 l 62 % 4 == 0 && decide (56 ≤ (s.g.lane l).wb)) tCalled && !tMoves tCalled false 56 &&
      tOk (.ret 1 zz) (fun s => s.g.actives.any fun l => decide ((s.g.lane l).wb < 8)) (tM 0)) = true := by decide +kernel

theorem witness_BranchCallAndExitResults_exit :
    (tOk (.exit zz) (fun m => m.g.lanesIn.any fun l => !m.g.active l) tGuarded &&
      tOk (.exit zz) (fun m => !(m.g.lanesIn.any fun l => !m.g.active l) && !m.g.splits.any (fun p => p.idx != m.g.cur) && m.g.id != 0) (tM 0)) = true := by
  decide +kernel

theorem witness_TrapAndBreakTaken :
    ([.trap 63 zz, .brk 0 zz] : List Instr).all (fun i => tOk i (fun m => !m.g.priv && m.crew? m.g.crew == some tCrew && tCrew.st == .run && !m.g.actives.isEmpty) (tM 0) &&
      tOk i (fun m => m.g.actives.isEmpty) (tM 2)) = true := by decide +kernel

/-- A group with a scoreboarded result for s5 pending. -/
def tPending : State := tState { tG 0 with sb := [⟨0, [(.s 5, none)], false⟩], nextSb := 1 }

/-- A group whose crew is asked to stop (R401, PREQ bit 3). -/
def tAsked : State := { tM 0 with cores := [{ Core.reset 0 0 with preq := 8 }] }

theorem witness_WaitSleepHint :
    (tOk (.wait 1 5 zz) (fun s => s.g.pendingAt 1 5) tPending && tOk (.wait 3 0 zz) (fun s => !s.g.sb.isEmpty) tPending &&
      tOk (.wait 1 4 zz) (fun s => !s.g.pendingAt 1 4 && !s.g.awaitedReplies.contains 4) tPending &&
      tOk (.sleep 0 zz) (fun s => decide (s.g.s2 0 ≤ s.time)) (tM 0) && tOk (.sleep 2 zz) (fun s => decide (s.time < s.g.s2 2)) (tM 0) &&
      tOk (.phint 0 0 0 0 zz) (fun s => !flag (s.core 0 0).preq 3) (tM 0) &&
      tOk (.phint 2 3 1 0 zz) (fun s => flag (s.core 0 0).preq 3 && !s.g.priv && s.g.splits.length == 1 && s.g.parks.isEmpty) tAsked) = true := by decide +kernel

/-! ### Integer, scalar, lanes -/

theorem witness_TypedIntegerResults :
    ((tOk (.iadd 1 2 3 zz) (intMode [1, 2, 3]) (tM (mEt 8)) && tOk (.isub 2 4 6 zz) (intMode [2, 4, 6]) (tM (mEt 10)) && tOk (.imul 2 2 2 zz) (intMode [2, 2, 2]) (tM (mEt 11)) &&
      tOk (.imulh 1 2 3 zz) (intMode [1, 2, 3]) (tM (mEt 4)) && tOk (.imad 1 2 3 zz) (intMode [1, 2, 3]) (tM (mEt 9)) && tOk (.ineg 1 2 zz) (intMode [1, 2]) (tM (mEt 6)) &&
      tOk (.iabs 1 2 zz) (intMode [1, 2]) (tM (mEt 8)) && tOk (.imin 1 2 3 zz) (intMode [1, 2, 3]) (tM (mEt 5)) && tOk (.imax 1 2 3 zz) (intMode [1, 2, 3]) (tM (mEt 7)) &&
      tOk (.iaddi 1 2 32 zz) (intMode [1, 2]) (tM (mEt 8)))) = true := by decide +kernel

theorem witness_TypedResultInRange : (11 : Nat) < 12 ∧ (true = true ∧ 4 ≤ (11 : Nat)) ∧ (3 : Nat) < 4 := by decide

theorem witness_UntypedAndCarryResults :
    (([.and 1 2 3 zz, .or 1 2 3 zz, .xor 1 2 3 zz, .andn 1 2 3 zz, .not 1 2 zz, .shlR 1 2 3 zz, .shrR 1 2 3 zz, .shaR 1 2 3 zz, .rolR 1 2 3 zz, .shlI 1 2 31 zz, .shrI 1 2 31 zz,
      .shaI 1 2 31 zz, .rolI 1 2 31 zz, .fsh 1 2 31 zz, .popc 1 2 zz, .clz 1 2 zz, .brev 1 2 zz, .bfx 1 2 0 32 zz, .bperm 1 2 3 zz, .sel 1 2 3 1 0 zz, .mov 1 2 zz, .movi 1 32 zz,
      .lit 1 5 zz, .movs 1 2 zz, .bfi 1 2 3 31 1 zz] : List Instr).all (fun i => tOk i anyMode (tM 0)) &&
      tOk (.lea 2 4 6 zz) (fun s => etBits s.g.et != 0) (tM 0) &&
      ([2, 8, 9].all fun et => tOk (.iaddc 1 2 3 1 0 zz) (fun m => m.g.et == et) (tM (mEt et))) &&
      tOk (.icmp 0 2 3 5 zz) (intMode [2, 3]) (tM (mEt 8)) && tOk (.movv 1 2 7 zz) (fun s => decide (7 < s.g.width)) (tM 0) &&
      tBad (intMode [2, 4, 6]) (tM (mEt 12)) && tBad (intMode [2, 4, 5]) (tM (mEt 10)) && tBad (intMode [1, 2]) (tM (mEt 14)) &&
      tBad (fun s => s.g.et == 2 || s.g.et == 8 || s.g.et == 9) (tM (mEt 3)) && tBad (fun s => etBits s.g.et != 0) (tM (mEt 16)) &&
      tBad (fun s => decide (63 < s.g.width)) (tM 0)) = true := by decide +kernel

theorem witness_ScalarAndPredicateResults :
    ([.sadd 0 2 3 zz, .ssub 4 2 3 zz, .smul 4 2 3 zz, .sand 4 2 3 zz, .sor 4 2 3 zz, .sxor 4 2 3 zz, .sshl 4 2 3 zz, .sshr 4 2 3 zz, .smovSS 4 2 zz, .smovSF 4 7 zz, .slitS 4 5 zz,
      .smovFS 7 2 zz, .slitF 7 5 zz, .scmp 0 2 3 5 zz, .scmp 7 2 3 0 zz, .pand 1 2 3 zz, .por 1 2 3 zz, .pxor 1 2 3 zz, .pnot 0 1 zz, .pmov 7 0 zz] : List Instr).all
        (fun i => tOk i anyMode (tM 0)) = true := by decide +kernel

theorem witness_CrossLaneResults :
    (tOk (.shfl 1 2 3 zz) anyMode (tM 0) && tOk (.vote 4 1 zz) anyMode (tM 0) && tOk (.lred 4 2 0 zz) (fun s => laneLegal 0 s.g.et) (tM (mEt 14)) &&
      tOk (.lred 4 2 5 zz) (fun s => laneLegal 5 s.g.et) (tM (mEt 10)) && tOk (.lscan 2 4 13 zz) (fun s => laneLegal 5 s.g.et) (tM (mEt 11)) &&
      tOk (.matchV 1 2 zz) anyMode (tM 0) && tOk (.compact 1 2 zz) anyMode (tM 0) &&
      tBad (fun s => laneLegal 3 s.g.et) (tM (mEt 14)) && tBad (fun s => laneLegal 0 s.g.et && (!wideEt s.g.et || false)) (tM (mEt 10))) = true := by decide +kernel

/-- A second group of the crew, with another number, that waits to be fused with group 2 or does not wait. -/
def tMate (num : Nat) (w : Wait) (lanes : Nat) : Group :=
  { tG 0 with id := 6, num := num, lanes := List.replicate lanes (tLane [] 1), splits := [⟨0, 0x1000, 2 ^ lanes - 1, w, 0, 0⟩] }

/-- Group 2, whose s3 names a partner and s4:s5 the registers to carry, beside that partner. -/
def tRegroup (partner bm : Word) (mate : Group) : State :=
  { tState { tG 0 with s := [(3, partner), (4, bm)] } with groups := [mate] }

def tRegroupOk (s : State) (h : Group) : Bool :=
  tOk (.regroup 1 3 4 zz) (fun m => m.g.sb.isEmpty && !m.g.priv && m.g.regroupWait.isNone && m.g.splits.length == 1 &&
    (m.groups.find? fun h => !h.priv && h.crew == m.g.crew && h.num == (m.g.sreg 3).toNat && h.live != 0) == some h &&
    (m.g.sreg 3).toNat != m.g.num && h.width == m.g.width && h.id != 0 && h.id != m.g.id) s

/-- Its own number; a partner that does not wait; one that waits with another bitmap, with too many lanes, fitting above and below. -/
theorem witness_RegroupResults :
    (tOk (.regroup 1 3 4 zz) (fun m => m.g.sb.isEmpty && !m.g.priv && m.g.regroupWait.isNone && (m.g.sreg 3).toNat == m.g.num) (tRegroup 2 0 (tMate 3 .none 2)) &&
      tRegroupOk (tRegroup 3 5 (tMate 3 .none 2)) (tMate 3 .none 2) &&
      tRegroupOk (tRegroup 3 5 (tMate 3 (.regroup 2 4 1) 2)) (tMate 3 (.regroup 2 4 1) 2) &&
      tRegroupOk (tRegroup 3 5 (tMate 3 (.regroup 2 5 1) 7)) (tMate 3 (.regroup 2 5 1) 7) &&
      tRegroupOk (tRegroup 3 5 (tMate 3 (.regroup 2 5 1) 6)) (tMate 3 (.regroup 2 5 1) 6) &&
      tRegroupOk (tRegroup 1 5 (tMate 1 (.regroup 2 5 1) 6)) (tMate 1 (.regroup 2 5 1) 6) &&
      (tMate 1 (.regroup 2 5 1) 6).regroupWait == some (2, 5, 1)) = true := by decide +kernel

/-! ### Floating point -/

/-- A narrow format in f0 and a block scale in f1 under MODE.FR = 0 (R92, R100). -/
def tNarrow (mode : Word) : State := tState { tG mode with f := [(0, 0x7B48), (1, 1)] }

theorem witness_FloatArithmeticResults :
    (tOk (.fadd 1 2 3 zz) (floatMode true [1, 2, 3]) (tM (mEt 14)) && tOk (.fsub 1 2 3 zz) (floatMode true [1, 2, 3]) (tM (mEt 12)) &&
      tOk (.fmul 2 4 6 zz) (floatMode true [2, 4, 6]) (tM (mEt 15 + 0xA00)) && tOk (.ffma 1 2 3 zz) (floatMode true [1, 2, 3]) (tM (mEt 13)) &&
      tOk (.fscl 1 2 3 zz) (floatMode true [1, 2]) (tM (mEt 14)) && tOk (.frnd 1 2 zz) (floatMode true [1, 2]) (tM (mEt 14)) &&
      tBad (floatMode true [1, 2, 3]) (tM (mEt 8)) && tBad (floatMode true [1, 2]) (tM (mEt 15))) = true := by decide +kernel

theorem witness_FloatSelectionResults :
    (([.fmin 1 2 3 zz, .fmax 1 2 3 zz, .fminn 1 2 3 zz, .fmaxn 1 2 3 zz, .fcmp 1 2 3 7 zz, .fcls 1 2 zz] : List Instr).all
        (fun i => tOk i (floatMode false [1, 2, 3]) (tM (mEt 14))) &&
      tOk (.fabs 2 4 zz) (fun s => signMask s.g.et != 0) (tM (mEt 15)) && tOk (.fneg 1 3 zz) (fun s => signMask s.g.et != 0) (tM (mEt 18)) &&
      tBad (floatMode false [1, 2, 3]) (tM (mEt 18)) && tBad (floatMode false [1]) (tM (mEt 15)) && tBad (fun s => signMask s.g.et != 0) (tM (mEt 8))) = true := by decide +kernel

theorem witness_TranscendentalResults :
    (([.frcp 1 2 zz, .frsq 1 2 zz, .fsqrt 1 2 zz] : List Instr).all (fun i => tOk i (floatMode true [1, 2]) (tM (mEt 14))) &&
      ([.fex2 1 2 zz, .flg2 1 2 zz, .fsin 1 2 zz, .fcos 1 2 zz, .ftanh 1 2 zz] : List Instr).all fun i =>
        ([12, 13, 14].all fun et => tOk i (fun s => s.g.et == et) (tM (mEt et))) && tBad (floatMode true [1, 2]) (tM (mEt 16)) &&
          tBad (fun s => s.g.et == 12 || s.g.et == 13 || s.g.et == 14) (tM (mEt 15))) = true := by decide +kernel

theorem witness_ConversionResults :
    (tOk (.fcvt 1 2 14 zz) (fun s => s.g.et == 12) (tM (mEt 12)) && tOk (.fcvt 1 2 16 zz) (fun s => s.g.et == 14 && (s.fcode s.g).isSome) (tNarrow (mEt 14)) &&
      tOk (.fcvt 2 2 15 zz) (fun s => s.g.et == 11) (tM (mEt 11)) && tOk (.fcvt 1 2 14 zz) (fun s => s.g.et == 16 && (s.fcode s.g).isSome) (tNarrow (mEt 16)) &&
      tOk (.icvt 1 2 4 zz) (fun s => s.g.et == 14) (tM (mEt 14)) && tOk (.icvt 2 2 11 zz) (fun s => s.g.et == 4) (tM (mEt 4)) &&
      tBad (fun s => decide (4 ≤ s.g.et ∧ s.g.et ≤ 16)) (tM (mEt 17)) && tBad (fun s => s.g.et != 16 || (s.fcode s.g).isSome) (tM (mEt 16))) = true := by decide +kernel

theorem witness_PairAndComplexResults :
    (tOk (.tsum 2 4 6 zz) (fun s => s.g.et == 14) (tM (mEt 14)) && tOk (.tprd 2 4 6 zz) (fun s => s.g.et == 14) (tM (mEt 14)) &&
      tOk (.cmul 2 4 6 zz) (fun s => s.g.et == 17 && decide (s.g.rm < 6)) (tM (mEt 17)) && tOk (.cfma 4 2 6 zz) (fun s => s.g.et == 17) (tM (mEt 17)) &&
      ([.dot2 1 2 3 zz, .h2add 1 2 3 zz, .h2mul 1 2 3 zz, .h2fma 1 2 3 zz] : List Instr).all fun i =>
        ([18, 19].all fun et => tOk i (fun s => s.g.et == et && decide (s.g.rm < 6)) (tM (mEt et))) &&
          ([14, 17, 18, 19].all fun et => tBad (fun s => s.g.et == et) (tM (mEt 12)))) = true := by decide +kernel

/-- The same with a table for QBLK at the offset in s2 of the CORE window: any bytes, an odd offset, no CORE tile. -/
def tTable (off : Word) (cored : Bool) : State :=
  let g := { tG (mEt 14) with f := [(0, 0x7B48), (1, 1)], s := [(2, off)] }
  if cored then tW g else tState g

theorem witness_QuantiseResults :
    (tOk (.qblk 1 2 0 zz) (fun s => s.g.et == 14 && (s.fcode s.g).isSome && (State.qscale s.g).isSome) (tNarrow (mEt 14)) &&
      tOk (.qcvt 1 2 3 zz) (fun s => s.g.et == 12 && (s.fcode s.g).isSome && decide (s.g.rm < 6)) (tNarrow (mEt 12)) &&
      tOk (.plsplit 1 2 0 zz) (fun s => s.g.et == 16 && (s.fcode s.g).isSome) (tNarrow (mEt 16)) &&
      tOk (.pljoin 1 2 3 zz) (fun s => s.g.et == 16 && (s.fcode s.g).isSome) (tNarrow (mEt 16)) &&
      tBad (fun s => (s.fcode s.g).isSome && (State.qscale s.g).isSome) (tM (mEt 14)) &&
      tOk (.qblk 1 2 2 zz) (fun s => s.g.actives.isEmpty && (s.fcode s.g).isSome && (State.qscale s.g).isSome) (tNarrow (mEt 14 + 2)) &&
      tOk (.qblk 1 2 2 zz) (fun s => !s.g.actives.isEmpty && s.g.sq.isEmpty && !s.g.acqPending && !s.underWay s.g.id && s.windowTile s.g 1 == some tTile &&
        decide (0x40 + 2 * s.g.width ≤ tTile.memb) && (List.range (2 * s.g.width)).all fun j =>
          !s.guardKey (tTile.home + 0x40 + j) && !s.poisonedAt (tTile.home + 0x40 + j) 1 && s.cmds.isEmpty && s.g.unretired.isEmpty) (tTable 0x40 true) &&
      tOk (.qblk 1 2 2 zz) (fun s => (s.windowTile s.g 1).isSome && s.g.acqPending) { tTable 0x40 true with g := { (tTable 0x40 true).g with sb := [⟨9, [], true⟩] } } &&
      tOk (.qblk 1 2 2 zz) (fun s => (s.g.sreg 2).toNat % 2 == 1 && s.g.actives.head? == some 0) (tTable 0x41 true) &&
      tOk (.qblk 1 2 2 zz) (fun s => (s.windowTile s.g 1).isNone && s.g.actives.head? == some 0) (tTable 0x40 false)) = true := by decide +kernel

end Sys2Proof.Machine
end

