-- ==== Sys2Proof/Tests/Witness10.lean ====
section
/-! SUPPORT. Witnesses: for each statement a concrete state and operands that meet its hypotheses, clause by clause. -/

namespace Sys2Proof.Machine

open Host (Outcome)

set_option Elab.async false

/-! ### A step -/

/-- The group's split at pc, a word there, and the agenda's next turn. -/
def fSQ (pc : Nat) (w : Word) (a : Act) (wait : Wait) : State :=
  let s := tW { tG 0 with splits := [⟨0, pc, 3, wait, 4, 0⟩] }
  { s.setBytes (keyPkg 0 0x8000) (bytesOf 4 w.toNat) with agenda := [⟨3, a⟩] }

def fTurn (s : State) : State := ({ s with agenda := [], time := s.time + 3 }).onSplit 5 0

def fWord (s : State) : Option (Word × State) :=
  match (fTurn s).fetch with
  | (.words w _ _, t) => some (w, t)
  | _ => none

theorem witness_StepRunsDecoded :
    ([0x100C1094, 0x37000000, 0xC6000000].all fun w =>
      let s := fSQ 0x8000 w (.issue 5 0) .none
      (fTurn s).g.id == 5 && (fTurn s).canIssue && (fWord s).map Prod.fst == some w) = true ∧
    ((match decode false 0x37000000 0 0 with | .error .illegal => true | _ => false) && (match decode false 0xC6000000 0 0 with | .error .priv => true | _ => false) &&
      (match decode false 0x100C1094 0 0 with | .ok i => i == .iadd 3 1 2 ⟨1, 4⟩ | _ => false)) = true ∧
    (let s := fSQ 0x8002 0 (.issue 5 0) .none
     (fTurn s).canIssue && match (fTurn s).fetch with | (.trap c, _) => c == 5 | _ => false) = true ∧
    !(fTurn (fSQ 0x8000 0 (.issue 5 0) (.sleep 9))).canIssue = true ∧
    (let s := fSQ 0x8000 0x100C1094 (.event (.powerOn 3)) .none
     s.agenda == [⟨3, .event (.powerOn 3)⟩] && (Instr.powerOn 3).isEvent) = true ∧
    (let s := fSQ 0x8000 0x100C1094 (.issue 5 0) .none
     s.place s.g 0x8000 == some (.home 0 0x8000) && 0x8000 % 4 == 0 && (s.translate 0 s.g.ctx 0x8000 4).1 == some 0x8000 &&
       !(s.translate 0 s.g.ctx 0x8000 4).2.poisonedAt (keyPkg 0 0x8000) 4) = true := by decide +kernel

/-- R213, R218: the fetched IADD of element type U8 writes the byte sums 0 + 0x01 and 0 + 0xFF to v3. -/
theorem test_step_fetched :
    (let t := tNext (step (fSQ 0x8000 0x100C1080 (.issue 5 0) .none))
     (t.g.vreg 0 3, t.g.vreg 1 3, t.g.pc, t.time)) = (0x01, 0xFF, 0x8004, 3) := by decide +kernel

theorem witness_IssueChecksAndTraps :
    (let ok := fun (s : State) => (s.g.split? s.g.cur).isSome
     let u := fun (s : State) => uses s.merged (.iadd 4 2 3 ⟨0, 0⟩)
     let c := fun (s : State) => s.merged.g.chk && s.merged.g.early (u s)
     let mark := { tM 0x01000000 with g := { (tG 0x01000000) with lanes := [{ tLane [] 1 with earlyV := [⟨2, 0, 5⟩] }, tLane [] 1] } }
     let wait := { tM 0 with g := { tG 0 with sb := [⟨1, [(.v 0 4, none)], false⟩] } }
     let bad := { tM 0 with g := { tG 0 with lanes := [{ tLane [] 1 with poison := [3] }, tLane [] 1] } }
     ok (tM 0) && privSlot (.csrr 4 0x2000 ⟨0, 0⟩) && !(tM 0).merged.g.priv && !(Instr.setmh 2).wf && (Instr.iadd 4 2 3 ⟨0, 0⟩).wf && !privSlot (.iadd 4 2 3 ⟨0, 0⟩) &&
       ok mark && c mark && ok wait && !c wait && wait.merged.g.blocked (u wait) && ok bad && !c bad && !bad.merged.g.blocked (u bad) && bad.merged.g.poisoned (u bad) &&
       ({ tM 0 with g := { tG 0 with splits := [] } }).g.splits.isEmpty && (tPriv false []).g.priv && !(tM 0).g.priv && (tM 0).crew? (tM 0).g.crew == some tCrew &&
       tCrew.st == .run) = true := by decide +kernel

theorem witness_DecodeOfEncode : ((Instr.bfx 1 2 3 4 ⟨1, 4⟩).isEvent == false && (Instr.bfx 1 2 3 4 ⟨1, 4⟩).wf) = true := by decide +kernel

theorem witness_EncodeOfDecode :
    (match decode false 0x100C1094 0 0, decode false 0xC6000000 0 0 with | .ok i, .error .priv => i == .iadd 3 1 2 ⟨1, 4⟩ | _, _ => false) = true := by decide +kernel

/-! ### Sound states -/

theorem witness_StepKeepsSound : State.reset.sound := by
  unfold State.sound
  decide

end Sys2Proof.Machine
end

