-- ==== Sys2Proof/Tests/Witness2.lean ====
section
/-! SUPPORT. Witnesses: for each statement a concrete state and operands that meet its hypotheses, clause by clause. -/

namespace Sys2Proof.Machine

open Host (Outcome)

set_option Elab.async false

def z0 : Ann := ⟨0, 0⟩

/-- Two lanes whose v6:v7 hold addresses, v8 a comparand, v9 a coordinate; s2 to s9 as given. -/
def aG (mode : Word) (s : RegMap) (lo0 lo1 hi : Word) : Group :=
  tGroup mode s (tLane [(6, lo0), (7, hi), (8, 3), (9, 2)] 0x03) (tLane [(6, lo1), (7, hi), (8, 4), (9, 9)] 0x01)

/-- Addresses of the CORE window, of package memory in the LOCAL form, of package 1. -/
def aCore (mode lo0 lo1 : Word) : State := tW (aG mode [(2, 0x100), (3, 0x180)] lo0 lo1 0xF2000000)
def aPkg (mode : Word) : State := tW (aG (mode ||| 1) [(2, 0x100), (3, 0x180)] 0x4000 0x4000 0x00100000)
def aFar (mode : Word) : State :=
  let s := tW (aG (mode ||| 1) [] 0x4000 0x4000 0x00000100)
  { s with pkgs := s.pkgs ++ [{ tPkg with num := 1 }] }

def aBad (mode : Word) : State := tW (aG mode [] 0x4000 0x4000 0x20000000)

/-- WEAK and SC order at CORE scope. -/
def mOrd (et ord sc : Nat) : Word := BitVec.ofNat 32 (et * 2 ^ 4 + ord * 2 ^ 17 + sc * 2 ^ 14)

/-- An access at a key takes effect at issue. -/
def atOnceB (m : State) (key : Nat) : Bool := decide (2 ≤ m.g.ord) || tsoClass (some key) m.scope

/-- A lane's address has a place and is aligned. -/
def reachB (m : State) (va z : Nat) : Bool := (m.place m.g va).isSome && va % z == 0

/-- A matrix arrival or a load to come holds what follows. -/
def acqHeld (s : State) : State := { s with g := { s.g with sb := [⟨9, [], true⟩] } }

/-- The effective address of a lane. -/
def ea (m : State) (l : Nat) (off : Int) : Nat := wrap 64 ((m.g.v2 l 6 : Int) + off)

/-- Level memory with offset −128; package memory; another package; a form that is no address; a misaligned one. -/
theorem witness_LoadResults :
    ([.ldI 4 6 32 z0, .ldL 4 6 0xFFFFFF80 z0] : List Instr).all (fun i =>
      ([mOrd 10 0 1, mOrd 14 3 1].all fun mode => tOk i (fun m => m.clearB && m.g.actives.all fun l =>
        ea m l (-128) % etBytes m.g.et == 0 && m.levelAtB (ea m l (-128)) (etBytes m.g.et) (tKey (0x40 + 8 * l)) && atOnceB m (tKey (0x40 + 8 * l)))
        (aCore mode 0xC0 0xC8)) &&
      tOk i (fun m => m.clearB && m.g.actives == [0] && m.pkgAtB (ea m 0 (-128)) 8 1 (keyPkg 0 0x3F80)) (aPkg (mEt 15)) &&
      tOk i (fun m => m.clearB && m.g.actives == [0] && m.place m.g (ea m 0 (-128)) == some (.home 1 0x3F80) && (m.pkg 1).member && m.pend.isEmpty &&
        m.net.isEmpty && m.lines.isEmpty) (aFar (mEt 2)) &&
      tOk i (fun m => m.g.acqPending && m.g.actives.all fun l => reachB m (ea m l (-128)) (etBytes m.g.et)) (acqHeld (aCore (mEt 2) 0xC0 0xC8)) &&
      tOk i (fun m => m.g.actives == [0, 1] && m.place m.g (ea m 0 (-128)) == none && etBits m.g.et != 0) (aBad (mEt 2)) &&
      tOk i (fun m => (m.place m.g (ea m 0 (-128))).isSome && ea m 0 (-128) % 4 != 0 && m.g.actives.head? == some 0) (aCore (mEt 2) 0x102 0x104) &&
      tBad (fun m => etBits m.g.et != 0) (aCore (mEt 16) 0x100 0x108)) = true := by
  decide +kernel

/-- A store queue of n entries. -/
def aQueue (n : Nat) (mode : Word) : State :=
  let s := aCore mode 0x100 0x108
  { s with g := { s.g with sq := (List.range n).map fun k => ⟨k, none, 2, 0, 1, 0, [], false⟩ } }

/-- The same with every lane guarded off. -/
def aGuardOff (n : Nat) (mode : Word) : State := aQueue n (mode + 2)

theorem witness_StoreResults :
    ([.stI 8 6 0 z0, .stL 8 6 0 z0, .red 6 8 5 z0] : List Instr).all (fun i =>
      let ok := fun (m : State) => (etBits m.g.et != 0 && atomLegal 5 m.g.et) && !m.g.acqPending && m.g.actives.all fun l => (m.place m.g (ea m l 0)).isSome && ea m l 0 % etBytes m.g.et == 0
      let guarded := fun (m : State) (l : Nat) => (m.guardOf ⟨l, ea m l 0, bytesOf (etBytes m.g.et) (m.g.elem m.g.et l 8), [], none⟩).isSome
      tOk i (fun m => ok m && m.g.actives == [0, 1] && decide (m.g.sq.length < 16) && !guarded m 0 && !guarded m 1) (aQueue 15 (mEt 11)) &&
      tOk i (fun m => ok m && !guarded m 0 && guarded m 1) (aCore (mEt 11) 0x100 0xFC0) &&
      tOk i (fun m => ok m && guarded m 0 && guarded m 1 && decide (m.g.ord < 2) && m.crews.length == 1) (aCore (mEt 11) 0xFC0 0xFC8) &&
      tBad (fun m => atomLegal 5 m.g.et) (aCore (mEt 16) 0x100 0x108) &&
      tOk i (fun m => ok m && m.g.actives.isEmpty && decide (m.g.ord < 2)) (aGuardOff 16 (mEt 11)) &&
      tOk i (fun m => m.g.acqPending && m.g.actives.all fun l => reachB m (ea m l 0) (etBytes m.g.et)) (acqHeld (aCore (mEt 11) 0x100 0x108)) &&
      tOk i (fun m => ok m && !m.g.actives.isEmpty && decide (16 ≤ m.g.sq.length)) (aQueue 16 (mEt 11)) &&
      tOk i (fun m => m.place m.g (ea m 0 0) == none && m.g.actives.head? == some 0) (aBad (mEt 8)) &&
      tOk i (fun m => (m.place m.g (ea m 0 0)).isSome && ea m 0 0 % 4 != 0 && m.g.actives.head? == some 0) (aCore (mEt 2) 0x102 0x104)) = true := by decide +kernel

theorem witness_AtomicResults :
    (([(mOrd 10 0 1), (mOrd 11 0 5)].all fun mode => tOk (.atom 4 6 8 6 z0) (fun m => m.clearB && m.g.actives == [0] && m.pkgAtB (m.g.v2 0 6) 8 3 (keyPkg 0 0x4000) &&
        m.quietB 8 (keyPkg 0 0x4000)) (aPkg mode)) &&
      tOk (.atom 4 6 8 6 z0) (fun m => m.clearB && m.g.actives.all fun l => m.g.v2 l 6 % 8 == 0 && m.levelAtB (m.g.v2 l 6) 8 (tKey (0x100 + 8 * l)) &&
        atOnceB m (tKey (0x100 + 8 * l)) && m.quietB 8 (tKey (0x100 + 8 * l))) (aCore (mOrd 10 3 1) 0x100 0x108) &&
      tOk (.atomc 8 6 9 z0) (fun m => atomInt m.g.et && m.clearB && m.g.actives.all fun l => m.levelAtB (m.g.v2 l 6) 4 (tKey 0x100) && atOnceB m (tKey 0x100) && m.quietB 4 (tKey 0x100))
        (aCore (mOrd 8 0 1) 0x100 0x100) &&
      ([.atom 4 6 8 6 z0, .atomc 4 6 8 z0] : List Instr).all fun i =>
        tOk i (fun m => m.clearB && m.g.actives == [0] && m.place m.g (m.g.v2 0 6) == some (.home 1 0x4000) && (m.pkg 1).member && m.net.isEmpty) (aFar (mEt 2)) &&
        tOk i (fun m => m.g.acqPending && m.g.actives.all fun l => reachB m (m.g.v2 l 6) (etBytes m.g.et)) (acqHeld (aCore (mEt 2) 0xC0 0xC8)) &&
        tOk i (fun m => !m.g.sq.isEmpty && m.g.actives.all fun l => reachB m (m.g.v2 l 6) (etBytes m.g.et)) (aQueue 1 (mEt 2)) &&
        tOk i (fun m => m.g.actives == [0, 1] && m.place m.g (m.g.v2 0 6) == none) (aBad (mEt 2)) &&
        tOk i (fun m => (m.place m.g (m.g.v2 0 6)).isSome && m.g.v2 0 6 % 4 != 0 && m.g.actives.head? == some 0) (aCore (mEt 2) 0x102 0x104) &&
        tBad (fun m => atomInt m.g.et) (aCore (mEt 15) 0x100 0x108)) = true := by decide +kernel

/-! ### Layouts -/

/-- The 64 bytes of a layout record of one dimension of 8 F32 elements at 256, in region 3 or in the window of a level. -/
def tRec (region loc : Nat) : List Byte :=
  bytesOf 2 region ++ bytesOf 2 (14 * 2 ^ 11 + 1) ++ bytesOf 4 (loc * 2 ^ 20) ++ bytesOf 4 0 ++ bytesOf 4 1 ++ bytesOf 4 0 ++ bytesOf 8 0 ++ bytesOf 4 8 ++
    List.replicate 32 0

def tRgn : Region := ⟨0x200000, 1, 3, 0x3000⟩
def tHandle (loc : Nat) : Handle := ⟨0, 1, 0x100, tRec (if loc = 0 then 3 else 0) loc, if loc = 0 then some tRgn else none, 0, none, false⟩

/-- The same with 64-bit elements. -/
def tWide : Handle := { tHandle 1 with bytes := bytesOf 2 0 ++ bytesOf 2 (15 * 2 ^ 11 + 1) ++ (tRec 0 1).drop 4 }

/-- Handle 0x100, named by s2, live; coordinates in v9: 2 inside, 9 outside the 8 elements. -/
def aHand (mode : Word) (loc : Nat) : State := { aCore mode 0x100 0x108 with handles := [tHandle loc] }

def namedB (m : State) (h : Handle) (seat : Seat) : Bool :=
  m.handle? m.g.pkg m.g.ctx (m.g.sreg 2).toNat == some h && m.seat h m.g.tile == some seat

def tSeat : Seat := .window (tKey 0) 4096 1

theorem witness_LayoutResults_access :
    let l := Layout.ofBytes (tHandle 1).bytes
    let cs := fun (m : State) (i : Nat) => [(m.g.v i 9).toInt]
    (tOk (.ldl 4 2 9 z0) (fun m => namedB m (tHandle 1) tSeat && m.clearB && m.g.actives == [0, 1] && l.inside (cs m 0) && !l.inside (cs m 1) &&
        (l.element (m.version m.g.tile (tHandle 1) false) [2]).all fun p => (m.seatKey tSeat p.off).isSome && !m.poisonedAt (tKey p.off) 1 && atOnceB m (tKey p.off)) (aHand (mEt 2) 1) &&
      tOk (.ldl 4 2 9 z0) (fun m => namedB m (tHandle 0) (.region 0 tRgn) && m.clearB && m.g.actives == [0] && l.inside (cs m 0) && m.lines.isEmpty &&
        (let key := m.regionKey 0 tRgn (((l.element (m.version m.g.tile (tHandle 0) false) [2]).map Part.off).headD 0)
         key == keyPkg 0 (256 + 8) && !m.poisonedAt key 4)) (aHand (mEt 2 + 1) 0) &&
      tOk (.stl 4 2 9 z0) (fun m => namedB m (tHandle 1) tSeat && !m.g.acqPending && decide (m.g.sq.length < 16) && l.inside (cs m 0) &&
        (l.element (m.version m.g.tile (tHandle 1) true) [2]).length == 4 &&
        (l.element (m.version m.g.tile (tHandle 1) true) [2]).all fun p => (m.seatKey tSeat p.off).isSome) (aHand (mEt 2) 1) &&
      ([.ldl 4 3 9 z0, .stl 4 3 9 z0] : List Instr).all (fun i => tOk i (fun m => (m.handle? m.g.pkg m.g.ctx (m.g.sreg 3).toNat).isNone && m.g.actives.head? == some 0)
        (aHand (mEt 2) 1) &&
        tOk i (fun m => namedB m (tHandle 1) tSeat || m.g.actives.isEmpty && m.g.acqPending) (acqHeld (aHand (mEt 2) 1)) &&
        tOk i (fun m => (m.handle? m.g.pkg m.g.ctx (m.g.sreg 3).toNat).isNone && m.g.actives.isEmpty && m.clearB) (aHand (mEt 2 + 2) 1) &&
        tOk i (fun m => (m.handle? m.g.pkg m.g.ctx (m.g.sreg 3).toNat).isNone && m.g.actives.isEmpty && !m.g.acqPending && decide (2 ≤ m.g.ord))
          (aHand (mOrd 2 2 1 + 2) 1)) &&
      ([.ldl 5 2 9 z0, .stl 5 2 9 z0] : List Instr).all (fun i => tOk i (fun m => namedB m tWide tSeat && wideEt (Layout.ofBytes tWide.bytes).et)
        { aHand (mEt 2) 1 with handles := [tWide] }) &&
      tOk (.stl 4 2 9 z0) (fun m => namedB m (tHandle 1) tSeat && !m.g.acqPending && decide (16 ≤ m.g.sq.length) && decide (2 ≤ m.g.ord))
        { aQueue 16 (mOrd 2 2 1) with handles := [tHandle 1] }) = true := by decide +kernel

/-- A group whose s2:s3 is a window address that holds a record, a misaligned address, or no address. -/
def aMake (lo hi : Word) (bytes : List Byte) (hs : List Handle) : State :=
  { (tW (aG 0 [(2, lo), (3, hi)] 0 0 0)).setBytes (tKey 0x100) bytes with handles := hs }

def makeReady (m : State) : Bool := m.g.s2 2 % 64 == 0 && !m.g.acqPending && m.g.sq.isEmpty && !m.underWay m.g.id && m.levelAtB (m.g.s2 2) 64 (tKey 0x100)

theorem witness_LayoutResults_handle :
    (([(1, []), (2, [{ tHandle 1 with h := 1 }])].all fun x => tOk (.tlmake 4 2 z0) (fun m => makeReady m &&
        (Layout.ofBytes (m.bytes (tKey 0x100) 64)).check (m.bytes (tKey 0x100) 64) (m.reduced 0) none == 0 &&
        m.handles.all fun h => h.h != x.1) (aMake 0x100 0xF2000000 (tRec 0 1) x.2)) &&
      tOk (.tlmake 4 2 z0) (fun m => makeReady m && (Layout.ofBytes (m.bytes (tKey 0x100) 64)).check (m.bytes (tKey 0x100) 64) (m.reduced 0) none == 4)
        (aMake 0x100 0xF2000000 (tRec 3 1) []) &&
      tOk (.tlmake 4 2 z0) (fun m => (m.place m.g (m.g.s2 2)).isSome && m.g.s2 2 % 64 == 32) (aMake 0x120 0xF2000000 [] []) &&
      tOk (.tlmake 4 2 z0) (fun m => m.place m.g (m.g.s2 2) == none) (aMake 0x100 0x20000000 [] []) &&
      ([.tldrop 4 2 z0, .tlqry 4 2 16 z0, .tlqry 4 2 15 z0] : List Instr).all fun i =>
        tOk i (fun m => m.handle? 0 m.g.ctx (m.g.sreg 2).toNat == some (tHandle 1) && m.cmds.isEmpty && m.streams.isEmpty) (aHand 0 1) &&
        tOk i (fun m => m.handle? 0 m.g.ctx (m.g.sreg 2).toNat == none) (aMake 0x100 0 [] [])) = true := by decide +kernel

/-! ### Fences, cache control, level pools -/

theorem witness_FenceCacheAndPoolResults_fence :
    (tOk (.fence z0) (fun m => !(decide (2 ≤ m.g.ord) && m.scope != 0)) (aCore (mOrd 2 3 0) 0 0) &&
      tOk (.fence z0) (fun m => decide (2 ≤ m.g.ord) && m.scope != 0 && m.relWaits m.scope) (aQueue 1 (mOrd 2 2 1)) &&
      tOk (.fence z0) (fun m => decide (2 ≤ m.g.ord) && m.scope != 0 && m.g.acqPending) (acqHeld (aCore (mOrd 2 2 1) 0 0)) &&
      tOk (.fence z0) (fun m => decide (2 ≤ m.g.ord) && m.scope != 0 && !m.g.acqPending && !m.relWaits m.scope) (aCore (mOrd 2 2 5) 0 0) &&
      ([0, 1, 2, 3, 4].all fun i => tOk (.cctl 6 i z0) (fun m => m.g.actives == [0] && m.place m.g (m.g.v2 0 6) == some (.home m.g.pkg 0x4000) &&
        (m.translate 0 m.g.ctx 0x4000 1).1 == some 0x4000) (aPkg 0))) = true := by decide +kernel

/-- A tile with one block at offset 1024 of 192 bytes, granules included; s2 a size or an offset. -/
def aPool (x : Word) : State :=
  let s := tW (aG 0 [(2, x)] 0 0 0)
  { s with tiles := [{ tTile with spans := [⟨1024, 192, true, none⟩] }] }

def poolT : Tile := { tTile with spans := [⟨1024, 192, true, none⟩] }

theorem witness_FenceCacheAndPoolResults_pool :
    (([(64, some 1216), (1, some 1216)] : List (Word × Option Nat)).all (fun x => tOk (.lalloc 4 2 1 z0) (fun m => m.poolTile 1 == some poolT && (m.g.sreg 2).toNat != 0 &&
        (m.poolFit poolT (((m.g.sreg 2).toNat + 63) / 64 * 64 + 128)).isSome) (aPool x.1)) &&
      tOk (.lalloc 4 2 2 z0) (fun m => m.poolTile 2 == none) (aPool 64) && tOk (.lalloc 4 2 1 z0) (fun m => m.poolTile 1 == some poolT && (m.g.sreg 2).toNat == 0) (aPool 0) &&
      tOk (.lalloc 4 2 1 z0) (fun m => m.poolTile 1 == some poolT && (m.g.sreg 2).toNat != 0 && (m.poolFit poolT (((m.g.sreg 2).toNat + 63) / 64 * 64 + 128)).isNone) (aPool 4096) &&
      tOk (.lfree 4 2 3 z0) (fun m => m.poolTile 3 == none) (aPool 1088) &&
      tOk (.lfree 4 2 1 z0) (fun m => m.poolTile 1 == some poolT && poolT.spans.any fun sp => sp.block && sp.off + 64 == (m.g.sreg 2).toNat) (aPool 1088) &&
      tOk (.lfree 4 2 1 z0) (fun m => m.poolTile 1 == some poolT && poolT.spans.all fun sp => !(sp.block && sp.off + 64 == (m.g.sreg 2).toNat)) (aPool 1024)) = true := by decide +kernel

/-! ### Barriers -/

/-- Objects at window offsets 0x200 and 0x240, named by s2 and s3; s4 a count or the levels of BLINK; words of the first object. -/
def aBar (s4 : Word) (w0 w1 w2 w3 : Nat) : State :=
  (tW (aG 0 [(2, 0x200), (3, 0x240), (4, s4)] 0 0 0)).withBar (tKey 0x200) w0 w1 w2 w3

/-- Nobody else waits there and no group has the issuing one's id. -/
def aloneB (m : State) (obj : Nat) : Bool :=
  (m.g.splits.all fun p => match p.wait with
    | .barrier o _ _ => o != obj
    | _ => true) && m.g.id != 0 && m.groups.all fun h => h.id != m.g.id

/-- A name that has no place there traps with a code. -/
def misnamesB (m : State) (lv : BitVec 3) (a : BitVec 6) (code : Nat) : Bool :=
  m.resolve m.g lv.toNat != 0 && m.barLegal lv a && decide ((m.barNamed (m.resolve m.g lv.toNat) a).1 = .inl code)

/-- A group whose s3 holds an odd pair field's register, at the package level. -/
def aOdd : State := tW (aG 0 [(2, 0x200), (3, 0x240), (4, 36), (5, 12)] 0 0 0)

theorem witness_BarrierObjectResults :
    (([0, 1, 65535, 65536].all fun k => tOk (.binit 4 2 1 z0) (fun m => m.namesB 1 2 (tKey 0x200) && m.barDev (tKey 0x200) == ⟨tKey 0x200, [], []⟩ && aloneB m (tKey 0x200))
        (aBar k 0 0 0 0)) &&
      tOk (.binit 4 2 0 z0) (fun m => m.resolve m.g 0 == 0) (aBar 1 0 0 0 0) &&
      tOk (.blink 4 2 3 z0) (fun m => m.resolve m.g 1 == 1 && pairNamed 1 2 && pairNamed 1 3 && decide ((m.barNamed 1 2).1 = .inr (tKey 0x200)) &&
        decide (((m.barNamed 1 2).2.barNamed 1 3).1 = .inr (tKey 0x240))) (aBar 9 0x20002 0 0 0) &&
      tOk (.blink 4 2 0 z0) (fun m => m.resolve m.g 1 == 1 && decide ((m.barNamed 1 2).1 = .inr (tKey 0x200)) && !barHeld (m.barWord (tKey 0x200) 0))
        (aBar 1 0x20002 0 0 0) &&
      tOk (.blink 4 2 0 z0) (fun m => m.resolve m.g 1 == 1 && decide ((m.barNamed 1 2).1 = .inr (tKey 0x200)) && barHeld (m.barWord (tKey 0x200) 0) &&
        m.barDev (tKey 0x200) == ⟨tKey 0x200, [], []⟩ && !m.wildBars.contains (tKey 0x200)) (aBar 1 0x600020002 1 0 0) &&
      tOk (.binit 4 3 5 z0) (fun m => !m.barLegal 5 3) aOdd &&
      tOk (.binit 4 4 1 z0) (fun m => misnamesB m 1 4 0x05) (aBar 0x210 0 0 0 0) &&
      tOk (.binit 4 4 1 z0) (fun m => misnamesB m 1 4 0x06) (aBar 0x1000 0 0 0 0) &&
      tOk (.blink 4 2 3 z0) (fun m => m.resolve m.g 1 == 1 && m.resolve m.g 0 == 0) (aBar 1 0 0 0 0) &&
      tOk (.blink 4 3 0 z0) (fun m => m.resolve m.g 4 != 0 && !pairNamed (m.resolve m.g 4) 3) aOdd &&
      tOk (.blink 5 2 3 z0) (fun m => m.resolve m.g 4 == 4 && m.resolve m.g 1 == 1 && pairNamed 4 2 && decide (m.resolve m.g 1 < m.resolve m.g 4)) aOdd &&
      tOk (.blink 4 5 0 z0) (fun m => m.resolve m.g 1 == 1 && decide ((m.barNamed 1 5).1 = .inl 0x05))
        (tW (aG 0 [(2, 0x200), (4, 9), (5, 0x210)] 0 0 0)) &&
      tOk (.blink 4 2 5 z0) (fun m => m.resolve m.g 1 == 1 && decide ((m.barNamed 1 2).1 = .inr (tKey 0x200)) && decide (((m.barNamed 1 2).2.barNamed 1 5).1 = .inl 0x05))
        (tW (aG 0 [(2, 0x200), (4, 9), (5, 0x210)] 0 0 0))) = true := by decide +kernel

def arriveB (s : State) (i : Instr) (lv : BitVec 3) (obj : Nat) : Bool :=
  tOk i (fun m => m.namesB lv 2 obj && !m.wildBars.contains obj && !m.relBar lv 2 obj && aloneB m obj && m.g.sb.all fun e => e.id != m.g.nextSb) s

def openB (m : State) (obj : Nat) : Bool :=
  barExp (m.barWord obj 0) != 0 && !barHeld (m.barWord obj 0) && m.barDev obj == ⟨obj, [], []⟩ && !m.wildBars.contains obj

/-- A child at 0x200 linked to the parent at 0x240 of the same tile, one arrival short; the parent one or two short. -/
def aLinked (pend : Nat) : State := (aBar 0 (0x200010001) (1 + 0x240 * 256) 0 0).withBar (tKey 0x240) (2 + pend * 2 ^ 16) 0 0 0

/-- A store still queued. -/
def aStored (s : State) : State := { s with g := { s.g with sq := [⟨1, none, 2, 0, 1, 0, [], false⟩] } }

theorem witness_BarrierArrivalResults :
    ([.bara 2 1 z0, .barx 4 2 1 z0, .bart 4 2 1 z0] : List Instr).all (fun i =>
      ([0x10001, 0x20002, 0xFFFFFFFF].all fun w0 => arriveB (aBar 0x8001 w0 0 0 0) i 1 (tKey 0x200) && openB (aBar 0x8001 w0 0 0 0) (tKey 0x200) && !barLnk w0) &&
      arriveB (aBar 0 0x600010001 0 0 0) i 1 (tKey 0x200) && barHeld 0x600010001 &&
      ([1, 2].all fun k => arriveB (aLinked k) i 1 (tKey 0x200) && openB (aLinked k) (tKey 0x200) && openB (aLinked k) (tKey 0x240) && aloneB (aLinked k) (tKey 0x240) &&
        (aLinked k).pendAfter (tKey 0x200) == 0 && (aLinked k).ancestor 1 9 (((aLinked k).ownerTile (tKey 0x200)).map Tile.id) == some tTile) &&
      arriveB (aBar 0 0 0 0 0) i 1 (tKey 0x200) && barExp 0 == 0) = true ∧
    ([.bara 2 0 z0, .barx 4 2 0 z0, .bart 4 2 0 z0] : List Instr).all (fun i => tOk i (fun m => m.resolve m.g 0 == 0) (aBar 0 0 0 0 0)) = true ∧
    ([.bara 2 1 z0, .barx 4 2 1 z0, .bart 4 2 1 z0] : List Instr).all (fun i =>
      tOk i (fun m => m.namesB 1 2 (tKey 0x200) && m.relBar 1 2 (tKey 0x200)) (aStored (aBar 0 0x10001 0 0 0))) = true ∧
    ([.bara 3 4 z0, .barx 4 3 4 z0, .bart 4 3 4 z0] : List Instr).all (fun i => tOk i (fun m => !m.barLegal 4 3) aOdd) = true ∧
    ([.bara 4 1 z0, .barx 4 4 1 z0, .bart 4 4 1 z0] : List Instr).all (fun i => tOk i (fun m => misnamesB m 1 4 0x05) (aBar 0x201 0 0 0 0)) = true := by
  decide +kernel

/-- The group with an arrival record of the object at a parity, its arrival queued or not. -/
def aArr (s : State) (par queued : Bool) : State := { s with g := { s.g with arr := some ⟨tKey 0x200, par, queued⟩ } }

def cleanB (m : State) (obj : Nat) : Bool := m.namesB 1 2 obj && !m.wildBars.contains obj && aloneB m obj && ((m.crew? m.g.crew).bind Crew.guard).isNone

theorem witness_BarrierWaitResults :
    (tOk (.barw 4 2 1 z0) (fun m => cleanB m (tKey 0x200) && barExp (m.barWord (tKey 0x200) 0) != 0 &&
        m.g.arr == some ⟨tKey 0x200, !barPh (m.barWord (tKey 0x200) 0), false⟩) (aArr (aBar 0 0x100020002 0 0 5) false false) &&
      ([false, true].all fun q => tOk (.barw 4 2 1 z0) (fun m => cleanB m (tKey 0x200) && barExp (m.barWord (tKey 0x200) 0) != 0 &&
        m.g.arr != some ⟨tKey 0x200, !barPh (m.barWord (tKey 0x200) 0), false⟩) (aArr (aBar 0 0x10002 0 0 0) false q)) &&
      ([.barw 4 2 1 z0, .baraw 4 2 1 z0] : List Instr).all (fun i => tOk i (fun m => cleanB m (tKey 0x200) && barExp (m.barWord (tKey 0x200) 0) == 0 &&
        !m.relBar 1 2 (tKey 0x200)) (aBar 0 0 0 0 0)) &&
      ([.barw 4 2 0 z0, .baraw 4 2 0 z0] : List Instr).all (fun i => tOk i (fun m => m.resolve m.g 0 == 0) (aBar 0 0 0 0 0)) &&
      ([.barw 4 3 4 z0, .baraw 4 3 4 z0] : List Instr).all (fun i => tOk i (fun m => !m.barLegal 4 3) aOdd) &&
      ([.barw 4 4 1 z0, .baraw 4 4 1 z0] : List Instr).all (fun i => tOk i (fun m => misnamesB m 1 4 0x06) (aBar 0 0 0 0 0)) &&
      ([0x10001, 0x20002].all fun w0 => tOk (.baraw 4 2 1 z0) (fun m => cleanB m (tKey 0x200) && openB m (tKey 0x200) && !barLnk (m.barWord (tKey 0x200) 0) &&
        !m.relBar 1 2 (tKey 0x200) && (m.pendAfter (tKey 0x200) == 0) == (w0 == 0x10001)) (aBar 0 w0 0 0 0)) &&
      tOk (.baraw 4 2 1 z0) (fun m => cleanB m (tKey 0x200) && barExp (m.barWord (tKey 0x200) 0) != 0 && barHeld (m.barWord (tKey 0x200) 0) &&
        !m.relBar 1 2 (tKey 0x200)) (aBar 0 0x600010001 0 0 0) &&
      tOk (.baraw 4 2 1 z0) (fun m => m.namesB 1 2 (tKey 0x200) && m.relBar 1 2 (tKey 0x200)) (aStored (aBar 0 0x10001 0 0 0)) &&
      (let s := aArr (aBar 0 0x100010001 0 0 0) false false
       let r : GuardRec := ⟨0, 2, 0x1000, 1, 0, 0, 1⟩
       let c := { tCrew with tile := some 9, guard := some r }
       tOk (.barw 4 2 1 z0) (fun m => m.namesB 1 2 (tKey 0x200) && !m.wildBars.contains (tKey 0x200) && m.g.id != 0 && !m.g.priv && m.crew? m.g.crew == some c && c.st == .run &&
         r.by_ == 0 && r.level == barDomain (tKey 0x200) && barExp (m.barWord (tKey 0x200) 0) != 0 &&
         m.g.arr == some ⟨tKey 0x200, !barPh (m.barWord (tKey 0x200) 0), false⟩) { s with crews := [c] })) = true := by decide +kernel

end Sys2Proof.Machine
end

