-- ==== Sys2Proof/Tests/Witness3.lean ====
section
/-! SUPPORT. Witnesses: for each statement a concrete state and operands that meet its hypotheses, clause by clause. -/

namespace Sys2Proof.Machine

open Host (Outcome)

set_option Elab.async false

def y0 : Ann := ⟨0, 0⟩

/-! ### Ports -/

/-- Eight lanes in one split, group 5 on core 0; s2 a tag. -/
def oG (mode : Word) (s2 : Word) : Group :=
  { tGroup mode [(2, s2)] (tLane [(6, 70), (7, 9)] 3) (tLane [(6, 71), (7, 8)] 3) with
    lanes := List.replicate 8 (tLane [(6, 72), (7, 5)] 3), splits := [⟨0, 0x1000, 255, .none, 4, 0⟩] }

/-- The core east of core 0, with group 6 of crew 8 there; it may wait in PLINK with tag 3. -/
def oCore : Nat := (linkCore 0 3).getD 0
def oH (ctx : Nat) (w : Wait) : Group := { oG 0 0 with id := 6, crew := 8, core := oCore, ctx := ctx, splits := [⟨0, 0x3000, 255, w, 4, 0⟩] }
def oCrew : Crew := { tCrew with id := 8, core := oCore }

/-- The two groups, bound through port 3 and port 5. -/
def oBound (mode : Word) (h : Group) : State :=
  { tState { oG mode 3 with links := [⟨3, 6, true, 3⟩] } with
    groups := [{ h with links := [⟨5, 5, true, 3⟩] }], crews := [tCrew, oCrew] }

/-- A queue of n values at port 5 of group 6, and of values at port 3 of group 5. -/
def oFilled (mode : Word) (n : Nat) (vals : List PortVal) : State :=
  let h := oH 1 .none
  let s := oBound mode { h with linkq := (List.range 8).map fun l => ⟨5, l, List.replicate n ⟨1, true, false, [], false⟩⟩ }
  { s with g := { s.g with linkq := (List.range 8).map fun l => ⟨3, l, vals⟩ } }

def oRoom (m : State) (port l : Nat) : Bool :=
  match m.portPartner m.g port l with
  | some (h, k) => decide ((h.portQ (opposite port) k).length < portDepth h.core (opposite port))
  | none => true

def oVal (x : Word) (landed bad : Bool) : PortVal := ⟨x, landed, false, [], bad⟩

theorem witness_PortResults_push :
    (([.push 6 3 y0, .pushr 6 3 y0, .push 6 0 y0, .push 6 1 y0] : List Instr).all fun i =>
      let port := match i with
        | .push _ p _ => p.toNat
        | .pushr _ p _ => p.toNat
        | _ => 7
      tOk i (fun m => decide (m.g.width ≤ m.g.lanes.length) && m.g.actives == List.range 8 &&
        m.g.actives.all fun l => m.partnerLive m.g port l && oRoom m port l) (oFilled 0 7 []) &&
      tOk i (fun m => m.g.actives.isEmpty) (oFilled 2 0 [])) = true ∧
    ([.push 6 3 y0, .pushr 6 3 y0] : List Instr).all (fun i =>
      tOk i (fun m => m.g.actives.all fun l => m.partnerLive m.g 3 l && !oRoom m 3 l) (oFilled 0 8 []) &&
      tOk i (fun m => m.g.actives.head? == some 0 && !m.partnerLive m.g 3 0) (tState (oG 0 3))) = true := by decide +kernel

theorem witness_PortResults_pop :
    (([.pop 4 3 y0, .peek 4 3 y0] : List Instr).all fun i =>
      tOk i (fun m => m.g.actives == List.range 8 && m.g.actives.all fun l => (m.g.portQ 3 l).isEmpty && m.partnerLive m.g 3 l) (oFilled 0 0 []) &&
      tOk i (fun m => m.g.actives.all fun l => ((m.g.portQ 3 l).head?.map PortVal.landed) == some false) (oFilled 0 0 [oVal 7 false false]) &&
      tOk i (fun m => m.g.actives.isEmpty) (oFilled 2 0 []) &&
      tOk i (fun m => m.g.actives.head? == some 0 && (m.g.portQ 3 0).isEmpty && !m.partnerLive m.g 3 0) (tState (oG 0 3)) &&
      tOk i (fun m => m.g.lowLane == 0 && m.g.actives.all fun l => (m.g.portQ 3 l).head? == some (oVal 7 true true)) (oFilled 0 0 [oVal 7 true true]) &&
      tOk i (fun m => decide (m.g.width ≤ m.g.lanes.length) && m.g.actives == List.range 8 &&
        m.g.actives.all fun l => (m.g.portQ 3 l).head? == some (oVal 7 true false)) (oFilled 0 0 [oVal 7 true false, oVal 8 false false])) = true ∧
    tOk (.pqry 4 3 y0) anyMode (oFilled 0 2 [oVal 7 true false]) = true ∧ tOk (.pqry 4 0 y0) anyMode (tState (oG 0 3)) = true := by decide +kernel

def oFaces (m : State) (h : Group) : Bool :=
  h.pkg == m.g.pkg && h.core == oCore && h.id != 0 && (h.plinkWait 5 (m.g.sreg 2).toNat).isSome && (h.link? 5).isNone
def oFits (m : State) (h : Group) : Bool := oFaces m h && h.ctx == m.g.ctx && h.width == m.g.width
def oOpen (m : State) : Bool := decide ((m.g.sreg 2).toNat < 2 ^ 16) && (m.g.link? 3).isNone && linkCore m.g.core 3 == some oCore
def oMeet (h : Group) : State := { tState (oG 0 3) with groups := [h], crews := [tCrew, oCrew] }

theorem witness_PortLinkResults :
    (tOk (.plink 4 2 1 y0) anyMode (tState (oG 0 3)) && tOk (.plink 4 2 3 y0) (fun m => decide (2 ^ 16 ≤ (m.g.sreg 2).toNat)) (tState (oG 0 0x10000)) &&
      tOk (.plink 4 2 3 y0) (fun m => decide ((m.g.sreg 2).toNat < 2 ^ 16) && (m.g.link? 3).isSome) (oBound 0 (oH 0 .none)) &&
      tOk (.plink 4 2 2 y0) (fun m => (m.g.link? 2).isNone && (linkCore m.g.core 2).isNone) (tState (oG 0 3)) &&
      tOk (.plink 4 2 3 y0) (fun m => oOpen m && m.groups.any (oFaces m) && m.groups.all fun h => !oFits m h) (oMeet (oH 7 (.plink 5 3 6))) &&
      tOk (.plink 4 2 3 y0) (fun m => oOpen m && m.groups.all fun h => !oFaces m h) (oMeet (oH 0 (.plink 5 4 6))) &&
      tOk (.plink 4 2 3 y0) (fun m => oOpen m && m.groups.map (oFits m) == [true] && m.g.id == 5 &&
        m.groups.map (fun h => (h.id, h.splits.length, h.plinkWait 5 3)) == [(6, 1, some (0, 6))]) (oMeet (oH 0 (.plink 5 3 6))) &&
      tOk (.plinkUnlink 4 1 y0) anyMode (tState (oG 0 3)) && tOk (.plinkUnlink 4 3 y0) (fun m => (m.g.link? 3).isNone) (tState (oG 0 3)) &&
      tOk (.plinkUnlink 4 3 y0) (fun m => m.g.link? 3 == some ⟨3, 6, true, 3⟩ && m.groups.map Group.id == [6] && m.g.id == 5) (oBound 0 (oH 0 .none))) = true := by
  decide +kernel

/-- Both groups wait on their port of the binding since 100 ns; the time is t. -/
def oDead (t : Nat) : State :=
  let s := oFilled 0 0 []
  { s with time := t, g := { s.g with splits := [⟨0, 0x1000, 255, .port 3 false, 4, 100⟩] },
           groups := s.groups.map fun h => { h with splits := [⟨0, 0x3000, 255, .port 5 true, 4, 100⟩] } }

theorem witness_PortEventResults :
    (([[], [77]] : List (List Nat)).all fun need =>
      let s := oFilled 0 0 [oVal 7 true false, ⟨8, false, true, need, false⟩]
      (s.group? 5).isSome && decide (0 < s.g.lanes.length) && (s.g.portQ 3 0).find? (fun v => !v.landed) == some ⟨8, false, true, need, false⟩) = true ∧
    ([1000000, 1000100].all fun t => (oDead t).deadSince 5 == some 100 && ((oDead t).allGroups.map Group.id == [5, 6]) &&
      (oDead t).allGroups.all (fun g => !g.priv && !((oDead t).pkg g.pkg).trip && ((oDead t).bindSet 5).contains g.id &&
        (((oDead t).crew? g.crew).map Crew.st) == some .run)) = true ∧
    (oFilled 0 0 []).deadSince 5 = none := by decide +kernel

/-! ### The privileged family -/

def oPriv (s : RegMap) : State := tPriv false s

theorem witness_CsrResults_read :
    ([0x0000, 0x0001, 0x0002, 0x0003, 0x0004, 0x0005, 0x0006, 0x0007, 0x0008, 0x0009, 0x000A, 0x0010, 0x004F, 0x0080, 0x00FF, 0x0400, 0x04FF, 0x1000, 0x2000, 0x2001,
      0x2003, 0x2004, 0x2005, 0x2006, 0x2008, 0x2009, 0x200A, 0x000C, 0x0050, 0x0100, 0x0500, 0x1001, 0x2007].all fun csr => tOk (.csrr 4 csr y0) anyMode (oPriv [])) = true ∧
    tOk (.csrr 0 0x0003 y0) anyMode (tPriv true []) = true ∧
    ([.timelRead 4 y0, .ctxerrRead 4 y0] : List Instr).all (fun i => tOk i anyMode (oPriv [])) = true := by decide +kernel

theorem witness_CsrResults_write :
    ([0x0001, 0x0002, 0x0080, 0x00FF, 0x2006, 0x2008, 0x2009, 0x0000, 0x0003, 0x0004, 0x0007, 0x000B, 0x0010, 0x0400, 0x2000, 0x2001, 0x2002, 0x2005].all fun csr =>
      tOk (.csrw 2 csr y0) anyMode (oPriv [(2, 0xFFFFFFFF)])) = true ∧
    ([1, 65535].all fun x => tOk (.csrw 2 0x000A y0) (fun m => (m.g.sreg 2) == x) (oPriv [(2, x)])) = true ∧
    ([0, 65536].all fun x => tOk (.csrw 2 0x000A y0) (fun m => (m.g.sreg 2) == x && m.g.lowLane == 0) (oPriv [(2, x)])) = true ∧
    ([.preqWrite 2 0 y0, .preqWrite 2 1 y0] : List Instr).all (fun i => tOk i anyMode (oPriv [(2, 0x80000001)])) = true ∧
    ([0, 16, 17].all fun x => tOk (.dsplitWrite 2 y0) (fun m => m.g.sreg 2 == x && (m.pkg? m.g.pkg).isSome && decide (m.g.core / 128 < (m.pkg m.g.pkg).dies.length))
      (oPriv [(2, x)])) = true := by decide +kernel

/-- The agent group beside a crew in a state, number 3 of its core, with the group 5 of eight lanes stopped. -/
def oCrewed (st : CrewSt) (ev : Option Event) (s : RegMap) : State :=
  let p := oPriv s
  let stop : Option Stop := if st = .halted then some ⟨0x1000, 1, 0, 0, 0, 0⟩ else none
  { p with g := { p.g with id := 40 }, crews := [{ tCrew with st := st, event := ev }], groups := [{ oG 0 3 with stop := stop }] }

def oSel : Word := 3 + 2 * 2 ^ 6 + 1 * 2 ^ 10

theorem witness_CrewAndContextResults_items :
    ([0, 63, 0x200, 0x23F, 0x248, 0x24F, 0x240, 0x250, 0x251, 0x252, 0x253, 0x2A0, 0x2A1, 0x2A2].all fun item =>
      ([.ctxrd 4 2 item y0, .ctxwr 4 2 item y0] : List Instr).all fun i =>
        tOk i (fun m => (m.ctxGroup (m.g.sreg 2).toNat).map (fun x => (x.1.id, x.2.1.id, x.2.2)) == some (7, 5, 1) &&
          m.groups.all fun g => decide (8 * (g.lane 1).mark ≤ (g.lane 1).wb) && decide ((g.lane 1).wb + 63 < 8 * (g.lane 1).mark + 64 * g.alloc))
          (oCrewed .halted none [(2, oSel), (4, 5)]) &&
        tOk i (fun m => (m.ctxGroup (m.g.sreg 2).toNat).isNone) (oCrewed .run none [(2, oSel), (4, 5)])) = true ∧
    tOk (.ctxwr 4 2 0x250 y0) (fun m => decide (2 ^ 25 ≤ (m.g.sreg 4).toNat)) (oCrewed .halted none [(2, oSel), (4, 0x2000000)]) = true ∧
    tOk (.ctxwr 4 2 0x253 y0) (fun m => m.g.sreg 4 == 0) (oCrewed .halted none [(2, oSel)]) = true := by decide +kernel

/-- What names a crew by s2: 64 and more, one that is free, the crew of `oCrewed`. -/
def oNamed (m : State) (st : CrewSt) : Bool :=
  decide ((m.g.sreg 2).toNat < 64) && (m.crewAt m.g.pkg m.g.core (m.g.sreg 2).toNat).map (fun c => (c.id, c.st)) == some (7, st) && m.g.priv

def oEvent (code : Nat) : Event := ⟨code, 3, 2, 0, 1, 0x1000, 0⟩

theorem witness_CrewAndContextResults_crews :
    ([.haltcr 4 2 y0, .resume 4 2 y0, .killcr 4 2 y0] : List Instr).all (fun i =>
      tOk i (fun m => decide (64 ≤ (m.g.sreg 2).toNat)) (oCrewed .run none [(2, 64)]) &&
      tOk i (fun m => decide ((m.g.sreg 2).toNat < 64) && (m.crewAt m.g.pkg m.g.core (m.g.sreg 2).toNat).isNone) (oCrewed .run none [(2, 63)]) &&
      tOk i (fun m => oNamed m .busy) (oCrewed .busy none [(2, 3)])) = true ∧
    ([.resume 4 2 y0, .killcr 4 2 y0] : List Instr).all (fun i => tOk i (fun m => oNamed m .halting && m.sysops == [⟨9, 1, .halt 7⟩])
      { oCrewed .halting none [(2, 3)] with sysops := [⟨9, 1, .halt 7⟩] }) = true ∧
    tOk (.haltcr 4 2 y0) (fun m => oNamed m .halted) (oCrewed .halted none [(2, 3)]) = true ∧
    tOk (.haltcr 4 2 y0) (fun m => oNamed m .halting) (oCrewed .halting none [(2, 3)]) = true ∧
    ([.haltcr 4 2 y0, .resume 4 2 y0, .killcr 4 2 y0] : List Instr).all (fun i => tOk i (fun m => oNamed m .run && (m.crewAt 0 0 3).map m.crewBusy == some false &&
      (m.killClosure (m.tiles.length + 1) [7]).all fun k => (m.crew? k).all fun x => x.st != .busy) (oCrewed .run none [(2, 3)])) = true ∧
    tOk (.resume 4 2 y0) (fun m => oNamed m .halted && !flag (m.core 0 0).preq 3) (oCrewed .halted none [(2, 3)]) = true ∧
    tOk (.resume 4 2 y0) (fun m => oNamed m .halted && (oEvent 0x09).fatal) (oCrewed .halted (some (oEvent 0x09)) [(2, 3)]) = true := by decide +kernel

/-! ### Events, TRET, IDLE, translations, caches, tickets, messages -/

/-- The handler group, its core with an event queue and a current event, beside a crew. -/
def oHandler (st : CrewSt) (ev : Option Event) (q : List Event) (cur : Option Event) : State :=
  let s := oCrewed st ev []
  { s with g := { s.g with handler := true }, cores := [{ Core.reset 0 0 with evq := q, cur := cur, released := true, hvec := 0x8000 }] }

def oQueued : State :=
  let s := oHandler .halted none [oEvent 0x10, oEvent 0x11] none
  { s with g := oG 0 0, groups := [s.g] }

theorem witness_HandlerAndServiceResults_events :
    ((oQueued.core 0 0).evq.length == 2 && (oQueued.core 0 0).cur.isNone && !(oQueued.core 0 0).slotFault && (oQueued.core 0 0).released &&
      (oQueued.groups.any fun g => g.priv && g.handler && g.pkg == 0 && g.core == 0) && (((oPriv []).core 0 0).evq.isEmpty) &&
      tOk (.tret y0) (fun m => m.g.handler && (m.core 0 0).cur.isSome && (m.crewAt 0 0 9).isNone) (oHandler .run none [] (some { oEvent 0x09 with crew := 9 })) &&
      ([0x10, 0x11].all fun k => tOk (.tret y0) (fun m => m.g.handler && (m.core 0 0).cur == some (oEvent k) && m.g.priv &&
        m.groups.all fun g => g.crew == 7 && g.num == 2 && !g.priv && g.lanes.all fun l => !l.needSpill g.alloc && !l.needFill)
        (oHandler .run none [] (some (oEvent k)))) &&
      tOk (.tret y0) (fun m => m.g.handler && !(oEvent 0x20).fatal && ((m.crewAt 0 0 3).bind Crew.event) == (m.core 0 0).cur)
        (oHandler .halted (some (oEvent 0x20)) [] (some (oEvent 0x20))) &&
      tOk (.tret y0) (fun m => m.g.handler && (oEvent 0x09).fatal && ((m.crewAt 0 0 3).bind Crew.event) == (m.core 0 0).cur)
        (oHandler .halted (some (oEvent 0x09)) [] (some (oEvent 0x09))) &&
      tOk (.tret y0) (fun m => !m.g.handler && m.g.lowLane == 0) (oPriv []) && tOk (.idle y0) (fun m => m.g.handler && m.g.lowLane == 0) (tPriv true []) &&
      ([true, false].all fun w => tOk (.idle y0) (fun m => !m.g.handler && (m.core 0 0).work == w)
        { oPriv [] with cores := [{ Core.reset 0 0 with work := w }] })) = true := by decide +kernel

/-- A privileged group of process context 1 whose package maps the first GiB; s2:s3 an address of it, s4 an argument. -/
def oMapped (lo hi arg : Word) : State :=
  let p := tPriv false [(2, lo), (3, hi), (4, arg)]
  tW { p.g with ctx := 1 }

/-- A load under way whose bytes were found by a translation of context 1. -/
def oUnder : Packet := ⟨77, 0, 0, 3, 9, 7, 1, 0, some 1, 0x1000, 0x10000000010010, .load 4, [], 7, 0, 0, 0, 4, true, false, some (keyPkg 0 0x10010), [], 0⟩

def oSends (m : State) : Bool := !m.relWaits 4 && m.g.sreg 4 == 16 && m.g.s2 2 % 16 == 0 && m.g.lowLane == 0

theorem witness_HandlerAndServiceResults_services :
    ([0x10000, 0x10001].all fun lo => tOk (.tlbinv 4 2 4 y0) (fun m => (m.g.s2 2 % 65536 == 0) == (lo == 0x10000)) (oMapped lo 0 0x100001)) = true ∧
    ([1, 2, 3].all fun k => tOk (.cinv 2 k y0) anyMode (oMapped 0x4000 0x100000 0)) = true ∧
    tOk (.cinv 2 0 y0) (fun m => m.place m.g (m.g.s2 2) == some (.home 0 0x4000) && (m.translate 0 m.g.ctx 0x4000 0).1 == some 0x4000) (oMapped 0x4000 0x100000 0) = true ∧
    tOk (.cinv 2 0 y0) (fun m => m.place m.g (m.g.s2 2) == some (.home 1 0x4000)) (oMapped 0x4000 0x100 0) = true ∧
    tOk (.cinv 2 0 y0) (fun m => (m.place m.g (m.g.s2 2)).isNone && m.g.lowLane == 0) (oMapped 0x4000 0x20000000 0) = true ∧
    tOk (.tkt 4 2 4 y0) (fun m => !m.relWaits 4 && m.g.s2 2 % 8 == 0 && m.place m.g (m.g.s2 2) == some (.home 0 0x4000) &&
      (m.translate 0 m.g.ctx 0x4000 3).1 == some 0x4000 && m.quietB 8 (keyPkg 0 0x4000)) (oMapped 0x4000 0x100000 0xFFFFFFFF) = true ∧
    tOk (.tkt 4 2 4 y0) (fun m => !m.relWaits 4 && m.g.s2 2 % 8 == 4 && m.place m.g (m.g.s2 2) == some (.home 0 0x4004) && m.g.lowLane == 0) (oMapped 0x4004 0x100000 1) = true ∧
    tOk (.tkt 4 2 4 y0) (fun m => !m.relWaits 4 && m.place m.g (m.g.s2 2) == some (.home 1 0x4000)) (oMapped 0x4000 0x100 1) = true ∧
    ([16, 4096].all fun n => tOk (.hmsg 4 2 4 y0) (fun m => !m.relWaits 4 && m.g.sreg 4 == n && m.g.s2 2 % 16 == 0 && m.poison.isEmpty &&
      m.keysB (m.g.s2 2) n.toNat 1 0x4000 && (m.pkg m.g.pkg).member) (oMapped 0x4000 0x100000 n)) = true ∧
    ([0, 8, 17, 4112].all fun n => tOk (.hmsg 4 2 4 y0) (fun m => !m.relWaits 4 && m.g.sreg 4 == n) (oMapped 0x4000 0x100000 n)) = true ∧
    ([.tkt 4 2 4 y0, .hmsg 4 2 4 y0] : List Instr).all (fun i =>
      let s := oMapped 0x4000 0x100000 16
      tOk i (fun m => m.relWaits 4) { s with g := { s.g with sb := [⟨3, [], true⟩] } }) = true ∧
    tOk (.tlbinv 4 2 4 y0) (fun m => m.g.s2 2 % 65536 == 0 && m.translated m.g.pkg ((m.g.sreg 4).toNat / 2 ^ 20) (fun base len =>
        (m.g.sreg 4).toNat % 2 ^ 20 == 0 || (decide (base < m.g.s2 2 % 2 ^ 40 + (m.g.sreg 4).toNat % 2 ^ 20 * 65536) && decide (m.g.s2 2 % 2 ^ 40 < base + len))) == [77])
      { oMapped 0x10000 0 0x100001 with net := [oUnder] } = true ∧
    tOk (.hmsg 4 2 4 y0) (fun m => oSends m && (m.messageKeys m.g (m.g.s2 2) 16).1 == .inl 0x06) (oMapped 0x4000 0x20000000 16) = true ∧
    tOk (.hmsg 4 2 4 y0) (fun m => oSends m && (m.messageKeys m.g (m.g.s2 2) 16).1 == .inl 0x06) (oMapped 0x4000 0x100 16) = true ∧
    tOk (.hmsg 4 2 4 y0) (fun m => oSends m && (m.messageKeys m.g (m.g.s2 2) 16).1 == .inl 0x0E)
      { oMapped 0x4000 0x100 16 with pkgs := [tPkg, { tPkg with num := 1, pstate := 4 }] } = true ∧
    tOk (.hmsg 4 2 4 y0) (fun m => oSends m && m.keysB (m.g.s2 2) 16 1 0x4000 && (m.pkg m.g.pkg).member && m.poisonedAt (keyPkg 0 0x4000) 1)
      { oMapped 0x4000 0x100000 16 with poison := [keyPkg 0 0x4000] } = true := by decide +kernel

/-- A message 60 waiting for the host since time 0, its reply entry 1 of group 5; the time is t. -/
def oMsg (t : Nat) : State :=
  let s := tState { tG 0 with sb := [⟨1, [(.s 4, none)], false⟩], nextSb := 2 }
  { s with time := t, cmds := [⟨60, 0, 0, 0, 5, 2, 0x1000, 7, none, 1, none, some 1, 0, false, 0, [], [], [], .hmsg [1, 2]⟩] }

theorem witness_HandlerAndServiceResults_timeout :
    ([999999, 1000000].all fun t => ((oMsg t).cmd? 60).map (fun c => (c.kind, c.gid, c.reply, c.time)) == some (.hmsg [1, 2], 5, some 1, 0) &&
      ((oMsg t).group? 5).map (fun g => g.sb.length) == some 1) = true := by decide +kernel

end Sys2Proof.Machine
end

