-- ==== Sys2Proof/Tests/Witness4.lean ====
section
/-! SUPPORT. Witnesses: for each statement a concrete state and operands that meet its hypotheses, clause by clause. -/

namespace Sys2Proof.Machine

open Host (Outcome)

set_option Elab.async false

/-! ### SAVE and RSTR -/

/-- The agent group of core 0 in process context 1: s2 a crew number, s4:s5 an address of package memory. Crew 3 beside it, in the tile of `tTile`. -/
def vS (num lo : Word) (st : CrewSt) : State :=
  let s := oMapped 0 0 0
  { s with g := { s.g with id := 40, s := [(2, num), (4, lo), (5, 0x100000)] }, crews := [{ tCrew with st := st, tile := some 9 }], trees := [tTree 0],
           groups := [{ oG 0 3 with tile := some 9, stop := if st = .halted then some ⟨0x1000, 1, 0, 0, 0, 0⟩ else none }] }

def vNamed (m : State) (st : CrewSt) : Bool :=
  decide ((m.g.sreg 2).toNat < 64) && m.crewAt m.g.pkg m.g.core (m.g.sreg 2).toNat == some { tCrew with st := st, tile := some 9 }

def vFree (m : State) : Bool := decide ((m.g.sreg 2).toNat < 64) && (m.crewAt m.g.pkg m.g.core (m.g.sreg 2).toNat).isNone

/-- The crew that SAVE takes. -/
def vCrew : Crew := { tCrew with st := .halted, tile := some 9 }

theorem witness_SaveRestoreResults_codes :
    ([.save 6 2 4 y0, .rstr 6 2 4 y0] : List Instr).all (fun i => tOk i (fun m => decide (64 ≤ (m.g.sreg 2).toNat)) (vS 64 0x4000 .halted) &&
      tOk i (fun m => m.g.s2 4 % 256 == 128) (vS 3 0x4080 .halted)) = true ∧
    tOk (.save 6 2 4 y0) (fun m => m.g.s2 4 % 256 == 0 && vFree m) (vS 9 0x4000 .run) = true ∧
    ([.run, .halting] : List CrewSt).all (fun st => tOk (.save 6 2 4 y0) (fun m => m.g.s2 4 % 256 == 0 && vNamed m st && !m.crewBusy { vCrew with st := st })
      (vS 3 0x4000 st)) = true ∧
    ([.run, .halting, .halted] : List CrewSt).all (fun st => tOk (.rstr 6 2 4 y0) (fun m => m.g.s2 4 % 256 == 0 && vNamed m st && !m.crewBusy { vCrew with st := st })
      (vS 3 0x4000 st)) = true ∧
    ([.save 6 2 4 y0, .rstr 6 2 4 y0] : List Instr).all (fun i => ([.halting, .busy] : List CrewSt).all fun st =>
      tOk i (fun m => m.g.s2 4 % 256 == 0 && vNamed m st && m.crewBusy { vCrew with st := st }) { vS 3 0x4000 st with sysops := [⟨9, 1, .halt 7⟩] }) = true := by
  decide +kernel

def vThere (m : State) : Bool :=
  m.g.s2 4 % 256 == 0 && vNamed m .halted && vCrew.tile.bind m.tile? == some tTile && m.treeOf tTile == some (tTree 0) && !m.setUnhalted vCrew

theorem witness_SaveRestoreResults_save :
    (let s := vS 3 0x4000 .halted
     tOk (.save 6 2 4 y0) (fun m => vThere m && m.saveWaits vCrew)
       { s with cmds := [⟨60, 0, 0, 0, 5, 2, 0x1000, 7, none, 1, none, none, 0, false, 0, [], [], [], .hmsg []⟩] } &&
     tOk (.save 6 2 4 y0) (fun m => vThere m && !m.saveWaits vCrew && m.vats.isEmpty && m.cmds.isEmpty && m.liveBars.isEmpty && m.g.unretired.isEmpty &&
       m.keysB (m.g.s2 4) (m.saveArea vCrew tTile (tTree 0)).length 2 0x4000) s) = true := by decide +kernel

/-- The keys of the area are distinct, as the clause asks. -/
theorem witness_SaveRestoreResults_keys : ∃ ks, ((vS 3 0x4000 .halted).merged.localKeys (vS 3 0x4000 .halted).merged.g 0x10000000004000 1536 2).1 = some ks ∧ ks.Nodup := by
  obtain ⟨f, c, e⟩ := keys_of (s := (vS 3 0x4000 .halted).merged) (va := 0x10000000004000) (n := 1536) (need := 2) (pa := 0x4000) (by decide +kernel)
  exact ⟨_, by rw [e], keys_nodup _ _ _⟩

/-- What SAVE leaves of the crew, and its area in memory from 0x4000 with some bytes changed. -/
def vSaved : Saved := ⟨7, 0, 0, 3, 1, 0, 9, [⟨2, 5, some 9, [], [], none, false, [], [], []⟩], []⟩

def vArea : List Byte := (vS 3 0x4000 .halted).saveArea vCrew tTile (tTree 0)

def vR (area : List Byte) : State :=
  let s := vS 3 0x4000 .halted
  { s.setBytes (keyPkg 0 0x4000) area with crews := [], groups := [], tiles := [{ tTile with home := savedHome 9 }], saved := [vSaved] }

def vTile : Tile := { tTile with home := savedHome 9 }

def vProto : Crew := ⟨7, 0, 0, 3, 1, .halted, some 9, 0, [], 1, 8, 0, none, [], none, none, true⟩

/-- What RSTR finds at the address in a state that holds an area of n bytes, before its TLB answers. -/
def vRead (m : State) (n : Nat) : Bool :=
  m.g.s2 4 % 256 == 0 && vFree m && m.keysB (m.g.s2 4) 256 1 0x4000 && m.keysB (m.g.s2 4) n 1 0x4000 &&
  leField (m.bytes (keyPkg 0 0x4000) 256) 0x2C 4 == n && decide (256 ≤ n) && decide (n ≤ 2 ^ 24)

theorem witness_SaveRestoreResults_restore :
    vArea.length = 1536 ∧ tOk (.rstr 6 2 4 y0) (fun m => vRead m 1536 && m.bytes (keyPkg 0 0x4000) 1536 == vArea) (vR vArea) = true ∧
    (areaCheck vArea).map (fun i => i.map Prod.fst) = some [1] ∧
    (let m := (vR vArea).merged
     (m.saved.find? (fun v => v.pkg == m.g.pkg && v.core == leField vArea 0x16 2 && v.lgen == leField vArea 0x10 4 && v.ctx == leField vArea 4 2) == some vSaved &&
       m.tile? vSaved.tile == some vTile && ((areaCheck vArea).map fun items => m.coreFits vSaved vTile items m.g.core) == some true &&
       (m.coreSeat vTile m.g.pkg m.g.core).isSome && (m.placeCrew vProto (leField vArea 6 1) (leField vArea 2 1)).isSome &&
       leField vArea 6 1 == 1 && 8 * 2 ^ leField vArea 3 1 == 8 && (areaBlocks vArea).length == 1 &&
       (vSaved.groups.all fun v => v.parked.isEmpty) && m.crews.all fun k => k.id != 7) = true) := by
  decide +kernel

theorem witness_SaveRestoreResults_badArea :
    areaCheck (bytesOf 2 2 ++ vArea.drop 2) = none ∧
    tOk (.rstr 6 2 4 y0) (fun m => vRead m 1536 && m.bytes (keyPkg 0 0x4000) 1536 == bytesOf 2 2 ++ vArea.drop 2) (vR (bytesOf 2 2 ++ vArea.drop 2)) = true := by
  decide +kernel

/-- The two reads of the header and of the area answer as the clauses ask, whatever the TLB serves. -/
theorem witness_SaveRestoreResults_read (area : List Byte) (h : (let m := (vR area).merged; m.keysB (m.g.s2 4) 256 1 0x4000 && m.keysB (m.g.s2 4) 1536 1 0x4000) = true) :
    let m := (vR area).merged
    ∃ hs ks, (m.localKeys m.g (m.g.s2 4) 256 1).1 = some hs ∧ hs = (List.range 256).map (fun j => keyPkg m.g.pkg (0x4000 + j)) ∧
      ((m.localKeys m.g (m.g.s2 4) 256 1).2.localKeys m.g (m.g.s2 4) 1536 1).1 = some ks ∧ ks = (List.range 1536).map (fun j => keyPkg m.g.pkg (0x4000 + j)) := by
  intro m
  simp only [Bool.and_eq_true] at h
  obtain ⟨f, c, e⟩ := keys_of h.1
  obtain ⟨f', c', e'⟩ := keys_leaf h.2 f c
  refine ⟨_, _, by rw [e], rfl, ?_, rfl⟩
  rw [e]
  exact congrArg Prod.fst e'

/-- The TLB that the reads leave changes nothing of what the restore looks at. -/
theorem witness_SaveRestoreResults_tlb (m : State) (e : Tlb) (f : Nat) (b : Bool) (sv : Saved) (t : Tile) (items : List (Nat × List Byte)) (core : Nat) (p : Crew) (a n : Nat) :
    (m.oneLeaf e f b).saved = m.saved ∧ (m.oneLeaf e f b).tile? = m.tile? ∧ (m.oneLeaf e f b).coreFits sv t items core = m.coreFits sv t items core ∧
      (m.oneLeaf e f b).coreSeat t p.pkg core = m.coreSeat t p.pkg core ∧ (m.oneLeaf e f b).placeCrew p a n = m.placeCrew p a n := ⟨rfl, rfl, rfl, rfl, rfl⟩

/-! ### Spill and fill -/

/-- A group whose split spills or fills; crew 3 of core 0 with a spill area or none. -/
def sS (w : Wait) (base wb mark : Nat) : State :=
  let g := { oG 0 3 with lanes := List.replicate 8 { tLane [(60, 1), (70, 2)] 1 with wb := wb, mark := mark }, splits := [⟨0, 0x1000, 255, w, 4, 0⟩] }
  { tState g with cores := [{ Core.reset 0 0 with spilla := if base = 0 then [] else [(3, base)] }] }

def sBase (s : State) : Nat := ((s.crew? 7).map fun c => (s.core c.pkg c.core).spill c.num).getD 0

theorem witness_SpillFillResults :
    ([sS .spill 0x100000 56 0, sS .fill 0x100000 8 7, sS .spill 0 56 0, sS .none 0 56 0].all fun s =>
      (s.group? 5).any fun g => (g.split? 0).isSome && s.crew? g.crew == some tCrew && g.width == g.lanes.length) = true ∧
    sBase (sS .spill 0x100000 56 0) = 0x100000 ∧ sBase (sS .spill 0 56 0) = 0 ∧ tCrew.event = none ∧
    ((sS .spill 0x100000 56 0).group? 5).map (fun g => (List.range g.width).find? fun l => decide (8 * (g.lane l).mark + 64 * g.alloc < (g.lane l).wb + 64)) = some (some 0) ∧
    ((sS .fill 0x100000 8 7).group? 5).map (fun g => (List.range g.width).find? fun l => decide ((g.lane l).wb < 8 * (g.lane l).mark)) = some (some 0) := by
  decide +kernel

/-! ### Halts, landing, draining -/

/-- Crew 7 in a state, its group stopped or not and waiting as given since 5; PREQ bits, the time of the request, the time. -/
def hS (st : CrewSt) (ev : Option Event) (stopped : Bool) (w : Wait) (preq : Nat) (at_ : Option Nat) (time : Nat) : State :=
  let g := { oG 0 3 with stop := if stopped then some ⟨0x1000, 1, 0, 0, 0, 0⟩ else none, splits := [⟨0, 0x1000, 255, w, 4, 5⟩] }
  { tState g with crews := [{ tCrew with st := st, event := ev, preqAt := at_ }], cores := [{ Core.reset 0 0 with preq := preq, grace := 2 }], time := time }

def hLive (g : Group) : Bool := g.id != 0 && g.crew == 7 && !g.priv && g.live != 0

theorem witness_HaltEventResults :
    ([hS .halting (some (oEvent 0x09)) true .none 0 none 0, hS .run none true .none 8 none 0].all fun s => (s.crew? 7).isSome &&
      s.allGroups.any hLive && s.allGroups.all (fun g => !hLive g || g.stop.isSome) && s.allGroups.all fun g => g.num == (oEvent 0x09).group) = true ∧
    flag ((hS .run none true .none 8 none 0).core 0 0).preq 3 = true ∧ ((hS .halting (some (oEvent 0x09)) true .none 0 none 0).crew? 7).map Crew.event = some (some (oEvent 0x09)) ∧
    ([2009, 2010].all fun t => let s := hS .run none false .none 8 (some 10) t
      ((s.crew? 7).map Crew.preqAt) == some (some 10) && flag (s.core 0 0).preq 3 && (s.core 0 0).grace == 2 && !(s.pkg 0).trip) = true ∧
    ([.held, .fence] : List Wait).all (fun w => [10000004, 10000005].all fun t => let s := hS .run none false w 0 none t
      (s.group? 5).any fun g => g.crew == 7 && !g.priv && g.stop.isNone && (g.split? 0).map (fun p => (p.wait, p.since)) == some (w, 5) && !(s.pkg g.pkg).trip) = true := by
  decide +kernel

/-- One group of that id, alone. -/
def oneB (s : State) (gid : Nat) : Bool := gid != 0 && s.allGroups.map Group.id == [gid]

theorem one_of {s : State} {gid : Nat} (h : oneB s gid = true) : s.theGroup gid s.g := by
  simp only [oneB, Bool.and_eq_true, bne_iff_ne, beq_iff_eq, State.allGroups, List.map_cons, List.cons.injEq, List.map_eq_nil_iff] at h
  refine ⟨h.1, List.mem_cons_self .., h.2.1, fun h' hm _ => ?_⟩
  simp only [State.allGroups, h.2.2, List.mem_singleton] at hm
  exact hm

def lE (ws : List (Target × Option Word)) : State := tState { oG 0 3 with sb := [⟨1, ws, false⟩], nextSb := 2 }

theorem witness_LandAndDrainResults_land :
    ([[(.v 0 4, some 7), (.v 1 4, some 8)], [(.s 0, some 1)], [(.s 5, some 1), (.p 1 3, some 1)]] : List (List (Target × Option Word))).all (fun ws =>
      oneB (lE ws) 5 && (lE ws).g.sb.find? (fun e => e.id == 1) == some ⟨1, ws, false⟩ && ws.all (fun w => w.2.isSome) && decide (ws.map Prod.fst).Nodup) = true ∧
    oneB (lE [(.s 5, none)]) 5 = true := by decide +kernel

def quietForB (s : State) (n key : Nat) : Bool := s.quietB n key

theorem quietFor_of {s : State} {n key : Nat} (h : quietForB s n key = true) : s.quietFor s.g n key := quietAt_of h

/-- A store of lane 0 at the head of the queue: its address, place, data, and the operation of a RED. -/
def dE (red key : Option Nat) (va : Nat) (more : Bool) : StoreEntry :=
  ⟨3, red, 2, 0, 1, 0x1000, ⟨0, va, [1, 2, 3, 4], [], key⟩ :: if more then [⟨1, va + 4, [5, 6, 7, 8], [], key⟩] else [], false⟩

def dS (e : StoreEntry) : State :=
  let s := tW { oG 0 3 with sq := [e] }
  { s with pkgs := s.pkgs ++ [{ tPkg with num := 1 }] }

def drainB (s : State) (e : StoreEntry) : Bool := oneB s 5 && s.g.sq == [e] && s.drainable s.g e && s.g.live != 0 && s.net.all fun p => p.gid != 5

def winAt (o : Nat) : Nat := 0xF200000000000000 + o

theorem witness_LandAndDrainResults_drain :
    ([none, some 0, some 6].all fun red =>
      (let e := dE red none (winAt 0x100) false
       let s := dS e
       drainB s e && quietForB s 4 (tKey 0x100) && s.place s.g (winAt 0x100) == some (.level (tKey 0x100) 1 0x100 4096) && !s.guardHit (tKey 0x100) 0x100 4096 4) &&
      (let e := dE red none 0x10000000004000 true
       let s := dS e
       drainB s e && quietForB s 4 (keyPkg 0 0x4000) && s.place s.g 0x10000000004000 == some (.home 0 0x4000) &&
         (s.translate 0 s.g.ctx 0x4000 (if red.isSome then 3 else 2)).1 == some 0x4000 && s.lines.isEmpty) &&
      (let e := dE red none 0x10000004000 false
       let s := dS e
       drainB s e && s.place s.g 0x10000004000 == some (.home 1 0x4000) && (s.pkg 1).member) &&
      [0x20000000004000, 0x20000004000].all fun va =>
        (let e := dE red none va false
         let s := dS e
         drainB s e && (s.place s.g va == none || (s.place s.g va == some (.home 2 0x4000) && !(s.pkg 2).member)))) = true ∧
    (let e := dE none (some (tKey 0x100)) 0 false
     drainB (dS e) e && quietForB (dS e) 4 (tKey 0x100)) = true ∧
    (let e := { dE none none (winAt 0x100) false with ord := 2, sc := 5 }
     let s := dS e
     let s := { s with g := { s.g with unacked := [9] } }
     oneB s 5 && s.g.sq == [e] && !s.drainable s.g e) = true ∧
    (let r : Response := ⟨⟨9, 0, 1, 0, 5, 7, 1, 0, none, 0x1000, 0, .store, [], 2, 0, 0, 0, 1, true, false, none, [], 0⟩, 0, [], 0, 0⟩
     let s := { dS (dE none none 0 false) with resp := [r] }
     oneB s 5 && s.resp.contains r && r.pkt.sb.isNone) = true := by decide +kernel

/-! ### The fabric -/

def fPkt (kind : AccKind) (data : List Byte) (sb : Option Nat) : Packet := ⟨9, 1, 0, 0, 5, 7, 1, 0, sb, 0x1000, 0x4000, kind, data, 2, 0, 0, 0, 1, true, false, none, [], 0⟩

/-- The packet at its target, which has the page tables of context 1 or is stopped. -/
def fS (p : Packet) (pstate : Nat) : State :=
  let s := tW { oG 0 3 with pkg := 1 }
  { s with net := [p], pkgs := (s.pkgs.map fun k => { k with pstate := pstate }) ++ [{ tPkg with num := 1 }] }

theorem witness_FabricAccessResults_target :
    ([(AccKind.load 4, ([] : List Byte)), (.store, [1, 2, 3, 4])].all fun kd => [0, 5].all fun sv =>
      let p := fPkt kd.1 kd.2 none
      let s := fS p sv
      s.net.find? (fun q => q.id == p.id) == some p && !s.packetBlocked p && p.key.isNone && !s.tooOld p.sent && (s.reaches p.src p.dst == (sv == 0)) && s.resp.isEmpty && p.res0 == 0 && s.pend.isEmpty && s.poison.isEmpty &&
      (s.translate p.dst p.ctx p.off p.need).1 == some 0x4000 && quietForB s 4 (keyPkg 0 0x4000) && oneB s 5 && (s.crew? p.crew).isSome) = true ∧
    (let p := { fPkt (.load 4) [] none with ctx := 2 }
     let s := fS p 0
     !s.packetBlocked p && s.reaches p.src p.dst && (s.translate p.dst p.ctx p.off p.need).1.isNone) = true ∧
    (let p := { fPkt (.load 4) [] none with res0 := 1 }
     let s := fS p 0
     !s.packetBlocked p && s.reaches p.src p.dst && p.key.isNone && !s.tooOld p.sent) = true ∧
    (let p := fPkt (.load 4) [] none
     let s := { fS p 0 with extended := true, time := 10 ^ 7 + 1 }
     !s.packetBlocked p && p.key.isNone && s.tooOld p.sent && s.resp.isEmpty) = true ∧
    ([(AccKind.load 4, ([] : List Byte), some 1), (.store, [1, 2, 3, 4], none)].all fun kd =>
      let p := { fPkt kd.1 kd.2.1 kd.2.2 with src := 0, key := some (keyPkg 0 0x4000), alloc := false }
      let s := { tW (oG 0 3) with net := [p] }
      s.net.find? (fun q => q.id == p.id) == some p && !s.packetBlocked p && oneB s 5 && quietForB s 4 (keyPkg 0 0x4000) && s.lines.isEmpty &&
        (s.crew? p.crew).isSome && keyPkg 0 0x4000 % 64 == 0) = true := by decide +kernel

/-- The response to the load of lane 0 that entry 1 waits for. -/
def fR (code : Nat) : Response := ⟨fPkt (.load 4) [] (some 1), code, [1, 2, 3, 4], 0, 0⟩
def fB (code : Nat) : State := { lE [(.v 0 4, none)] with resp := [fR code] }

theorem witness_FabricAccessResults_response :
    ([0, 1, 5, 6, 8, 7].all fun code => (fB code).resp.find? (fun q => q.pkt.id == (fR code).pkt.id && q.pkt.sb.isSome) == some (fR code) && oneB (fB code) (fR code).pkt.gid &&
      (fB code).g.sb.find? (fun e => e.id == 1) == some ⟨1, [(.v (fR code).pkt.lane 4, none)], false⟩ && !wideEt (fR code).pkt.et &&
      ((fB code).g.splits.find? (fun q => flag q.mask 0)).map Split.idx == some 0 && !(fB code).g.priv && (fB code).crew? (fB code).g.crew == some tCrew && tCrew.st == .run) = true := by
  decide +kernel

/-! ### Imprecise faults -/

def iR (kind crewId : Nat) : Imprecise := ⟨kind, 0x0A, 0, 0, crewId, 3, 5, 2, 1, 0, 0x1000, 0x4000, 0, 0, 0⟩

/-- Context 1 with a fault queue of 16 records at 0x8000, its header at 0x7000, whose write index is n. -/
def iS (kind crewId n : Nat) : State :=
  let s := tW (oG 0 3)
  let s := (((s.setNum (keyPkg 0 0x1400B8) 8 0x7000).setNum (keyPkg 0 0x7000) 8 0x8000).setNum (keyPkg 0 0x7008) 1 4).setNum (keyPkg 0 0x7010) 8 n
  { s with imprecise := [iR kind crewId] }

theorem witness_ImpreciseFaultResults :
    ([(1, 7), (4, 7), (1, 99), (7, 0)].all fun kc => [3, 16].all fun n =>
      let s := iS kc.1 kc.2 n
      s.imprecise == [iR kc.1 kc.2] && s.ctxLive 0 1 && s.ctxField 0 1 0x38 8 == 0x7000 && s.num (keyPkg 0 0x7010) 8 == n && s.num (keyPkg 0 0x7000) 8 == 0x8000 &&
      2 ^ field (s.num (keyPkg 0 0x7008) 1) 4 0 == 16 && ((s.crew? kc.2).isSome == (kc.2 == 7)) &&
      ((s.crew? 7).map fun c => (c.st, c.event.isNone)) == some (.run, true)) = true := by decide +kernel

end Sys2Proof.Machine
end

