-- ==== Sys2Proof/Tests/Witness5.lean ====
section
/-! SUPPORT. Witnesses: for each statement a concrete state and operands that meet its hypotheses, clause by clause. -/

namespace Sys2Proof.Machine

open Host (Outcome)

set_option Elab.async false

def q0 : Ann := ⟨0, 0⟩

/-! ### Copies -/

/-- A record as `tRec` at 256 times a base. -/
def cRec (base : Nat) : List Byte :=
  bytesOf 2 0 ++ bytesOf 2 (14 * 2 ^ 11 + 1) ++ bytesOf 4 (2 ^ 20) ++ bytesOf 4 0 ++ bytesOf 4 base ++ bytesOf 4 0 ++ bytesOf 8 0 ++ bytesOf 4 8 ++ List.replicate 32 0

def cHandle (h base : Nat) : Handle := ⟨0, 1, h, cRec base, none, 0, none, false⟩

/-- A descriptor: handles, operation, children from 0 on by mask, extents 2 and 1, origin of the source 1, step 0, an index offset and count. -/
def cDesc (src dst rop kids icnt : Nat) : List Byte :=
  bytesOf 2 src ++ bytesOf 2 dst ++ bytesOf 4 rop ++ bytesOf 4 0x200 ++ bytesOf 2 0 ++ bytesOf 2 0 ++ bytesOf 8 kids ++ bytesOf 4 1 ++ List.replicate 36 0 ++
    bytesOf 2 2 ++ bytesOf 2 1 ++ bytesOf 2 1 ++ bytesOf 2 1 ++ bytesOf 2 1 ++ List.replicate 6 0 ++ bytesOf 4 0x600 ++ bytesOf 4 icnt ++ List.replicate 40 0

/-- A batch of four children with the first running in tile 11. -/
def cKids : List Child := (List.range 4).map fun k => ⟨k, if k = 0 then .running 11 else .waiting, 0, k == 0, false, false, [], none, [], [], k == 1⟩
def cBatch : Batch := ⟨20, 4, 0, 0, none, none, cKids, [], 0⟩
def cTile : Tile := { tTile with batch := some cBatch }

/-- The child's tile: CORE memory of 1024 bytes at 0x20000 of core 0. -/
def cKid : Tile := ⟨11, 8, 0, 0, 1, 0, some 9, 8, 1, 1024, keyCore 0 0 0x20000, 0, [], none, true, 0, []⟩

/-- Group 0 of the tile, whose s2:s3 is an address, s4 an item, s5 a child; a descriptor at window offset 0x400 and n commands of the engine. -/
def cS (dom num lo : Nat) (x k : Word) (desc : List Byte) (n : Nat) : State :=
  let s := tW { tGroup 0 [(2, BitVec.ofNat 32 lo), (3, 0xF2000000), (4, x), (5, k)] (tLane [] 1) (tLane [] 1) with num := num }
  let c : Cmd := ⟨60, copyEngine tTile, 0, 0, 5, 0, 0x1000, 7, some 9, 1, none, none, 0, true, 20, [], [], [], .hmsg []⟩
  { s.setBytes (tKey 0x400) desc with tiles := [cTile, cKid], trees := [tTree dom], handles := [cHandle 1 1, cHandle 2 2],
                                      cmds := (List.range n).map fun i => { c with id := 60 + i } }

def cBelow (m : State) (dom : Nat) : Bool :=
  decide (m.leadTile = .inr cTile) && m.treeOf cTile == some (tTree dom) && cTile.dom != 0 && decide (cTile.depth + 1 < (tTree dom).rcd.levels.length)

def cRead (m : State) : State := (m.ownStruct m.g cTile (m.g.s2 2) 128).2

/-- The record of the copy that the descriptor asks for. -/
def cRcd (m : State) (fn dom : Nat) (desc : List Byte) : CopyRec :=
  let down := fn = 0 ∨ fn = 2
  let src := m.handle? m.g.pkg m.g.ctx (leField desc 0 2)
  let dst := m.handle? m.g.pkg m.g.ctx (leField desc 2 2)
  ⟨fn, desc, if dom = 0 ∧ ¬ down then none else src, if dom = 0 ∧ down then none else dst,
    decide ((src = none ∧ ¬ (dom = 0 ∧ ¬ down)) ∨ (dst = none ∧ ¬ (dom = 0 ∧ down)))⟩

def cReady (m : State) (dom : Nat) (desc : List Byte) : Bool :=
  cBelow m dom && m.g.s2 2 % 64 == 0 && !m.relWaits 1 && (m.ownStruct m.g cTile (m.g.s2 2) 128).1 == some desc

def cI (fn : Nat) (y : BitVec 1) : Instr :=
  match fn with
  | 0 => .mcopy y 6 2
  | 1 => .ucopy y 6 2
  | 2 => .gcopy y 6 2
  | _ => .reduce y 6 2

/-- For each command a descriptor for register children and one for CORE children. -/
def cCase (fn dom : Nat) : List Byte :=
  cDesc (if dom = 0 ∧ (fn = 1 ∨ fn = 3) then 0 else 1) (if dom = 0 ∧ (fn = 0 ∨ fn = 2) then 0 else 2) (if fn = 3 then 1 else 0) 5 (if fn = 2 then 2 else 0)

theorem witness_CopyCommandResults_accepted :
    ([0, 1, 2, 3].all fun fn => [0, 1].all fun dom => [31, 32].all fun n =>
      tOk (cI fn 1) (fun m => cReady m dom (cCase fn dom) && !copyField fn ((tTree dom).grpKids cTile) (cCase fn dom) && (cRead m).copyCode m.g cTile (tTree dom) (cRcd m fn dom (cCase fn dom)) == 0 &&
        (m.engineCmds (copyEngine cTile)).length == n && !(cRcd m fn dom (cCase fn dom)).bad) (cS dom 0 0x400 0 0 (cCase fn dom) n)) = true := by decide +kernel

theorem witness_CopyCommandResults_refused :
    ([0, 1, 2, 3].all fun fn =>
      (let desc := cDesc 1 2 8 5 0
       tOk (cI fn 1) (fun m => cReady m 1 desc && copyField fn ((tTree 1).grpKids cTile) desc) (cS 1 0 0x400 0 0 desc 0)) &&
      tOk (cI fn 1) (fun m => m.g.s2 2 % 64 == 32) (cS 1 0 0x420 0 0 [] 0) &&
      tOk (cI fn 1) (fun m => m.g.s2 2 % 64 == 0 && !m.g.priv && m.g.num != 0 && m.tileOf m.g == some cTile && m.treeOf cTile == some (tTree 1) && !m.relWaits cTile.dom &&
        (m.ownStruct m.g cTile (m.g.s2 2) 128).1 == some (cCase fn 1) && !copyField fn ((tTree 1).grpKids cTile) (cCase fn 1)) (cS 1 2 0x400 0 0 (cCase fn 1) 0) &&
      (let s := cS 1 0 0x400 0 0 [] 0
       tOk (cI fn 1) (fun m => m.g.s2 2 % 64 == 0 && !m.relWaits 0 && (m.tileOf m.g).isNone) { s with g := { s.g with tile := none } } &&
       tOk (cI fn 1) (fun m => m.g.s2 2 % 64 == 0 && m.relWaits (((m.tileOf m.g).map Tile.dom).getD 0)) { s with g := { s.g with sq := [⟨1, none, 2, 0, 1, 0, [], false⟩] } })) = true := by decide +kernel

theorem witness_CopyCommandResults_query :
    ((let s := cS 1 0 0 3 0 [] 0
      tOk (.cqry 6 4 5) (fun m => m.earlier) { s with g := { s.g with sq := [⟨1, none, 2, 0, 1, 0, [], false⟩] } }) &&
    tOk (.cqry 6 4 5) (fun m => !m.earlier && decide (2 < (m.g.sreg 4).toNat)) (cS 1 0 0 3 0 [] 0) &&
      (let s := cS 1 0 0 2 0 [] 0
       tOk (.cqry 6 4 5) (fun m => !m.earlier && decide ((m.g.sreg 4).toNat ≤ 2) && (m.tileOf m.g).isNone) { s with g := { s.g with tile := none } }) &&
      ([0, 1, 2].all fun x => [0, 1].all fun k => tOk (.cqry 6 4 5) (fun m => !m.earlier && m.tileOf m.g == some cTile && m.treeOf cTile == some (tTree 1) && m.g.sreg 4 == x &&
        decide (cBatch.head < cBatch.n) && (cBatch.kid? (m.g.sreg 5).toNat).isSome) (cS 1 0 0 x k [] 3))) = true := by decide +kernel

/-- The copy at the head of its engine, with one child. -/
def aRec : CopyRec := ⟨0, cDesc 1 2 0 1 0, some (cHandle 1 1), some (cHandle 2 2), false⟩
def aCmd : Cmd := ⟨60, copyEngine tTile, 0, 0, 5, 0, 0x1000, 7, some 9, 1, some (tKey 0x200), none, 0, true, 20, [], [], [1, 2], .copy aRec 0 Fold.none⟩

def aS (first : List Cmd) : State :=
  let s := cS 1 0 0 0 0 [] 0
  { s.withBar (tKey 0x200) 0x10001 0 0 0 with cmds := first ++ [aCmd], liveBars := [tKey 0x200] }

/-- The window of the parent, and that of the child. -/
def aPar : Seat := .window (tKey 0) 4096 1
def aChi : Seat := .window (keyCore 0 0 0x20000) 1024 1

theorem witness_CopyArrivalResults :
    (let s := aS []
     s.cmd? 60 == some aCmd && aCmd.tile.bind s.tile? == some cTile && s.treeOf cTile == some (tTree 1) && s.headOf aCmd && !(aS [{ aCmd with id := 59 }]).headOf aCmd &&
     cdKids aRec.desc == [0] && !s.partHeld aCmd 9 0 && s.kidTile cTile 20 0 == some cKid &&
     s.copySide aRec.src cTile false == some (.mem aPar (cHandle 1 1).layout (s.version (some 9) (cHandle 1 1) false)) &&
     s.copySide aRec.dst cKid true == some (.mem aChi (cHandle 2 2).layout (s.version (some 11) (cHandle 2 2) true)) &&
     (cHandle 1 1).layout.et == 14 && (cHandle 2 2).layout.et == 14 && s.poison.isEmpty && s.taint.isEmpty && s.mixed.isEmpty && s.liveBars == [tKey 0x200] && s.corrected.isEmpty &&
     barExp (s.barWord (tKey 0x200) 0) != 0 && !barHeld (s.barWord (tKey 0x200) 0) && s.barDev (tKey 0x200) == ⟨tKey 0x200, [], []⟩ && s.wildBars.isEmpty && !barLnk (s.barWord (tKey 0x200) 0) &&
     boxPoints aRec.exts == [[0], [1]] &&
     ([0, 1].all fun (e : Nat) =>
       let p := (cHandle 1 1).layout.element (s.version (some 9) (cHandle 1 1) false) [e + 1]
       let q := (cHandle 2 2).layout.element (s.version (some 11) (cHandle 2 2) true) [e]
       (cHandle 1 1).layout.inside [((e + 1 : Nat) : Int)] && (cHandle 2 2).layout.inside [(e : Int)] && p.length == 4 && q.length == 4 &&
       p.all (fun x => s.seatKey aPar x.off == some (tKey x.off) && decide (tKey x.off + 1 ≤ tKey 0x200)) &&
       q.all fun x => s.seatKey aChi x.off == some (keyCore 0 0 0x20000 + x.off) && (s.vatHolding (keyCore 0 0 0x20000 + x.off)).isNone && decide (tKey 0x220 ≤ keyCore 0 0 0x20000 + x.off))) = true := by decide +kernel

/-! ### Vats -/

/-- A vat at window offset 0x800 named by s2, s4:s5 as given; its header: CTL, heads, counts, map. -/
def vHead (ctl e g p : Nat) (ecnt gcnt hcnt wait map : Nat) : List Byte :=
  bytesOf 4 ctl ++ bytesOf 4 1 ++ bytesOf 4 0x400 ++ bytesOf 1 e ++ bytesOf 1 g ++ bytesOf 1 p ++ bytesOf 1 0 ++ bytesOf 2 ecnt ++ bytesOf 2 gcnt ++ bytesOf 2 hcnt ++
    bytesOf 2 wait ++ List.replicate 8 0 ++ bytesOf 32 map

def vaS (x data : Word) (hdr : List Byte) : State :=
  let s := tW { tGroup 0 [(2, 0x40000800), (4, x), (5, data)] (tLane [] 1) (tLane [] 1) with num := 0 }
  { s.setBytes (tKey 0x800) hdr with trees := [tTree 1] }

def vaNamed (m : State) : Bool := !m.relWaits 1 && decide (m.refStruct ((m.g.sreg 2).toNat / 2 ^ 30 % 4) ((m.g.sreg 2).toNat % 2 ^ 30) false = (.inr (tTile, tKey 0x800), m))

theorem witness_VatResults_init :
    ([.vinit 1 6 2 4, .vtake 6 2, .vput 0 0 2 4, .vqry 6 2 4] : List Instr).all (fun i =>
      let s := vaS 0x10002 0x400 []
      tOk i (fun m => m.relWaits 1) { s with g := { s.g with sq := [⟨1, none, 2, 0, 1, 0, [], false⟩] } }) = true ∧
    ([0x2, 0x40010002, 0x10022, 0x10000, 0x10009].all fun x => tOk (.vinit 1 6 2 4) vaNamed (vaS x 0x400 [])) = true ∧
    ([0x480, 0x700].all fun data => tOk (.vinit 0 0 2 4) vaNamed (vaS 0x10002 data [])) = true ∧
    tOk (.vinit 1 6 2 4) (fun m => vaNamed m && decide (4096 < 0xD00 + 4 * 256)) (vaS 0x10002 0xD00 []) = true ∧
    ([vHead 0x22 0 0 0 0 0 0 0 0, vHead 2 0 0 0 0 0 0 1 0].all fun h => tOk (.vinit 1 6 2 4) vaNamed (vaS 0x10002 0x400 h)) = true ∧
    ([0x10002, 0x10012].all fun x => [0x400, 0xC00].all fun data => tOk (.vinit 1 6 2 4) (fun m => vaNamed m && m.num (tKey 0x800) 4 == 0 && m.num (tKey 0x816) 2 == 0) (vaS x data [])) = true := by
  decide +kernel

theorem witness_VatResults_use :
    ([vHead 0x82 0 0 0 0 0 0 0 0, vHead 2 1 0 0 3 1 0 0 0, vHead 0x42 0 0 0 4 0 0 0 0, vHead 2 0 0 0 4 0 0 0 0].all fun h => tOk (.vtake 6 2) vaNamed (vaS 0 0 h)) = true ∧
    ([256, 9, 0, 1].all fun x => tOk (.vput 1 6 2 4) (fun m => vaNamed m && !flag (m.num (tKey 0x800) 4) 7 && m.num (tKey 0x820) 32 == 0 && m.num (tKey 0x814) 2 == 2)
      (vaS x 0 (vHead 2 2 2 0 2 0 2 0 0))) = true ∧
    tOk (.vput 1 6 2 4) (fun m => vaNamed m && flag (m.num (tKey 0x800) 4) 7) (vaS 0 0 (vHead 0x82 2 2 0 2 0 2 0 0)) = true ∧
    ([0, 15, 16].all fun x => tOk (.vqry 6 2 4) vaNamed (vaS x 0 (vHead 2 2 2 0 2 0 2 0 0))) = true := by decide +kernel

/-! ### Streams -/

/-- A program over handle 1 into the vat at 0x800: boxes of 2 elements, cnt slots, at window offset 0x900. -/
def pProg (hnd cnt : Nat) : List Byte :=
  bytesOf 2 hnd ++ bytesOf 2 0 ++ bytesOf 4 0x800 ++ List.replicate 20 0 ++ bytesOf 2 2 ++ bytesOf 2 1 ++ bytesOf 2 1 ++ bytesOf 2 1 ++ bytesOf 2 1 ++ bytesOf 2 0 ++
    bytesOf 2 cnt ++ bytesOf 2 1 ++ bytesOf 2 1 ++ bytesOf 2 1 ++ bytesOf 4 2 ++ List.replicate 12 0

def pS (ctl cnt : Nat) (bar : Word) (n : Nat) : State :=
  let s := vaS bar 0 (vHead ctl 0 0 0 4 0 0 0 0)
  let s := s.setBytes (tKey 0x900) (pProg 1 cnt)
  let x : Stream := ⟨70, streamEngine tTile, 0, 1, 7, 0, 0x1000, 9, 9, false, pProg 1 cnt, 0x40000900, tKey 0x900, tKey 0x200, 0x40000200, some (cHandle 1 1), 0, Fold.none, false, false⟩
  { s with g := { s.g with s := [(2, 0x40000900), (4, bar)] }, handles := [cHandle 1 1], streams := (List.range n).map fun i => { x with id := 70 + i } }

def pReady (m : State) : Bool :=
  let r := (m.g.sreg 2).toNat
  let b := (m.g.sreg 4).toNat
  !m.relWaits 1 && decide (m.refStruct (r / 2 ^ 30 % 4) (r % 2 ^ 30) (b / 2 ^ 30 % 4 == 0) = (.inr (tTile, tKey 0x900), m)) &&
  decide (m.refStruct (r / 2 ^ 30 % 4) (leField (m.bytes (tKey 0x900) 64) 4 4 / 64 * 64) false = (.inr (tTile, tKey 0x800), m)) && m.tileOf m.g == some tTile &&
  tTile.dom == b / 2 ^ 30 % 4 && m.ownBarrier m.g.ctx tTile (b % 2 ^ 30) == some (tKey 0x200)

def pCode (m : State) (drain : Bool) : Nat :=
  m.streamCode tTile (some (tKey 0x800)) (m.bytes (tKey 0x900) 64) (m.handle? m.g.pkg m.g.ctx 1) drain (some (tKey 0x200)) (m.g.sreg 4).toNat

/-- The program reference is refused with a code; a state with another reference. -/
def pRefused (m : State) (w : Nat) : Bool :=
  let r := (m.g.sreg 2).toNat
  decide (m.refStruct (r / 2 ^ 30 % 4) (r % 2 ^ 30) ((m.g.sreg 4).toNat / 2 ^ 30 % 4 == 0) = (.inl w, m))
def pElse (s : State) (ref : Word) : State := { s with g := { s.g with s := [(2, ref), (4, s.g.sreg 4)] } }

theorem witness_StreamResults_start :
    ([false, true].all fun drain =>
      let i : Instr := if drain then .sdrain 1 6 2 4 else .sfill 1 6 2 4
      let ctl := if drain then 0x12 else 2
      ([0, 1, 2].all fun n => tOk i (fun m => pReady m && pCode m drain == 0 && (m.streams.filter fun x => x.engine == streamEngine tTile).length == n) (pS ctl 3 0x40000200 n)) &&
      tOk i (fun m => pReady m && pCode m drain == 0x80000013) (pS (if drain then 2 else 0x12) 3 0x40000200 0) &&
      tOk i (fun m => pReady m && pCode m drain == 0x80000021) (pS ctl 0 0x40000200 0) &&
      tOk i (fun m => !m.relWaits 1 && pRefused m 0x8000001D && (m.tileBarrier m.g (m.g.sreg 4).toNat).isSome) (pElse (pS ctl 3 0x40000200 0) 0x80000900) &&
      tOk i (fun m => !m.relWaits 1 && pRefused m 0x8000001D && (m.tileBarrier m.g (m.g.sreg 4).toNat).isNone) (pElse (pS ctl 3 0x40000208 0) 0x80000900) &&
      tOk i (fun m => !m.relWaits 1 && pRefused m 0x80000010) (pElse (pS ctl 3 0x40000200 0) 0x40000908) &&
      (let s := pS ctl 3 0x40000200 0
       tOk i (fun m => m.relWaits 1) { s with g := { s.g with sq := [⟨1, none, 2, 0, 1, 0, [], false⟩] } })) = true ∧
    ([0x22, 2].all fun ctl => tOk (.sstop 1 6 2) vaNamed (vaS 0 0 (vHead ctl 0 0 0 4 0 0 0 0))) = true := by decide +kernel

/-- The stream at slot n of three, draining the vat into handle 1, killed or not; the vat has k slots for the engine. -/
def pX (n : Nat) (killed : Bool) : Stream :=
  ⟨70, streamEngine tTile, 0, 1, 7, 0, 0x1000, 9, 9, true, pProg 1 3, 0x40000900, tKey 0x800, tKey 0x200, 0x40000200, some (cHandle 1 1), n, Fold.none, false, killed⟩

def pR (n k : Nat) (killed : Bool) : State :=
  let s := (vaS 0 0 (vHead 0x32 n n 0 k 0 0 0 0)).withBar (tKey 0x200) 0x10001 0 0 0
  { s with streams := [pX n killed], handles := [cHandle 1 1] }

theorem witness_StreamResults_slot :
    ([0, 1].all fun n =>
      let s := pR n 2 false
      let x := pX n false
      let r := State.streamTry { s with free := s.free + 1 } x
      s.streams.find? (fun q => q.id == 70) == some x && (s.tile? 9).isSome && s.num (tKey 0x810) 2 == 2 && r.2.2.isNone &&
      (List.range 64).all (fun k => r.1.byte (tKey 0x800 + k) == s.byte (tKey 0x800 + k)) && r.1.streams == s.streams && r.1.vatDev (tKey 0x800) == ⟨tKey 0x800, []⟩ && !x.stopping && !x.killed && s.num (tKey 0x810) 2 != 0 &&
      decide (x.n + 1 < spTotal x.prog)) = true := by decide +kernel

theorem witness_StreamResults_killed :
    (let s := pR 1 2 true
     s.streams.find? (fun q => q.id == 70) == some (pX 1 true) && (s.tile? 9).isSome && barExp (s.barWord (tKey 0x200) 0) == 1 && !barHeld (s.barWord (tKey 0x200) 0) &&
       s.barDev (tKey 0x200) == ⟨tKey 0x200, [], []⟩ && s.wildBars.isEmpty && !barLnk (s.barWord (tKey 0x200) 0) && decide (tKey 0x200 + 32 ≤ tKey 0x800)) = true := by decide +kernel

end Sys2Proof.Machine
end

