-- ==== Sys2Proof/Tests/Witness6.lean ====
section
/-! SUPPORT. Witnesses: for each statement a concrete state and operands that meet its hypotheses, clause by clause. -/

namespace Sys2Proof.Machine

open Host (Outcome)

set_option Elab.async false

/-! ### The matrix queue -/

/-- A record of one dimension at 256 times a base, of an element type. -/
def mRec (et base : Nat) : List Byte :=
  bytesOf 2 0 ++ bytesOf 2 (et * 2 ^ 11 + 2) ++ bytesOf 4 (2 ^ 20) ++ bytesOf 4 0 ++ bytesOf 4 base ++ bytesOf 4 0 ++ bytesOf 8 0 ++ bytesOf 4 16 ++ bytesOf 4 8 ++
    List.replicate 12 0 ++ bytesOf 4 16 ++ List.replicate 12 0

def mHandle (et h base : Nat) : Handle := ⟨0, 1, h, mRec et base, none, 0, none, false⟩

/-- A format block: class and accumulator, index register 10, handles, the extent, the barrier object at 0x200. -/
def mBlock (cls acc ah bh creg bar : Nat) : List Byte :=
  List.replicate 12 0 ++ bytesOf 1 (cls + 8 * acc) ++ bytesOf 1 0 ++ bytesOf 1 0 ++ bytesOf 1 10 ++ bytesOf 2 ah ++ bytesOf 2 bh ++ List.replicate 32 0 ++
    bytesOf 1 creg ++ List.replicate 3 0 ++ bytesOf 4 bar ++ List.replicate 4 0

/-- A delta block over extent 1: one token, its ranges, the barrier object. -/
def mDelta (bar : Nat) : List Byte :=
  bytesOf 4 0x900 ++ bytesOf 4 0x980 ++ bytesOf 4 0xA00 ++ bytesOf 4 0xA80 ++ bytesOf 4 0xA84 ++ bytesOf 4 0xB00 ++ bytesOf 4 0 ++ bytesOf 4 0 ++ bytesOf 1 1 ++ bytesOf 1 1 ++
    bytesOf 2 0 ++ bytesOf 4 bar ++ List.replicate 24 0

/-- A transfer of one row of an extent to or from 0x900. -/
def mMove (reg rows bar : Nat) : List Byte := bytesOf 1 reg ++ bytesOf 1 0 ++ bytesOf 2 2 ++ bytesOf 2 rows ++ bytesOf 2 0 ++ bytesOf 4 0x900 ++ bytesOf 4 bar

/-- Extents 0 PLAIN, 1 DELTA, 2 PAIR of 8 by 8 elements. -/
def mExt (head lay : Nat) : Extent := ⟨0, 0, head, 1, 1, 5 + head, lay, 8, 8, false, 0, 0, 0, 0, 7, [7]⟩

/-- Eight lanes in one split or divided; s2 the block's offset; v10 of every lane is 2; n commands in the queue. -/
def mS (whole : Bool) (off : Word) (block : List Byte) (n : Nat) : State :=
  let g := { oG 0 off with num := 0, lanes := List.replicate 8 (tLane [(10, 2)] 1) }
  let s := tW (if whole then g else { g with splits := [⟨0, 0x1000, 15, .none, 4, 0⟩, ⟨1, 0x2000, 240, .none, 4, 0⟩] })
  let c : Cmd := ⟨60, engineId 5 0 0, 0, 0, 5, 0, 0x1000, 7, some 9, 1, none, none, 0, true, 0, [], [], [], .hmsg []⟩
  { s.setBytes (tKey 0x400) block with
    trees := [tTree 1], handles := [mHandle 14 1 1, mHandle 14 2 4, mHandle 17 3 1, mHandle 17 4 4], exts := [mExt 0 0, mExt 1 2, mExt 2 1],
    cmds := (List.range n).map fun i => { c with id := 60 + i } }

/-- The block is named and its barrier object too. -/
def mNamed (m : State) (al n barAt : Nat) : Bool :=
  match m.coreStruct (m.g.sreg 2).toNat al n with
  | (.inr (t, bs), m') => decide (t = tTile) && decide (m' = m) && (m.ownBarrier m.g.ctx t (leField bs barAt 4)).isSome
  | _ => false

/-- Each command with its block, alignment, size and the place of the barrier field. -/
def mCases : List (Instr × (Nat → List Byte) × Nat × Nat × Nat) :=
  [(.mma 1 6 2 4, mBlock 3 0 1 2 0, 64, 64, 0x38), (.mmac 1 6 2 4, mBlock 4 1 3 4 2, 64, 64, 0x38), (.delta 1 6 2, mDelta, 64, 64, 0x24), (.dqry 1 6 2, mDelta, 64, 64, 0x24),
    (.celld 1 6 2, mMove 0 1, 16, 16, 0x0C), (.celst 1 6 2, mMove 0 1, 16, 16, 0x0C), (.celz 1 6 2, mMove 0 1, 16, 16, 0x0C)]

theorem witness_MatrixCommandResults_accepted :
    mCases.all (fun c => [0, 15, 16].all fun n =>
      tOk c.1 (fun m => mNamed m c.2.2.1 c.2.2.2.1 c.2.2.2.2 && (m.engineCmds (engineId 5 0 0)).length == n && m.g.convergent) (mS true 0x400 (c.2.1 0x200) n)) = true := by
  decide +kernel

theorem witness_MatrixCommandResults_refused :
    mCases.all (fun c =>
      tOk c.1 (fun m => m.g.convergent && (m.g.sreg 2).toNat % c.2.2.1 == 8) (mS true 0x408 [] 0) &&
      tOk c.1 (fun m => m.g.convergent && decide (m.coreStruct (m.g.sreg 2).toNat c.2.2.1 c.2.2.2.1 = (.inl 0x8000001D, m))) (mS true 0x1000 [] 0) &&
      tOk c.1 (fun m => match m.coreStruct (m.g.sreg 2).toNat c.2.2.1 c.2.2.2.1 with
        | (.inr (t, bs), m') => m.g.convergent && decide (m' = m) && (m.ownBarrier m.g.ctx t (leField bs c.2.2.2.2 4)).isNone
        | _ => false) (mS true 0x400 (c.2.1 0x20) 0)) = true ∧
    (mCases.take 4).all (fun c => tOk c.1 (fun m => !m.g.convergent && m.g.lowLane == 0) (mS false 0x400 (c.2.1 0x200) 0)) = true := by decide +kernel

/-- Both complete and failing checks occur. -/
theorem witness_MatrixCommandResults_codes :
    (let m := (mS true 0x400 [] 0).merged
     m.matCode m.g tTile (MatBlock.ofBytes (mBlock 3 0 1 2 0 0x200)) false 0 == 0 && m.matCode m.g tTile (MatBlock.ofBytes (mBlock 4 1 3 4 2 0x200)) true 0 == 0 &&
     m.matCode m.g tTile (MatBlock.ofBytes (mBlock 3 0 1 2 1 0x200)) false 0 == 0x0204 && m.deltaCode m.g tTile (DeltaBlock.ofBytes (mDelta 0x200)) false == 0 &&
     m.moveCode m.g tTile (mMove 0 1 0x200) false == 0 && m.moveCode m.g tTile (mMove 0 7 0x200) true == 0x0205) = true := by decide +kernel

/-! ### Their work -/

/-- A command alone, arriving on the object at 0x200. -/
def wC (kind : CmdKind) : Cmd := ⟨60, engineId 5 0 0, 0, 0, 5, 0, 0x1000, 7, some 9, 1, some (tKey 0x200), none, 0, true, 0, [], [], [], kind⟩
def wS (kind : CmdKind) : State :=
  let s := (mS true 0x400 [] 0).withBar (tKey 0x200) 0x10001 0 0 0
  { s with cmds := [wC kind], liveBars := [tKey 0x200], vats := [⟨tKey 0x300, []⟩],
           g := { s.g with lanes := s.g.lanes.map fun x => { x with spans := [⟨60, false, 0, [10], [(10, 2)], [11]⟩] } } }

def plainB (s : State) (lo n : Nat) : Bool :=
  (s.liveBars.all fun o => decide (lo + n ≤ o) || decide (o + 32 ≤ lo)) && s.vats.all fun v => decide (lo + n ≤ v.vat) || decide (v.vat + 64 ≤ lo)


def openBarB (s : State) (obj : Nat) : Bool := barExp (s.barWord obj 0) != 0 && !barHeld (s.barWord obj 0) && s.barDev obj == ⟨obj, [], []⟩ && !s.wildBars.contains obj && !barLnk (s.barWord obj 0)

/-- The hypotheses common to all, and those of a command that works on an extent. -/
def wReady (kind : CmdKind) : Bool :=
  let s := wS kind
  s.cmd? 60 == some (wC kind) && !s.celWaits (wC kind) && openBarB s (tKey 0x200) && s.corrected.isEmpty && s.ancestor 1 9 (some 9) == some tTile && s.poison.isEmpty && s.taint.isEmpty && s.mixed.isEmpty

def apartB (p n q k : Nat) : Bool := decide (p + n ≤ q) || decide (q + k ≤ p)

def wMma : CmdKind := .mma false (mBlock 3 0 1 2 0 0x200) 0 false 0 (some (mHandle 14 1 1)) (some (mHandle 14 2 4)) none ((List.range 8).map fun _ => (10, 2))

theorem witness_MatrixWorkResults_mma :
    (let s := wS wMma
     let b := MatBlock.ofBytes (mBlock 3 0 1 2 0 0x200)
     wReady wMma && s.exts.find? (fun x => x.pkg == 0 && x.core == 0 && x.head == b.creg) == some (mExt 0 0) && decide (b.cls < 4) && b.perm == 0 &&
     ((Scale.parse b.asd b.k).map Scale.sf).getD 0 == 0 && ((Scale.parse b.bsd b.k).map Scale.sf).getD 0 == 0 &&
     (s.seat (mHandle 14 1 1) (some 9)).isSome && (s.seat (mHandle 14 2 4) (some 9)).isSome &&
     ((s.group? 5).any fun g => (List.range 8).all fun i => s.stackWord g i 10 == 2 && (g.lane i).spans == [⟨60, false, 0, [10], [(10, 2)], [11]⟩]) &&
     decide (b.ccol + b.n ≤ 8) && apartB (tKey 0x200) 32 ((mExt 0 0).word 0) ((b.crow + 8) * 8 * 4)) = true := by decide +kernel

def openB2 (s : State) (o n : Nat) : Bool := (List.range n).all fun j => decide (o + j < 4096) && !s.guardKey (tTile.home + o + j)

theorem witness_MatrixWorkResults_move :
    ([3, 4, 5].all fun fn =>
      let bs := mMove 0 1 0x200
      let s := wS (.celmove fn bs 0)
      let lo := (mExt 0 0).word (leField bs 2 2 * (mExt 0 0).rowWords)
      wReady (.celmove fn bs 0) && s.exts.find? (fun x => x.pkg == 0 && x.core == 0 && x.head == leField bs 0 1) == some (mExt 0 0) &&
      leField bs 4 2 * (mExt 0 0).rowWords == 8 && openB2 s (leField bs 8 4) 32 && plainB s (tKey 0x900) 32 && apartB lo 32 (tKey 0x900) 32 && apartB (tKey 0x200) 32 lo 32 &&
      apartB (tKey 0x200) 32 (tKey 0x900) 32) = true ∧
    ([.celmove 3 (mMove 0 7 0x200) 0x0205, .delta true (mDelta 0x200) 0x0201 none, .mma true [] 0 false 0x0202 none none none []] : List CmdKind).all wReady = true := by
  decide +kernel

theorem witness_MatrixWorkResults_delta :
    ([false, true].all fun query =>
      let s := wS (.delta query (mDelta 0x200) 0 none)
      let b := DeltaBlock.ofBytes (mDelta 0x200)
      wReady (.delta query (mDelta 0x200) 0 none) && s.exts.find? (fun x => x.pkg == 0 && x.core == 0 && x.head == b.reg) == some (mExt 1 2) &&
      openB2 s b.ooff (b.t * 8 * 4) && plainB s (tKey b.ooff) (b.t * 8 * 4) && (b.reads query 8 8).all (fun r => openB2 s r.1 r.2 && apartB r.1 r.2 b.ooff (b.t * 8 * 4)) &&
      apartB (tKey b.ooff) (b.t * 8 * 4) ((mExt 1 2).word 0) 256 && apartB (tKey 0x200) 32 (tKey b.ooff) (b.t * 8 * 4) && apartB (tKey 0x200) 32 ((mExt 1 2).word 0) 256) = true := by
  decide +kernel

/-! ### The cellar -/

/-- A request of R171 at 0x400 for a key; s2 its offset or a head region, s4 a word; the directory of context 1 at 0x50000. -/
def gReq (key lay : Nat) : List Byte := bytesOf 2 key ++ bytesOf 1 lay ++ bytesOf 1 0 ++ bytesOf 2 8 ++ bytesOf 2 8 ++ List.replicate 8 0

def gS (x p : Word) (req : List Byte) (key st core : Nat) (exts : List Extent) : State :=
  let s := tW { oG 0 x with num := 0, s := [(2, x), (4, p)] }
  let s := (s.setNum (keyPkg 0 0x1400A0) 8 0x50000).setBytes (tKey 0x400) req
  let dir := s.celDir 0 1 key
  { (s.setNum dir 1 st).setNum (dir + 2) 2 core with trees := [tTree 1], exts := exts }

def gReady (m : State) (b : List Byte) : Bool :=
  !m.relWaits 1 && (m.g.sreg 2).toNat % 16 == 0 && decide (m.coreStruct (m.g.sreg 2).toNat 16 16 = (.inr (tTile, b), m))

/-- An extent that takes every region. -/
def gAll : Extent := { mExt 0 0 with n := 64, key := 99 }

theorem witness_CellarResults_get_refused :
    (let s := gS 0x400 0 (gReq 7 0) 7 0 0 []
     tOk (.celget 6 2) (fun m => m.relWaits 1) { s with g := { s.g with sq := [⟨1, none, 2, 0, 1, 0, [], false⟩] } }) = true ∧
    tOk (.celget 6 2) (fun m => !m.relWaits 1 && (m.g.sreg 2).toNat % 16 == 8) (gS 0x408 0 [] 7 0 0 []) = true ∧
    tOk (.celget 6 2) (fun m => !m.relWaits 1 && decide (m.coreStruct (m.g.sreg 2).toNat 16 16 = (.inl 0x8000001D, m))) (gS 0x1000 0 [] 7 0 0 []) = true ∧
    tOk (.celget 6 2) (fun m => gReady m (gReq 0 0) && m.celReqBad m.g (gReq 0 0)) (gS 0x400 0 (gReq 0 0) 7 0 0 []) = true ∧
    tOk (.celget 6 2) (fun m => gReady m (gReq 7 0) && !m.celReqBad m.g (gReq 7 0) && m.num (m.celDir 0 1 7) 1 == 0 && (List.range 64).all fun h => !m.regionFree 0 0 h)
      (gS 0x400 0 (gReq 7 0) 7 0 0 [gAll]) = true := by decide +kernel

theorem witness_CellarResults_get :
    tOk (.celget 6 2) (fun m => gReady m (gReq 7 0) && !m.celReqBad m.g (gReq 7 0) && m.num (m.celDir 0 1 7) 1 == 0 && !m.regionFree 0 0 0 && m.regionFree 0 0 1 &&
      apartB (m.celDir 0 1 7) 12 (keyCel 0 0 4096) 4096) (gS 0x400 0 (gReq 7 0) 7 0 0 [mExt 0 0]) = true ∧
    ([(4, 0), (0, 0), (0, 1)].all fun ck => tOk (.celget 6 2) (fun m => gReady m (gReq 5 ck.2) && !m.celReqBad m.g (gReq 5 ck.2) && m.num (m.celDir 0 1 5) 1 == 1 &&
      m.num (m.celDir 0 1 5 + 2) 2 == ck.1 && m.exts.find? (fun e => e.pkg == 0 && e.core == 0 && e.ctx == 1 && e.key == 5) == some (mExt 0 0))
      (gS 0x400 0 (gReq 5 ck.2) 5 1 ck.1 [mExt 0 0])) = true ∧
    ([2, 3].all fun st => tOk (.celget 6 2) (fun m => gReady m (gReq 7 0) && !m.celReqBad m.g (gReq 7 0) && m.num (m.celDir 0 1 7) 1 == st &&
      (m.spillHeader m.g 7 (m.celDir 0 1 7)).isNone) (gS 0x400 0 (gReq 7 0) 7 st 0 [])) = true := by decide +kernel

/-- Handle 3 of context 1: two chunks from physical 0x200000 · 4, with read and write rights; the spill slot of an extent with one valid row there. -/
def gRgn : Region := ⟨0x400000, 1, 3, 0x3000⟩

def gSpill (exts : List Extent) (st : Nat) (hd : List Byte) : State :=
  let s := gS 0x400 0 (gReq 7 0) 7 st 0 exts
  let s := (s.setNum (keyPkg 0 0x140090) 8 0x60000).setNum (keyPkg 0 0x3000) 4 4
  let s := (((s.setNum (keyPkg 0 0x60060) 8 0x400000).setNum (keyPkg 0 0x60068) 4 1).setNum (keyPkg 0 0x6006C) 1 3).setNum (keyPkg 0 0x6006D) 1 1
  let s := s.setNum (keyPkg 0 0x60070) 8 0x3000
  let dir := s.celDir 0 1 7
  ((s.setNum (dir + 4) 2 3).setNum (dir + 8) 4 1).setBytes (keyPkg 0 0x801000) hd

def gE : Extent := { mExt 0 0 with key := 7, shnd := 3, soff := 1, valid := 1 }

theorem witness_CellarResults_refill :
    tOk (.celget 6 2) (fun m => gReady m (gReq 7 0) && !m.celReqBad m.g (gReq 7 0) && m.num (m.celDir 0 1 7) 1 == 2 &&
      m.spillHeader m.g 7 (m.celDir 0 1 7) == some (gE.header 0 0, gRgn, 1) && m.regionFree 0 0 0 && apartB (m.celDir 0 1 7) 12 (keyCel 0 0 0) 4096 &&
      decide (min (leField (gE.header 0 0) 0x0C 4) (leField (gE.header 0 0) 8 2) * (leField (gE.header 0 0) 0x0A 2 * layWords (leField (gE.header 0 0) 6 1)) * 4 ≤ 4096))
      (gSpill [] 2 (gE.header 0 0)) = true := by decide +kernel

theorem witness_CellarResults_pin :
    ([.celpin 1 6 2 4, .celfree 1 6 2] : List Instr).all (fun i =>
      let s := gS 0 1 [] 5 1 0 [mExt 0 0]
      tOk i (fun m => m.relWaits 1) { s with g := { s.g with sq := [⟨1, none, 2, 0, 1, 0, [], false⟩] } } &&
      tOk i (fun m => !m.relWaits 1 && decide (64 ≤ (m.g.sreg 2).toNat)) (gS 64 1 [] 5 1 0 []) &&
      tOk i (fun m => !m.relWaits 1 && (m.extent? m.g 1).isNone) (gS 1 1 [] 5 1 0 [mExt 0 0]) &&
      [0, 1].all fun p => tOk i (fun m => !m.relWaits 1 && m.extent? m.g 0 == some (mExt 0 0) && m.g.sreg 4 == p) (gS 0 p [] 5 1 0 [mExt 0 0])) = true ∧
    tOk (.celpin 1 6 2 4) (fun m => !m.relWaits 1 && decide (2 ≤ (m.g.sreg 4).toNat)) (gS 0 2 [] 5 1 0 [mExt 0 0]) = true := by decide +kernel

/-- The same for a privileged group. -/
def gP (x : Word) (s : State) : State := { s with g := { s.g with priv := true, s := [(2, x)], tile := some 9 } }

theorem witness_CellarResults_evict :
    ([64, 1].all fun x => tOk (.celfreeEvict 1 6 2) (fun m => !m.relWaits 1 && (decide (64 ≤ (m.g.sreg 2).toNat) || (m.exts.find? fun e => e.head == 1).isNone))
      (gP x (gSpill [gE] 1 []))) = true ∧
    tOk (.celfreeEvict 1 6 2) (fun m => !m.relWaits 1 && m.exts == [gE] && (m.spillSlot gE).isSome && !m.celFreeing 0 0 0) (gP 0 (gSpill [gE] 1 [])) = true ∧
    tOk (.celfreeEvict 1 6 2) (fun m => !m.relWaits 1 && m.exts == [mExt 0 0] && (m.spillSlot (mExt 0 0)).isNone && !m.celFreeing 0 0 0) (gP 0 (gSpill [mExt 0 0] 1 [])) = true ∧
    (let s := gSpill [gE] 1 []
     tOk (.celfreeEvict 1 6 2) (fun m => m.relWaits 1) { gP 0 s with g := { (gP 0 s).g with sq := [⟨1, none, 2, 0, 1, 0, [], false⟩] } }) = true := by decide +kernel

theorem witness_CellarResults_freed :
    ([false, true].all fun evict =>
      let k : CmdKind := .celfree 0 evict
      let s := { gSpill [gE] 3 [] with cmds := [wC k] }
      s.cmd? 60 == some (wC k) && !s.celWaits (wC k) && s.exts.find? (fun x => x.pkg == 0 && x.core == 0 && x.head == 0) == some gE && s.num (s.celDir 0 1 7) 1 == 3 &&
      s.num (s.celDir 0 1 7 + 2) 2 == 0 && s.spillSlot gE == some gRgn && s.celDir 0 1 7 == keyPkg 0 0x50070 &&
      (List.range 96).all (fun j => s.regionKey 0 gRgn (4096 * gE.soff + j) == keyPkg 0 (0x801000 + j)) && gE.valid * gE.rowWords * 4 == 32) = true := by decide +kernel

end Sys2Proof.Machine
end

