-- ==== Sys2Proof/Tests/Witness7.lean ====
section
/-! SUPPORT. Witnesses: for each statement a concrete state and operands that meet its hypotheses, clause by clause. -/

namespace Sys2Proof.Machine

open Host (Outcome)

set_option Elab.async false

/-! ### Address groups -/

/-- A group of context 1 on package 0 whose s2:s3 is 0x4000 of package memory, plus an offset; a group id range from 0x100; package 1 with the context live. -/
def nS (lo : Word) (hd : List Byte) : State :=
  let s := tW { oG 0 lo with num := 0, s := [(2, lo), (3, 0x100000)] }
  let s := ((s.setNum (keyPkg 0 0x1400B0) 2 0x100).setNum (keyPkg 0 0x1400B2) 2 4).setNum (keyPkg 1 0x140080) 1 1
  { s.setBytes (keyPkg 0 0x4000) hd with pkgs := s.pkgs ++ [{ tPkg with num := 1, pctx := 0x100000 }], extended := true, trees := [tTree 1] }

def nHead (n tmo : Nat) (ms : List Nat) : List Byte := bytesOf 2 n ++ bytesOf 2 tmo ++ bytesOf 4 0 ++ ms.flatMap (bytesOf 2)

/-- The first read, and the second one, answer; the clauses' facts of the state. -/
def nRead (m : State) (n : Nat) : Bool := !m.relWaits 5 && m.g.s2 2 == 0x10000000004000 && m.readB 0x10000000004000 8 0x4000 && m.readB 0x10000000004008 (2 * n) 0x4008

theorem witness_FabricGroupResults_reads (s : State) (n : Nat) (h : nRead s n = true) :
    ∃ m1 m2, s.readFor s.g (s.g.s2 2) 8 = (some (s.bytes (keyPkg s.g.pkg 0x4000) 8), m1) ∧
      m1.readFor s.g (s.g.s2 2 + 8) (2 * n) = (some (s.bytes (keyPkg s.g.pkg 0x4008) (2 * n)), m2) := by
  simp only [nRead, Bool.and_eq_true, beq_iff_eq] at h
  obtain ⟨⟨⟨-, hva⟩, h1⟩, h2⟩ := h
  rw [hva]
  obtain ⟨f, e⟩ := read_of h1
  obtain ⟨f', e'⟩ := read_leaf h2 f true
  exact ⟨_, _, e, e'⟩

def nIds (m : State) : List (Nat × Nat) := m.agFree m.g.ctx (m.ctxField m.g.pkg m.g.ctx 0x30 2) (m.ctxField m.g.pkg m.g.ctx 0x32 2)

def nWaiting (m : State) : List AddrGroup := m.ags.filter fun q => q.ctx == m.g.ctx && q.freedAt.isNone && q.members.contains m.g.pkg && !q.joined.contains m.g.pkg

def nAg (members joined : List Nat) : AddrGroup := ⟨0x100, 2, 1, members, 0, [], [], none, [], joined⟩

theorem witness_FabricGroupResults_agset :
    (let s := nS 0x4000 []
     tOk (.agset 6 2) (fun m => m.relWaits 5) { s with g := { s.g with sq := [⟨1, none, 2, 0, 1, 0, [], false⟩] } }) = true ∧
    tOk (.agset 6 2) (fun m => !m.relWaits 5 && m.g.s2 2 % 8 == 4) (nS 0x4004 []) = true ∧
    (let s := nS 0x4000 []
     tOk (.agset 6 2) (fun m => !m.relWaits 5 && m.g.s2 2 % 8 == 0 && decide ((m.readFor m.g (m.g.s2 2) 8).1 = none)) { s with g := { s.g with s := [(2, 0x4000), (3, 0x20000000)] } }) = true ∧
    ([nHead 1 0 [0], nHead 2 1001 [0, 1], nHead 0 0 []].all fun hd => tOk (.agset 6 2) (fun m => nRead m 1) (nS 0x4000 hd)) = true ∧
    ([nHead 2 0 [0, 0], nHead 2 0 [1, 2], nHead 2 0 [0, 4096]].all fun hd => tOk (.agset 6 2) (fun m => nRead m 2) (nS 0x4000 hd)) = true ∧
    (let s := nS 0x4000 (nHead 2 0 [0, 1])
     let full := (List.range 4).map fun j => { nAg [0, 2] [0] with id := 0x100 + j }
     tOk (.agset 6 2) (fun m => nRead m 2 && (nIds m).isEmpty && (nWaiting m).isEmpty) { s with ags := full } &&
     tOk (.agset 6 2) (fun m => nRead m 2 && !(nIds m).isEmpty && (m.pkg 1).member && !m.reaches 0 1)
       { s with pkgs := s.pkgs.map fun p => if p.num = 1 then { p with reachable := false } else p } &&
     tOk (.agset 6 2) (fun m => nRead m 2 && !(nIds m).isEmpty && m.extended && (List.range Config.planes).all fun p => [0, 1].any fun x => (m.pkg x).failedPlanes.contains p)
       { s with pkgs := s.pkgs.map fun p => { p with failedPlanes := (List.range 18).map fun j => 18 * p.num + j } } &&
     tOk (.agset 6 2) (fun m => nRead m 2 && !(nIds m).isEmpty && m.reaches 0 1 && (nWaiting m).length == 1) { s with ags := [nAg [1, 0] [1]] } &&
     tOk (.agset 6 2) (fun m => nRead m 2 && !(nIds m).isEmpty && !(m.pkg 1).member)
       { s with pkgs := s.pkgs.map fun p => if p.num = 1 then { p with member := false, reachable := false } else p } &&
     [[], [nAg [0, 1] [1]]].all fun ags => tOk (.agset 6 2) (fun m => nRead m 2 && !(nIds m).isEmpty && (nWaiting m).length == ags.length && (m.pkg 1).member && m.reaches 0 1 &&
       m.reaches 0 0 && m.ctxLive 0 1 && m.ctxLive 1 1 && (List.range 2).map (fun r => leField (m.bytes (keyPkg 0 0x4008) 4) (2 * r) 2) == [0, 1]) { s with ags := ags }) = true := by
  decide +kernel

/-- A group handle in s2, the group's record, a command of the package that names it. -/
def nF (x : Word) (ags : List AddrGroup) (cmds : List Cmd) : State :=
  let s := nS 0x4000 []
  { s with g := { s.g with s := [(2, x)] }, ags := ags, cmds := cmds }

def nCmd (pkg : Nat) : Cmd := ⟨60, engineId 7 pkg 0, pkg, 0, 5, 0, 0x1000, 7, some 9, 1, some (tKey 0x200), none, 0, true, 0, [], [], [], .mst (bytesOf 2 0x2100) [] [0] 0 0⟩

theorem witness_FabricGroupResults_agfree :
    (let s := nF 0x2100 [nAg [0, 1] [0]] []
     tOk (.agfree 1 6 2) (fun m => m.relWaits 5) { s with g := { s.g with sq := [⟨1, none, 2, 0, 1, 0, [], false⟩] } }) = true ∧
    tOk (.agfree 1 6 2) (fun m => !m.relWaits 5 && (m.addrGroup? 1 ((m.g.sreg 2).toNat % 2 ^ 16)).isNone) (nF 0x1100 [nAg [0, 1] [0]] []) = true ∧
    tOk (.agfree 1 6 2) (fun m => !m.relWaits 5 && m.addrGroup? 1 ((m.g.sreg 2).toNat % 2 ^ 16) == some (nAg [1, 0] [0])) (nF 0x2100 [nAg [1, 0] [0]] []) = true ∧
    ([(0x12100, []), (0x2100, [nCmd 0]), (0x2100, []), (0x2100, [nCmd 1])] : List (Word × List Cmd)).all (fun xc => tOk (.agfree 1 6 2) (fun m => !m.relWaits 5 &&
      m.addrGroup? 1 ((m.g.sreg 2).toNat % 2 ^ 16) == some (nAg [0, 1] [0])) (nF xc.1 [nAg [0, 1] [0]] xc.2)) = true ∧
    (nCmd 0).agHandle = some 0x2100 := by decide +kernel

theorem witness_FabricGroupResults_waits :
    (let s := nS 0x4000 []
     let w := { s with g := { s.g with sq := [⟨1, none, 2, 0, 1, 0, [], false⟩] } }
     tOk .flush (fun m => !m.flushWaits) s && tOk .flush (fun m => m.flushWaits) w) = true ∧
    ([[], [(0x10000000004000, 60, none)], [(0x10000000004000, 60, some 2)]] : List (List (Nat × Nat × Option Nat))).all (fun cs =>
      let s := nS 0x4000 []
      tOk (.collw 6 2) (fun m => m.g.colls.find? (fun q => q.1 == m.g.s2 2) == cs.head?) { s with g := { s.g with colls := cs } }) = true := by decide +kernel

/-! ### Fabric commands -/

/-- A block of 32 bytes for MST or MLDR: group, operation, type, count, level and offset of the barrier object, the place of the data. -/
def bBlock (grp op et cnt lvl bar loc : Nat) : List Byte :=
  bytesOf 2 grp ++ bytesOf 1 op ++ bytesOf 1 et ++ bytesOf 2 cnt ++ bytesOf 1 lvl ++ bytesOf 1 0 ++ bytesOf 8 0x8000 ++ bytesOf 8 loc ++ bytesOf 4 bar ++ bytesOf 4 0

/-- The block stands at window offset 0x400, named by s2:s3. -/
def bS (ext : Bool) (lo : Word) (blk : List Byte) (ags : List AddrGroup) : State :=
  let s := nS 0x4000 []
  { s.setBytes (tKey 0x400) blk with g := { s.g with s := [(2, lo), (3, 0xF2000000)] }, extended := ext, ags := ags }

def bI (reduce : Bool) : Instr := if reduce then .mldr 1 6 2 else .mst 1 6 2

def bFetched (m : State) (blk : List Byte) : Bool := !m.relWaits 5 && m.extended && m.g.s2 2 % 32 == 0 && decide (m.fetchStruct m.g (m.g.s2 2) 32 = (some blk, m))

def bLoc : Nat := 0x10000000004000
def bWin : Nat := 0xF200000000000400

theorem witness_FabricCommandResults_ops :
    ([false, true].all fun r =>
      let blk := fun (cnt lvl bar loc : Nat) => if r then bBlock 0x2100 0 14 cnt lvl bar loc else bBlock 0x2100 0 0 (4 * cnt) lvl bar loc
      let s := bS true 0x400 (blk 1 1 0x200 bLoc) []
      tOk (bI r) (fun m => m.relWaits 5) { s with g := { s.g with sq := [⟨1, none, 2, 0, 1, 0, [], false⟩] } } &&
      tOk (bI r) (fun m => !m.relWaits 5 && !m.extended) (bS false 0x400 [] []) && tOk (bI r) (fun m => !m.relWaits 5 && m.extended && m.g.s2 2 % 32 == 16) (bS true 0x410 [] []) &&
      (let s := bS true 0x400 [] []
       tOk (bI r) (fun m => !m.relWaits 5 && m.extended && m.g.s2 2 % 32 == 0 && decide (m.fetchStruct m.g (m.g.s2 2) 32 = (none, m)))
         { s with g := { s.g with s := [(2, 0x400), (3, 0x20000000)] } }) &&
      [0, 65].all (fun cnt => tOk (bI r) (fun m => bFetched m (blk cnt 1 0x200 bLoc)) (bS true 0x400 (blk cnt 1 0x200 bLoc) [])) &&
      tOk (bI r) (fun m => bFetched m (blk 1 1 0x200 bWin) && decide ((m.localKeys m.g bWin 4 (if r then 2 else 1)) = (none, m))) (bS true 0x400 (blk 1 1 0x200 bWin) []) &&
      (let s := bS true 0x400 (blk 1 1 0 bLoc) []
       tOk (bI r) (fun m => bFetched m (blk 1 1 0 bLoc) && m.g.priv && m.keysB bLoc 4 (if r then 2 else 1) 0x4000 && (m.levelBarrier m.g 1 0).isNone) { s with g := { s.g with priv := true } }) &&
      [[], [nAg [0, 1] [0]], [nAg [1, 2] [1]]].all fun ags => [0, 0x200].all fun bar => [1, 64].all fun cnt =>
        tOk (bI r) (fun m => bFetched m (blk cnt 1 bar bLoc) && m.keysB bLoc (4 * cnt) (if r then 2 else 1) 0x4000 && ((m.levelBarrier m.g 1 bar).isSome == (bar == 0x200)) &&
          (m.addrGroup? m.g.ctx 0x2100).isSome == !ags.isEmpty) (bS true 0x400 (blk cnt 1 bar bLoc) ags)) = true := by
  decide +kernel

/-- Barrier objects do not depend on what the TLB keeps. -/
theorem witness_FabricCommandResults_tlb (m : State) (e : Tlb) (f : Nat) (b : Bool) (lv off h need o l : Nat) :
    (m.oneLeaf e f b).levelBarrier m.g lv off = m.levelBarrier m.g lv off ∧ (m.oneLeaf e f b).regionSpan m.g.pkg m.g.ctx h need o l = m.regionSpan m.g.pkg m.g.ctx h need o l :=
  ⟨rfl, rfl⟩

/-- A block for COLL: operation, algorithm, type, combining, the regions, the count, the level of the barrier object. -/
def lBlock (op alg et rop srch dsth count lvl : Nat) : List Byte :=
  bytesOf 2 1 ++ bytesOf 1 op ++ bytesOf 1 alg ++ bytesOf 2 0x2100 ++ bytesOf 1 et ++ bytesOf 1 rop ++ bytesOf 2 srch ++ bytesOf 2 dsth ++ bytesOf 2 0 ++ bytesOf 2 0 ++ bytesOf 8 0 ++
    bytesOf 8 0 ++ bytesOf 8 count ++ bytesOf 3 0 ++ bytesOf 1 lvl ++ bytesOf 4 0x200 ++ List.replicate 80 0

/-- Regions 3 and 4 of context 1, one chunk each, with all rights. -/
def lRegions (s : State) (pkg : Nat) : State :=
  let k := keyPkg pkg
  let one := fun (s : State) (h va clist chunk : Nat) =>
    ((((((s.setNum (k (0x60000 + 32 * h)) 8 va).setNum (k (0x60008 + 32 * h)) 4 1).setNum (k (0x6000C + 32 * h)) 1 3).setNum (k (0x6000D + 32 * h)) 1 1).setNum
      (k (0x60010 + 32 * h)) 8 clist).setNum (k clist) 4 chunk)
  one (one (s.setNum (k 0x140090) 8 0x60000) 3 0x400000 0x3000 4) 4 0x600000 0x3004 5

def lS (ext : Bool) (lo hi : Word) (blk : List Byte) (ags : List AddrGroup) : State :=
  let s := lRegions (nS 0x4000 blk) 0
  { s with g := { s.g with s := [(2, lo), (3, hi)] }, extended := ext, ags := ags }

def lRead (m : State) : Bool := !m.relWaits 5 && m.g.s2 2 == 0x10000000004000 && m.place m.g (m.g.s2 2) == some (.home 0 0x4000) && m.readB 0x10000000004000 128 0x4000

theorem witness_FabricCommandResults_coll :
    (let s := lS true 0x4000 0x100000 [] []
     tOk (.coll 1 6 2) (fun m => m.relWaits 5) { s with g := { s.g with sq := [⟨1, none, 2, 0, 1, 0, [], false⟩] } }) = true ∧
    tOk (.coll 1 6 2) (fun m => !m.relWaits 5 && m.g.s2 2 % 128 == 64) (lS true 0x4040 0x100000 [] []) = true ∧
    (let s := lS true 0x4000 0x100000 [] []
     tOk (.coll 1 6 2) (fun m => !m.relWaits 5 && m.place m.g (m.g.s2 2) == some (.home 0 0x4000) && decide ((m.readFor m.g (m.g.s2 2) 128).1 = none)) { s with g := { s.g with ctx := 2 } }) = true ∧
    ([(lBlock 9 0 14 0 3 4 2 1, true), (lBlock 0 1 14 0 3 4 2 0, false), (lBlock 0 1 14 0 5 4 2 1, false), (lBlock 0 3 14 0 3 4 2 1, false), (lBlock 0 0 14 0 3 4 2 1, false),
      (lBlock 2 1 14 0 3 4 2 1, false)] : List (List Byte × Bool)).all (fun bb => [true, false].all fun ext => [[], [nAg [0, 1] [0]], [nAg [1, 2] [1]]].all fun ags =>
      tOk (.coll 1 6 2) (fun m => lRead m && m.bytes (keyPkg 0 0x4000) 128 == bb.1 && (CollBlock.ofBytes bb.1).bad ext 2 == bb.2 && m.extended == ext) (lS ext 0x4000 0x100000 bb.1 ags)) = true ∧
    (let s := lS true 0x4000 0x100000 (lBlock 0 1 14 0 3 4 2 0) []
     tOk (.coll 1 6 2) (fun m => lRead m && m.g.priv && (m.levelBarrier m.g 0 0x200).isNone) { s with g := { s.g with priv := true } }) = true ∧
    (let m := (lS true 0x4000 0x100000 (lBlock 0 1 14 0 3 4 2 1) []).merged
     (m.levelBarrier m.g 1 0x200).isSome && (m.levelBarrier m.g 0 0x200).isNone && (m.regionSpan 0 1 3 1 0 8).isSome && (m.regionSpan 0 1 4 2 0 16).isSome &&
       (m.regionSpan 0 1 5 1 0 8).isNone) = true := by decide +kernel

/-- What the device reads of the block, for the clause that names it. -/
theorem witness_FabricCommandResults_read (m : State) (h : lRead m = true) :
    ∃ m1, m.readFor m.g (m.g.s2 2) 128 = (some (m.bytes (keyPkg m.g.pkg 0x4000) 128), m1) := by
  simp only [lRead, Bool.and_eq_true, beq_iff_eq] at h
  obtain ⟨⟨⟨-, hva⟩, -⟩, h1⟩ := h
  rw [hva]
  obtain ⟨f, e⟩ := read_of h1
  exact ⟨_, e⟩

/-! ### Fabric events -/

def eC (kind : CmdKind) (bar : Option Nat) (sent : Bool) : Cmd := ⟨60, engineId 7 0 0, 0, 0, 5, 0, 0x1000, 7, some 9, 1, bar, none, 0, sent, 0, [], [], [], kind⟩

def eS (cmds : List Cmd) (ags : List AddrGroup) : State := { ((nS 0x4000 [1, 2, 3, 4]).withBar (tKey 0x200) 0x10001 0 0 0) with cmds := cmds, ags := ags, liveBars := [tKey 0x200] }

def eKeys : List Nat := (List.range 4).map fun j => keyPkg 0 (0x4000 + j)

def eData : List (Byte × Bool) := [(1, false), (2, false), (3, false), (4, false)]

def eMst (todo : List Nat) : CmdKind := .mst (bBlock 0x2100 0 0 4 1 0x200 bLoc) eKeys todo 0 0

def eOpen (s : State) : Bool := barExp (s.barWord (tKey 0x200) 0) != 0 && !barHeld (s.barWord (tKey 0x200) 0) && s.barDev (tKey 0x200) == ⟨tKey 0x200, [], []⟩ && s.wildBars.isEmpty && !barLnk (s.barWord (tKey 0x200) 0)

theorem witness_FabricEventResults_mst :
    ([0, 1].all fun x =>
      let s := eS [eC (eMst [x]) (some (tKey 0x200)) true] [nAg [0, 1] [0]]
      let s := if x = 1 then { s with pkgs := s.pkgs.map fun p => if p.num = 1 then { p with reachable := false } else p } else s
      s.cmd? 60 == some (eC (eMst [x]) (some (tKey 0x200)) true) && s.poison.isEmpty && s.taint.isEmpty && s.mixed.isEmpty && s.corrected.isEmpty && (s.addrGroup? 1 0x2100).isSome && s.reaches 0 x == (x == 0) && !s.tooOld 0 && s.liveBars == [tKey 0x200] &&
      ({ s with free := s.free + 1 } : State).spanB tLeaf 0 1 0x8000 2 4 && (List.range 4).all fun j =>
        let k := keyPkg 0 (0x8000 + j)
        decide (tKey 0x220 ≤ k) || decide (k < tKey 0x200) && s.cmds.all (fun q => !inSpans q.src k && !inSpans q.dst k) && (s.vatHolding k).isNone && s.g.unretired.isEmpty && s.groups.isEmpty) = true ∧
    (let s := { eS [eC (eMst [0]) (some (tKey 0x200)) true] [nAg [0, 1] [0]] with time := 10 ^ 7 + 1 }
     s.cmd? 60 == some (eC (eMst [0]) (some (tKey 0x200)) true) && s.tooOld 0 && s.poison.isEmpty && s.taint.isEmpty && s.mixed.isEmpty && s.corrected.isEmpty &&
       (s.addrGroup? 1 0x2100).isSome) = true ∧
    ([eMst [], .mldr [] eKeys 0 (some 0) 0 eData, .mldr [] eKeys 0 (some 2) 4 eData, .coll [] 1 0 ⟨0, 0, 0, 0⟩ ⟨0, 0, 0, 0⟩ (some 0) 8] : List CmdKind).all (fun k =>
      let s := eS [eC k (some (tKey 0x200)) true] []
      s.cmd? 60 == some (eC k (some (tKey 0x200)) true) && s.poison.isEmpty && s.taint.isEmpty && s.mixed.isEmpty && s.corrected.isEmpty && eOpen s && decide eKeys.Nodup &&
        eKeys.all fun x => decide (x < tKey 0x200)) = true := by decide +kernel

/-- The keys of the member's page for the store, and of the package's for a contribution. -/
theorem witness_FabricEventResults_keys :
    (let s := eS [eC (eMst [0]) (some (tKey 0x200)) true] [nAg [0, 1] [0]]
     ∃ ks s1, State.translateSpan { s with free := s.free + 1 } 0 1 0x8000 2 4 = (some ks, s1) ∧ ks = (List.range 4).map fun j => keyPkg 0 (0x8000 + j)) := by
  intro s
  obtain ⟨f, c, e⟩ := State.span_of (s := { s with free := s.free + 1 }) (l := tLeaf) (pkg := 0) (ctx := 1) (off := 0x8000) (need := 2) (n := 4) (by decide +kernel)
  exact ⟨_, _, e, by simp [tLeaf]⟩

/-- Two members' COLLs that have met: ALLREDUCE by RING of two F32 elements from region 3 to region 4 of each package. -/
def eRgn (h : Nat) : Region := if h = 3 then ⟨0x400000, 1, 3, 0x3000⟩ else ⟨0x600000, 1, 3, 0x3004⟩
def eColl (pkg id : Nat) (out : Option Nat) : Cmd :=
  ⟨id, engineId 7 pkg 0, pkg, 0, 5, 0, 0x1000, 7, some 9, 1, some (tKey 0x200), none, 0, true, 0, (List.range 8).map fun j => (keyPkg pkg (4 * 2 ^ 21 + j), 1),
    (List.range 8).map fun j => (keyPkg pkg (5 * 2 ^ 21 + j), 1), [], .coll (lBlock 0 1 14 0 3 4 2 1) 1 0 (eRgn 3) (eRgn 4) out 0⟩

def eMet : State := let s := eS [eColl 0 60 none, eColl 1 61 none] [nAg [0, 1] [0, 1]]; lRegions (lRegions s 0) 1

theorem witness_FabricEventResults_coll :
    (let cs := [eColl 0 60 none, eColl 1 61 none]
     let place := fun (pkg : Nat) => (List.range 8).map fun j => eMet.regionKey pkg (eRgn 4) j
     let chunks := fun (pkg : Nat) => (List.range 4).map fun i => keyPkg pkg (0x3004 + i)
     eMet.cmd? 60 == some (eColl 0 60 none) && ((eColl 0 60 none).agHandle.bind (eMet.addrGroup? 1)) == some (nAg [0, 1] [0, 1]) &&
     eMet.collPeers (eColl 0 60 none) (nAg [0, 1] [0, 1]) 0 == cs && !(nAg [0, 1] [0, 1]).planes.isEmpty && cs.length == 2 && cs.all (fun q => !eMet.agAbsent (nAg [0, 1] [0, 1]) q.pkg && q.bar.isSome) && eMet.liveBars == [tKey 0x200] &&
     (place 0 ++ place 1).all (fun k => decide (k < tKey 0x200) || decide (tKey 0x220 ≤ k)) && ((place 0 ++ place 1).all fun k => (eMet.vatHolding k).isNone) && eMet.poison.isEmpty && eMet.taint.isEmpty && eMet.mixed.isEmpty &&
     (CollBlock.ofBytes (lBlock 0 1 14 0 3 4 2 1)).dstLen 2 * 4 == 8 && cs.all (fun q => q.dst.all fun sp => !inSpans q.src sp.1) &&
     decide (place 0 ++ place 1).Nodup && (chunks 0 ++ chunks 1).all fun k => !(place 0 ++ place 1).contains k) = true := by decide +kernel

/-- A contribution to a tuple that lacks it alone. -/
def eLdr (id : Nat) (sent : Bool) : Cmd := { eC (.mldr (bBlock 0x2100 0 14 1 1 0x200 bLoc) eKeys 0 none 0 []) (some (tKey 0x200)) sent with id := id }
def eTuple : Tuple := ⟨1, 0x100, 2, 0x8000, 0, 3, 100, [(1, 61, [0, 0, 128, 63])], [14, 0, 1], false, []⟩

theorem witness_FabricEventResults_switch :
    (let s := eS [eLdr 60 false, eLdr 61 true] []
     s.cmd? 60 == some (eLdr 60 false) && (s.addrGroup? 1 0x2100).isNone) = true ∧
    (let s := { eS [eLdr 60 false] [nAg [0, 1] [0, 1]] with time := 10 ^ 7 + 1 }
     s.cmd? 60 == some (eLdr 60 false) && s.addrGroup? 1 0x2100 == some (nAg [0, 1] [0, 1]) && s.tooOld 0) = true ∧
    (let c := { eColl 0 60 none with sent := false }
     let s := eS [c] [nAg [0, 1] [0, 1]]
     s.cmd? 60 == some c && (c.agHandle.bind (s.addrGroup? c.ctx)) == some (nAg [0, 1] [0, 1]) && !s.tooOld c.time && !s.agAbsent (nAg [0, 1] [0, 1]) c.pkg) = true ∧
    ([{ nAg [0, 1] [0, 1] with failed := List.range Config.planes }, nAg [0, 1] [0, 1], nAg [0, 2] [0, 2]] : List AddrGroup).all (fun a =>
      let s := { eS [eLdr 60 false, eLdr 61 true] [a] with tuples := [eTuple], time := 5000 }
      s.addrGroup? 1 0x2100 == some a && !s.tooOld 0 && s.poison.isEmpty && decide (s.slots.length < 8192) && (a.planes.isEmpty || s.agAbsent a 0 == (a.members == [0, 2])) && decide (s.time < eTuple.start + a.timeout) &&
      s.tuples.find? (fun t => t.ctx == 1 && t.grp == a.id && t.gen == a.gen && t.offset == 0x8000 && t.seq == 0) == some eTuple &&
      eTuple.parts.length + 1 == a.members.length && s.spanB tLeaf 0 1 0x8000 1 4 && s.taint.isEmpty && s.mixed.isEmpty) = true := by decide +kernel

theorem slotFree_few {s : State} {x : Slot} {r : Nat} (h : s.slots.length < 8192) : s.slotFree x r = true := by
  have k : ∀ p q : Slot → Bool, ((s.slots.filter p).filter q).length < 8192 := fun p q =>
    Nat.lt_of_le_of_lt (Nat.le_trans (List.length_filter_le ..) (List.length_filter_le ..)) h
  simp only [State.slotFree, k, decide_true, Bool.or_true, Bool.and_self]

/-- A group whose two ranks share a leaf, and a tuple of it on the plane of the block's address that a rank has joined. -/
def eShared : AddrGroup := nAg [0, 0] [0]
def eHeld : Tuple := { eTuple with plane := eShared.planeAt 0x8000, seq := 5, parts := [(0, 61, [0, 0, 0, 0])] }
def eFull (n : Nat) : State := { eS [eLdr 60 false] [eShared] with tuples := { eHeld with seq := 0, parts := [] } :: List.replicate n eHeld }

theorem eFull_slots (n : Nat) : (eFull n).slots = ⟨eHeld.plane, 1, eShared, []⟩ :: List.replicate n ⟨eHeld.plane, 1, eShared, [0]⟩ := by
  have h : (eFull n).ags.find? (fun a => a.ctx == 1 && a.id == 0x100) = some eShared :=
    show [eShared].find? _ = _ by decide
  have e : (eFull n).tuples = { eHeld with seq := 0, parts := [] } :: List.replicate n eHeld := rfl
  have x : ((eFull n).ags.flatMap fun a =>
    let cs := (eFull n).cmds.filterMap fun c => if c.ctx = a.ctx ∧ c.agHandle = some a.handle then c.openSwitch.map fun o => (o, a.rank c.pkg) else none
    (cs.map fun x => x.1.1).eraseDups.map fun seq =>
      let mine := cs.filter fun x => x.1.1 == seq
      (⟨a.planeAt ((mine.head?.map fun x => x.1.2).getD 0), a.ctx, a, mine.map Prod.snd⟩ : Slot)) = [] := by rfl
  unfold State.slots
  rw [x, e, List.append_nil, List.filterMap_cons, List.filterMap_replicate]
  simp only [show eHeld.ctx = 1 from rfl, show eHeld.grp = 0x100 from rfl, h]
  rfl

/-- A leaf whose 8,192 slots are all taken. -/
theorem witness_FabricEventResults_full (n : Nat) (hn : 8192 ≤ n) : (eFull n).slotFree ⟨eShared.planeAt 0x8000, 1, eShared, []⟩ 0 = false ∧
    (eFull n).tuples.find? (fun t => t.ctx == 1 && t.grp == eShared.id && t.gen == eShared.gen && t.offset == 0x8000 && t.seq == 0) = some { eHeld with seq := 0, parts := [] } ∧
    (eFull n).addrGroup? 1 0x2100 = some eShared := by
  refine ⟨?_, rfl, show [eShared].find? _ = _ by decide⟩
  have l : leafRanks eHeld.plane [0, 0] = [[0, 1]] := by simp [leafRanks, List.eraseDups_cons, List.range_succ]
  have a : Slot.atLeaf ⟨eHeld.plane, 1, eShared, [0]⟩ (Config.leafOf eHeld.plane 0) = true := by
    simp [Slot.atLeaf, Slot.oneTier, show eShared.members = [0, 0] from rfl, l]
  have p : eShared.planeAt 0x8000 = eHeld.plane := rfl
  simp only [State.slotFree, eFull_slots, p, List.filter_cons, List.filter_replicate, beq_self_eq_true, if_true, show eShared.members.getD 0 0 = 0 from rfl, a]
  have h1 : ¬ n + 1 < 8192 := by omega
  have h2 : ¬ n < 8192 := by omega
  split <;> simp [h1, h2]

theorem witness_FabricEventResults_contribution :
    (let s := { eS [eLdr 60 false, eLdr 61 true] [nAg [0, 1] [0, 1]] with tuples := [eTuple], time := 5000 }
     ∃ ks s1, s.translateSpan 0 1 0x8000 1 4 = (some ks, s1)) := by
  intro s
  obtain ⟨f, c, e⟩ := State.span_of (s := s) (l := tLeaf) (pkg := 0) (ctx := 1) (off := 0x8000) (need := 1) (n := 4) (by decide +kernel)
  exact ⟨_, _, e⟩

theorem witness_FabricEventResults_time :
    ([10099, 10100].all fun t => let s := { eS [eLdr 61 true] [nAg [0, 1] [0, 1]] with tuples := [eTuple], time := t }
      s.tuples == [eTuple] && s.ags.find? (fun q => q.ctx == eTuple.ctx && q.id == eTuple.grp) == some (nAg [0, 1] [0, 1]) && (nAg [0, 1] [0, 1]).timeout == 10000) = true ∧
    ([9999, 10000].all fun t => let s := { eMet with time := t }
      s.cmd? 60 == some (eColl 0 60 none) && (eColl 0 60 none).sent && ((eColl 0 60 none).agHandle.bind (s.addrGroup? 1)) == some (nAg [0, 1] [0, 1]) &&
        (s.collPeers (eColl 0 60 none) (nAg [0, 1] [0, 1]) 0).length == 2) = true ∧
    ([10000005, 10000006].all fun t =>
      let p : Packet := ⟨9, 0, 1, 0, 5, 7, 1, 0, none, 0x1000, 0x10000004000, .store, [], 2, 5, 0, 0, 1, true, false, none, [], 0⟩
      let s := { eS [] [] with net := [p], time := t }
      s.extended && s.net.find? (fun q => q.id == p.id && q.key.isNone) == some p) = true ∧
    ([10000005, 10000006].all fun t =>
      let p : Packet := ⟨9, 0, 1, 0, 5, 7, 1, 0, none, 0x1000, 0x10000004000, .store, [], 2, 3, 0, 0, 1, true, false, none, [], 0⟩
      let r : Response := ⟨p, 0, [], 0, 5⟩
      let s := { eS [] [] with resp := [r], time := t }
      s.extended && s.net.isEmpty && s.resp.find? (fun q => q.pkt.id == p.id && q.pkt.key.isNone && q.code != 1) == some r) = true ∧
    ([0, 35, 36].all fun plane => decide (plane < Config.planes) == (plane != 36) && ((eS [] []).pkg? 1).isSome) = true := by decide +kernel

end Sys2Proof.Machine
end

