-- ==== Sys2Proof/Tests/Witness8.lean ====
section
/-! SUPPORT. Witnesses: for each statement a concrete state and operands that meet its hypotheses, clause by clause. -/

namespace Sys2Proof.Machine

open Host (Outcome)

set_option Elab.async false

/-! ### Children -/

/-- Group num of crew 7 in a tile with a batch; s2 a launch word or item, s4:s5 and s6:s7 addresses or times. -/
def jS (num : Nat) (priv : Bool) (w lo : Word) (bt : Option Batch) (wait : Wait) : State :=
  let g := { tGroup 0 [(2, w), (4, lo), (5, 0xF2000000), (6, 70)] (tLane [] 1) (tLane [] 1) with num := num, priv := priv, splits := [⟨0, 0x1000, 3, wait, 4, 0⟩] }
  { tW g with tiles := [{ tTile with batch := bt }, cKid], trees := [tTree 1] }

def jNoTile (s : State) : State := { s with g := { s.g with tile := none } }

def jWaits (s : State) : State := { s with g := { s.g with sq := [⟨1, none, 2, 0, 1, 0, [], false⟩] } }

def jLead (m : State) : Bool := m.g.priv || m.g.num == 0

/-- The launch code that the statement names, for a LAUNCH. -/
def jCode (m : State) : Nat :=
  let n := (m.g.sreg 2).toNat % 2 ^ 16
  let r := m.portMap m.g (tTree 1) 1 n
  r.2.launchCode m.g n ((m.g.sreg 2).toNat / 2 ^ 17 != 0) false r.1.isNone

def jHere (m : State) (bt : Option Batch) : Bool := m.tileOf m.g == some { tTile with batch := bt } && m.treeOf { tTile with batch := bt } == some (tTree 1)

def jDone (bt : Batch) : Batch := { bt with head := bt.n }

theorem witness_ChildCommandResults_launch :
    ([.launch 1 8 2 4, .launchd 1 8 2 4, .join 8, .joinall 8, .tileq 8 2, .cancel 1 8] : List Instr).all (fun i =>
      tOk i (fun m => m.earlier) (jWaits (jS 0 false 2 0 none .none))) = true ∧
    (tOk (.launch 1 8 2 4) (fun m => !m.earlier) (jS 0 false 0x20002 0 none .none) &&
      tOk (.launch 1 8 2 4) (fun m => !m.earlier && !jLead m) (jS 2 false 2 0 none .none) &&
      tOk (.launch 1 8 2 4) (fun m => !m.earlier && jLead m && (m.tileOf m.g).isNone && !m.earlier) (jNoTile (jS 0 false 2 0 none .none)) &&
      ([(0, none), (5, none), (2, some cBatch)] : List (Word × Option Batch)).all (fun x => tOk (.launch 1 8 2 4) (fun m => !m.earlier && jHere m x.2 && jCode m != 0) (jS 0 false x.1 0 x.2 .none)) &&
      ([(1, none), (4, none), (0x10002, none), (2, some (jDone cBatch))] : List (Word × Option Batch)).all fun x => [false, true].all fun pr =>
        tOk (.launch 1 8 2 4) (fun m => !m.earlier && jHere m x.2 && jCode m == 0) (jS (if pr then 2 else 0) pr x.1 0 x.2 .none)) = true := by decide +kernel

/-- A dependence descriptor at window offset 0x400: no set, a set of handle 9 that does not exist, a res0 bit. -/
def jDep (h res : Nat) : List Byte := bytesOf 2 h ++ bytesOf 2 res ++ List.replicate 140 0

def jD (w lo : Word) (bytes : List Byte) : State := (jS 0 false w lo none .none).setBytes (tKey 0x400) bytes

def jDCode (m : State) : Nat :=
  let get := if m.g.s2 4 % 16 = 0 then m.fetchStruct m.g (m.g.s2 4) 144 else (none, m)
  let n := (m.g.sreg 2).toNat % 2 ^ 16
  let r := get.2.portMap m.g (tTree 1) 1 n
  let fld := match get.1 with
    | none => true
    | some x => depRes0 x
  let hnd := match get.1 with
    | none => false
    | some x => [0, 0x30, 0x60].any fun o => leField x o 2 != 0 && (get.2.handle? m.g.pkg m.g.ctx (leField x o 2)).isNone
  r.2.launchCode m.g n (fld || (m.g.sreg 2).toNat / 2 ^ 17 != 0) hnd r.1.isNone

theorem witness_ChildCommandResults_launchd :
    (([(0x408, 0, 0, 0x80000010), (0x400, 0, 1, 0x80000010), (0x400, 9, 0, 0x80000018), (0x400, 0, 0, 0)] : List (Word × Nat × Nat × Nat)).all fun x =>
      tOk (.launchd 1 8 2 4) (fun m => !m.earlier && jLead m && jHere m none && jDCode m == x.2.2.2) (jD 0x10002 x.1 (jDep x.2.1 x.2.2.1))) = true := by decide +kernel

/-- Batches whose head has reported, whose head has not, and one that all have reported. -/
def jBatch (head : Nat) (sts : List ChildSt) : Batch :=
  { cBatch with n := sts.length, head := head, kids := ((List.range sts.length).zip sts).map fun ks => { Child.fresh ks.1 with st := ks.2, started := true } }

def jMine (m : State) (bt : Option Batch) : Bool := !m.earlier && jLead m && m.tileOf m.g == some { tTile with batch := bt }

def jOpen : Batch := jBatch 1 [.done 0, .running 11, .waiting]
def jHead : Batch := jBatch 1 [.done 0, .done 3, .done 1, .waiting]
def jAll : Batch := jBatch 1 [.done 0, .done 3, .done 1]

theorem witness_ChildCommandResults_join :
    ([.join 8, .joinall 8] : List Instr).all (fun i => tOk i (fun m => !m.earlier && !jLead m) (jS 2 false 0 0 none .none) && tOk i (fun m => !m.earlier && jLead m && (m.tileOf m.g).isNone) (jNoTile (jS 0 false 0 0 none .none))) = true ∧
    ([none, some (jDone jAll)] : List (Option Batch)).all (fun b => tOk (.join 8) (fun m => jMine m b && (b.map fun z => decide (z.n ≤ z.head)).getD true) (jS 0 false 0 0 b .none)) = true ∧
    tOk (.join 8) (fun m => jMine m (some jHead) && decide (jHead.head < jHead.n) && (jHead.kid? 1).map Child.st == some (.done 3)) (jS 0 false 0 0 (some jHead) .join) = true ∧
    tOk (.join 8) (fun m => jMine m (some jOpen) && decide (jOpen.head < jOpen.n) && ((jOpen.kid? 1).bind fun c => c.st.reported).isNone) (jS 0 false 0 0 (some jOpen) .none) = true ∧
    tOk (.joinall 8) (fun m => jMine m none) (jS 0 false 0 0 none .none) = true ∧
    ([jAll, jHead, jOpen, jDone jAll].all fun b => [Wait.none, .joinall 3 1].all fun w =>
      tOk (.joinall 8) (fun m => jMine m (some b) && decide (b.head ≤ b.n) && (b.kid? b.n).isNone) (jS 0 false 0 0 (some b) w)) = true := by decide +kernel

theorem witness_ChildCommandResults_query :
    tOk (.tileq 8 2) (fun m => !m.earlier && decide (6 < (m.g.sreg 2).toNat)) (jS 0 false 7 0 none .none) = true ∧
    tOk (.tileq 8 2) (fun m => !m.earlier && decide ((m.g.sreg 2).toNat ≤ 6) && (m.tileOf m.g).isNone) (jNoTile (jS 0 false 6 0 none .none)) = true ∧
    ([0, 5].all fun w => tOk (.tileq 8 2) (fun m => !m.earlier && m.tileOf m.g == some { tTile with batch := none }) (jS 0 false w 0 none .none)) = true ∧
    ([0, 1, 2, 3, 4, 5, 6].all fun w => tOk (.tileq 8 2) (fun m => !m.earlier && m.tileOf m.g == some { tTile with batch := some jHead } && m.g.sreg 2 == w) (jS 0 false w 0 (some jHead) .none)) = true ∧
    tOk (.cancel 1 8) (fun m => !m.earlier && !jLead m) (jS 2 false 0 0 none .none) = true ∧ tOk (.cancel 1 8) (fun m => !m.earlier && jLead m && (m.tileOf m.g).isNone) (jNoTile (jS 0 false 0 0 none .none)) = true ∧
    tOk (.cancel 1 8) (fun m => jMine m none && m.tile? 9 == some { tTile with batch := none }) (jS 0 false 0 0 none .none) = true ∧
    (let t := { tTile with batch := some jOpen, parent := some 3 }
     let s := jS 0 false 0 0 none .none
     tOk (.cancel 1 8) (fun m => !m.earlier && jLead m && m.tileOf m.g == some t && t.batch == some jOpen && t.parent.isSome && decide (jOpen.kids.map Child.idx).Nodup) { s with tiles := [t] }) = true := by
  decide +kernel

/-! ### What becomes of children -/

/-- The tile with a batch whose children are as given; the time; the next id is above every tile's. -/
def iB (dep : Option (List Byte)) (kids : List Child) (t : Nat) : State :=
  let s := jS 0 false 0 0 (some { cBatch with dep := dep, kids := kids, n := kids.length }) .none
  { s with time := t, next := 100, handles := [{ cHandle 1 1 with committed := 0 }, cHandle 2 2],
           cores := [{ Core.reset 0 0 with released := true }], crews := s.crews ++ [{ tCrew with id := 8, num := 4, tile := some 11 }] }

def iT (s : State) : Tile := (s.tiles.head?).getD tTile

/-- A dependence descriptor whose first set reads handle 1, or whose third writes handle 2. -/
def iDep (read : Bool) : List Byte :=
  let set := fun (h : Nat) => bytesOf 2 h ++ List.replicate 22 0 ++ bytesOf 2 1 ++ List.replicate 22 0
  if read then set 1 ++ set 0 ++ set 0 else set 1 ++ set 0 ++ set 2

theorem witness_ChildEventResults_entry :
    ([true, false].all fun r =>
      let s := iB (some (iDep r)) [Child.fresh 0, Child.fresh 1] 0
      let b := { cBatch with dep := some (iDep r), kids := [Child.fresh 0, Child.fresh 1], n := 2 }
      s.tile? 9 == some (iT s) && s.treeOf (iT s) == some (tTree 1) && (iT s).batch == some b && (b.kid? 0) == some (Child.fresh 0) && decide (b.entries.length < 64) &&
      ((depWrite (iDep r) ((tTree 1).level 0) 0).isNone == r) && (r || ((depWrite (iDep r) ((tTree 1).level 0) 0).bind fun w => s.handleOf (iT s) w.handle) == some (cHandle 2 2))) = true ∧
    (cBatch.freeVersion (cHandle 2 2)).isSome = true := by decide +kernel

theorem witness_ChildEventResults_start :
    ((Child.fresh 0).st == .waiting && { Child.fresh 0 with st := ChildSt.running 11 }.st != .waiting) = true ∧
    (let s := iB none [Child.fresh 0] 0
     let b := { cBatch with kids := [Child.fresh 0], n := 1 }
     (iT s).live && !s.gangHolds (tTree 1) b 0 && !s.crewGone 7 && !s.depFails (iT s) b ((tTree 1).level 0) 0 && !(tTree 1).portSet 1 &&
       s.mayStart (tTree 1) (iT s) b (Child.fresh 0) false false && (s.startKid (tTree 1) (iT s) (Child.fresh 0) false).isSome && s.tiles.all fun x => decide (x.id < s.next)) = true ∧
    (let c := { Child.fresh 0 with st := .relaunch, reln := 1 }
     let s := iB none [c] 0
     (iT s).id != 0 && !(tTree 1).portSet 1 && (s.startKid (tTree 1) (iT s) c true).isSome && s.tiles.all fun x => decide (x.id < s.next)) = true := by decide +kernel

/-- Child 1 depends on child 0, which has failed and writes what child 1 reads. -/
def iFail : State :=
  let set : DepSet := ⟨1, [0, 0, 0, 0, 0], [1, 1, 1, 1, 1], 0⟩
  let one := bytesOf 2 1 ++ List.replicate 22 0 ++ bytesOf 2 1 ++ List.replicate 22 0
  iB (some (one ++ List.replicate 48 0 ++ one)) [{ Child.fresh 0 with st := .done 1, entered := true, write := some set }, { Child.fresh 1 with entered := true, reads := [set] }] 0

theorem witness_ChildEventResults_depends :
    (let s := iFail
     let b := (iT s).batch.getD cBatch
     (b.kid? 1).map Child.st == some .waiting && (iT s).live && !s.gangHolds (tTree 1) b 1 && !s.crewGone 7 && s.depFails (iT s) b ((tTree 1).level 0) 1) = true := by decide +kernel

theorem witness_ChildEventResults_complete :
    ([false, true].all fun busy =>
      let s := iB none [{ Child.fresh 0 with st := .running 11 }] 0
      let s := if busy then { s with g := { s.g with crew := 8, tile := some 11 } } else s
      let x := { cKid with crew := 8 }
      s.tile? 11 == some x && x.parent == some (iT s).id && x.id != (iT s).id && x.dom != 0 && x.idx == 0 && s.tileDone x == !busy && (s.tile? 77).isNone) = true := by decide +kernel

/-! ### Waits of the matrix engine, pod time -/

/-- Two commands of the group's own, arrived or not, and one of another group; s2 a word. -/
def kS (w : Word) (a0 a1 : Bool) : State :=
  let s := mS true w [] 2
  { s with g := { s.g with unretired := [⟨1, false, a0, [], [], []⟩, ⟨2, true, true, [], [], []⟩, ⟨3, false, a1, [], [], []⟩] } }

theorem witness_MatrixWaitAndTimeResults_matrix :
    (let s := kS 0 true true
     tOk .mfence (fun m => m.g.sq.isEmpty && m.g.sb.isEmpty) s && tOk .mfence (fun m => !m.g.sq.isEmpty) (jWaits s) && tOk .mfence (fun m => !m.g.sb.isEmpty) { s with g := { s.g with sb := [⟨1, [(.s 9, none)], false⟩] } }) = true ∧
    ([16, 2].all fun w => tOk (.mwait 2) (fun m => decide (16 ≤ (m.g.sreg 2).toNat) || decide (m.g.own.length ≤ (m.g.sreg 2).toNat)) (kS w false false)) = true ∧
    ([(0, true, true), (1, true, false), (0, true, false), (1, false, true)] : List (Word × Bool × Bool)).all (fun x =>
      tOk (.mwait 2) (fun m => decide ((m.g.sreg 2).toNat < 16) && decide ((m.g.sreg 2).toNat < m.g.own.length) &&
        ((m.g.own.take (m.g.own.length - (m.g.sreg 2).toNat)).all Unretired.arrived) == (x.2.1 && (x.1 == 1 || x.2.2))) (kS x.1 x.2.1 x.2.2)) = true ∧
    ([0, 1, 2, 3, 4, 5].all fun w => tOk (.mqry 6 2) (fun m => m.g.sreg 2 == w) (kS w true false)) = true ∧
    (let m := kS 3 true false
     (List.range 61).all (fun j => m.regionFree 0 0 (3 + j)) && (List.range 3).all fun j => !m.regionFree 0 0 j) = true := by decide +kernel

/-- s2 an item or, with s3, a time; s4 a reference; the crew's pending signals. -/
def zS (w lo : Word) (ref : Word) (sigs : List Tsig) (t : Nat) : State :=
  let s := tW { oG 0 0 with num := 0, s := [(2, w), (3, lo), (4, ref)] }
  { s.withBar (tKey 0x200) 0x10001 0 0 0 with crews := [{ tCrew with tile := some 9, tsigs := sigs }], time := t, trees := [tTree 1] }

def zBar (m : State) : Option Nat := m.refBarrier m.g.ctx m.g.tile (m.g.sreg 4).toNat

def z16 : List Tsig := (List.range 16).map fun k => ⟨k, 0x40000200, false⟩

theorem witness_MatrixWaitAndTimeResults_time :
    ([.timeq 6 2, .tsig 1 6 2 4] : List Instr).all (fun i => tOk i (fun m => m.earlier) (jWaits (zS 5 0 0x40000200 [] 9))) = true ∧
    ([0, 1, 2, 3, 4].all fun w => tOk (.timeq 6 2) (fun m => !m.earlier && m.g.sreg 2 == w) (zS w 0 0 [] 9)) = true ∧
    tOk (.tsig 1 6 2 4) (fun m => !m.earlier && (m.g.sreg 4).toNat / 2 ^ 30 % 4 == 0) (zS 5 0 0x200 [] 9) = true ∧
    tOk (.tsig 1 6 2 4) (fun m => !m.earlier && (m.g.sreg 4).toNat / 2 ^ 30 % 4 != 0 && ((m.crew? m.g.crew).map Crew.tsigs) == some z16) (zS 5 0 0x40000200 z16 9) = true ∧
    tOk (.tsig 1 6 2 4) (fun m => !m.earlier && (zBar m).isNone && (m.g.sreg 4).toNat / 2 ^ 30 % 4 != 0 && ((m.crew? m.g.crew).map fun c => c.tsigs.isEmpty) == some true) (zS 5 0 0x40000020 [] 9) = true ∧
    (let s := zS 5 0 0x40000020 [] 9
     tOk (.tsig 1 6 2 4) (fun m => !m.earlier && (zBar m).isNone && m.g.priv) { s with g := { s.g with priv := true } }) = true ∧
    ([8, 9, 10].all fun w => tOk (.tsig 1 6 2 4) (fun m => !m.earlier && zBar m == some (tKey 0x200) && (decide (m.time < m.g.s2 2) == (w == 10)) && (m.g.splits.all fun p => p.wait == .none) && openBarB m (tKey 0x200))
      (zS w 0 0x40000200 (z16.take 15) 9)) = true := by decide +kernel

theorem witness_MatrixWaitAndTimeResults_events :
    ([8, 9].all fun t => [true, false].all fun late =>
      let s := zS 0 0 0 [⟨9, 0x40000200, late⟩] t
      (s.crew? 7).map (fun c => (c.tsigs[0]?, s.refBarrier c.ctx c.tile 0x40000200)) == some (some ⟨9, 0x40000200, late⟩, some (tKey 0x200)) && openBarB s (tKey 0x200)) = true ∧
    ([(8, false), (9, true), (9, false)] : List (Nat × Bool)).all (fun x =>
      let s := zS 0 0 0 [] x.1
      let s := { s with g := { s.g with splits := [⟨0, 0x1000, 255, .sleep 9, 4, 0⟩], stop := if x.2 then some ⟨0x1000, 0, 2, 0, 0, 0⟩ else none } }
      oneB s 5 && (s.g.split? 0).map Split.wait == some (.sleep 9)) = true ∧
    ((zS 0 0 0 [] 0).pkg? 0).isSome = true := by decide +kernel

end Sys2Proof.Machine
end

