-- ==== Sys2Proof/Tests/Witness9.lean ====
section
/-! SUPPORT. Witnesses: for each statement a concrete state and operands that meet its hypotheses, clause by clause. -/

namespace Sys2Proof.Machine

open Host (Outcome)

set_option Elab.async false

/-! ### Queues -/

/-- Bytes from fields: offset, size, value. -/
def qBytes (n : Nat) (fs : List (Nat × Nat × Nat)) : List Byte :=
  (List.range n).map fun j => match fs.find? fun f => decide (f.1 ≤ j) && decide (j < f.1 + f.2.1) with
    | some f => BitVec.ofNat 8 (f.2.2 / 2 ^ (8 * (j - f.1)))
    | none => 0

/-- Queue 5 of process 1 with a ring of eight packets at 0x20000: its indices, claim and state, and the packet at its head. The
second GiB of package memory is mapped too. -/
def qS (ridx widx claim st : Nat) (pkt : List Byte) : State :=
  let s := { tW Group.empty with g := deviceFor 0 1, tiles := [], crews := [], time := 1000 }
  let s := (s.setNum (keyPkg 0 0x2008) 8 0x4000001F).setBytes (keyPkg 0 0x100140)
    (qBytes 64 [(0, 8, 0x20000), (8, 1, 3), (0x0A, 2, 1), (0x0C, 2, 7), (0x0E, 1, st), (0x10, 8, ridx), (0x18, 8, widx), (0x30, 8, claim)])
  s.setBytes (keyPkg 0 (0x20000 + 128 * (ridx % 8))) pkt

/-- The head packet is ready, read and well-formed. -/
def qHas (s : State) (pkt : List Byte) : Bool :=
  s.headReady 0 5 && (s.packetAt 0 5 (s.qRidx 0 5)).1 == some pkt && pktErr pkt == 0 && s.fenceMet 0 5 pkt && s.num (s.queueKey 0 5 + 0x20) 8 == 0

theorem witness_QueuePacketResults_push :
    (let s := tState { Group.empty with id := 5, crew := 7, num := 2, ctx := 1, lanes := [tLane [] 1], s := [(2, 5), (4, 9)], splits := [⟨0, 0x1000, 1, .none, 4, 0⟩] }
     let s := (qS 3 4 9 1 []).setG s.g
     tOk (.qpush 1 6 2 4) (fun m => m.relWaits 4) { s with g := { s.g with sq := [⟨1, none, 2, 0, 1, 0, [], false⟩] } } &&
     tOk (.qpush 1 6 2 4) (fun m => !m.relWaits 4 && decide (2 ^ 12 ≤ (m.g.sreg 2).toNat)) { s with g := { s.g with s := [(2, 0x1005)] } } &&
     tOk (.qpush 1 6 2 4) (fun m => !m.relWaits 4 && decide ((m.g.sreg 2).toNat < 2 ^ 12) && m.qCtx m.g.pkg 5 != m.g.ctx) { s with g := { s.g with ctx := 2 } } &&
     [0, 1].all fun y => tOk (.qpush y (if y = 0 then 0 else 6) 2 4) (fun m => !m.relWaits 4 && m.g.sreg 2 == 5 && m.qCtx m.g.pkg 5 == m.g.ctx) s) = true := by decide +kernel

theorem witness_QueuePacketResults_kick :
    (let s := qS 3 4 9 1 []
     s.takesRdma 0 && !s.takesRdma 1 && (s.kickOwner 0 1 7) == some 5 && (s.kickOwner 0 1 8).isNone &&
       s.qRidx 0 5 == 3 && s.qRing 0 5 == 8 && decide (3 + 8 < 12) && decide (11 ≤ 3 + 8) && s.qWidx 0 5 == 4 && !(qS 4 4 9 1 []).headReady 0 5) = true := by decide +kernel

/-- A packet of each type that is refused, and one of each type that is well-formed. -/
theorem witness_QueuePacketResults_malformed :
    (let s := (qS 3 4 9 1 []).setNum (keyPkg 0 0x100140) 8 (2 ^ 60)
     s.headReady 0 5 && (s.packetAt 0 5 3).1.isNone) = true ∧
    ([qBytes 128 [(0, 1, 6)], qBytes 128 [(1, 1, 2)], qBytes 128 [(0, 1, 3), (8, 1, 2)]].all fun b =>
      let s := qS 3 4 9 1 b
      s.headReady 0 5 && (s.packetAt 0 5 3).1 == some b && pktErr b != 0) = true := by decide +kernel

/-- Words of packets at the start of the second GiB. -/
def qWord (b : List Byte) (need : Nat) : Bool :=
  let s := qS 3 4 9 1 b
  let t := (s.packetAt 0 5 3).2
  let k := keyPkg 0 0x40000000
  qHas s b && leField b 0x10 8 == 0x40000000 && (t.homeAt 0 (s.qCtx 0 5) 0x40000000 need).1 == some k && (t.homeAt 0 (s.qCtx 0 5) 0x40000000 need).2.free == t.free &&
  decide (s.queueKey 0 5 + 64 ≤ k) && s.poison == [] && s.cmds == [] && s.liveBars == [] && (List.range 8).all fun j => (s.vatHolding (k + j)).isNone

theorem witness_QueuePacketResults_simple :
    (let b := qBytes 128 []
     qHas (qS 3 4 9 1 b) b) = true ∧
    qWord (qBytes 128 [(0, 1, 5), (0x10, 8, 0x40000000)]) 2 = true ∧
    ([0, 5].all fun y => qWord (qBytes 128 [(0, 1, 3), (0x10, 8, 0x40000000), (0x18, 8, y), (0x20, 8, 0xFF)]) 1) = true ∧
    qWord (qBytes 128 [(0, 1, 3), (8, 1, 1), (0x10, 8, 0x40000000)]) 3 = true ∧
    ([0, 1].all fun op => qWord (qBytes 128 [(0, 1, 4), (9, 1, op), (0x10, 8, 0x40000000), (0x18, 8, 9)]) (2 + op)) = true ∧
    (let b := qBytes 128 [(0, 1, 4), (8, 1, 1), (0x0C, 4, 77), (0x10, 8, 0x4000)]
     qHas (qS 3 4 9 1 b) b) = true := by decide +kernel

/-- The state with a started packet. -/
def qStarted (b : List Byte) (written : Bool) : State := { qS 4 4 9 1 [] with qpkts := [⟨0, 5, 3, b, written, none⟩] }

theorem witness_QueuePacketResults_later :
    ([0, 1].all fun y =>
      let b := qBytes 128 [(0, 1, 3), (9, 1, 0), (0x10, 8, 0x40000000), (0x18, 8, y), (0x20, 8, 0xFF)]
      let s := qStarted b false
      pktType b == 3 && (s.homeAt 0 (s.qCtx 0 5) 0x40000000 1).1 == some (keyPkg 0 0x40000000) && (waitHolds b (s.num (keyPkg 0 0x40000000) 8) == (y == 0))) = true ∧
    ([true, false].all fun w =>
      let b := qBytes 128 [(0, 1, 4), (8, 1, 1), (0x0C, 4, 77), (0x10, 8, 0x4000)]
      pktType b == 4 && leField b 8 1 == 1 && (qStarted b w).qpkts == [⟨0, 5, 3, b, w, none⟩]) = true ∧ (qS 4 4 9 1 []).qpkts = [] := by decide +kernel

/-! ### Launches from a queue -/

/-- A record of one level of a domain at 0x30000. -/
def qRcd (dom : Nat) : List Byte := qBytes 96 [(0, 2, 1), (2, 1, 1), (3, 1, 2), (8, 8, 0x1000), (0x10, 8, 500), (0x40, 1, dom), (0x42, 1, 1), (0x43, 1, 1), (0x50, 4, 4096)]

def qRec (dom : Nat) : LaunchRec := (recordOf 0x30000 (qRcd dom) 1).getD (tRcd 1)

/-- The head is a packet, core 0 released, a record at 0x30000; the time. -/
def qL (dom now : Nat) (pkt : List Byte) : State :=
  { (qS 3 4 9 1 pkt).setBytes (keyPkg 0 0x30000) (qRcd dom) with time := now, cores := [{ Core.reset 0 0 with released := true }] }

/-- The record is read where the leaf maps it. -/
def qArgsB (s : State) (b : List Byte) (r : LaunchRec) : Bool :=
  s.g == deviceFor 0 1 && leField b 8 8 == 0x30000 && leField b 0x10 8 == 0 && s.readB 0x30000 64 0x30000 && s.readB 0x30000 96 0x30000 &&
  leField (s.bytes (keyPkg 0 0x30000) 64) 0 2 == 1 && leField (s.bytes (keyPkg 0 0x30000) 64) 2 1 == 1 &&
  recordOf 0x30000 (s.bytes (keyPkg 0 0x30000) 96) 1 == some r && (r.levels.head?.map fun l => decide (4 ≤ l.dom)).getD false == false

theorem qArgs_of {s : State} {b : List Byte} {r : LaunchRec} (h : qArgsB s b r = true) (free n : Nat) :
    (s.oneLeaf (tEntry 0 1) free true).launchArgs 0 1 b n = (.inr r, s.oneLeaf (tEntry 0 1) (free + 2) true) := by
  simp only [qArgsB, Bool.and_eq_true, beq_iff_eq] at h
  obtain ⟨⟨⟨⟨⟨⟨⟨⟨hg, hv⟩, h0⟩, h1⟩, h2⟩, h3⟩, h4⟩, h5⟩, h6⟩ := h
  have e1 := read_at h1 free true
  have e2 := read_at h2 (free + 1) true
  rw [hg] at e1 e2
  have hp : (deviceFor 0 1).pkg = 0 := rfl
  have hc : (deviceFor 0 1).ctx = 1 := rfl
  simp only [hp, hc, if_true] at e1 e2
  unfold State.launchArgs State.readRecord State.reportOk
  simp only [hv, h0, e1, h3, h4, e2, h5, if_true]
  have c1 : ¬ (196608 % 64 ≠ 0) := by decide
  have c2 : ¬ (1 ≠ 1 ∨ 1 = 0 ∨ 8 < 1) := by decide
  simp only [if_neg c1, if_neg c2, h6, Bool.false_and, Bool.false_eq_true, if_false]

/-- A LAUNCH packet with the record. -/
def qLaunch : List Byte := qBytes 128 [(0, 1, 1), (4, 4, 9), (8, 8, 0x30000)]

/-- After the packet and the record have been read. -/
def qRead (s : State) : State := s.oneLeaf (tEntry 0 1) (s.free + 2) true

/-- The state that reading the head packet leaves. -/
def qOpen (s : State) (b : List Byte) : Bool := s.packetAt 0 5 3 == (some b, s.oneLeaf (tEntry 0 1) s.free true)

theorem witness_QueuePacketResults_launch_args :
    ([400, 500].all fun now => qArgsB (qL 1 now qLaunch) qLaunch (qRec 1) && qOpen (qL 1 now qLaunch) qLaunch) = true := by decide +kernel

theorem witness_QueuePacketResults_launch :
    ([400, 500].all fun now =>
      let s := qL 1 now qLaunch
      let t := qRead s
      s.noteHeads == s && qHas s qLaunch && pktType qLaunch == 1 && s.qRidx 0 5 == 3 && (qRec 1).timed && (decide (t.time < (qRec 1).t0) == (now == 400)) &&
        !t.childFirst 0 0 && !t.outranked 0 5 && (t.launchRoot 0 5 0 qLaunch (qRec 1)).isSome) = true := by decide +kernel

/-! ### Gangs -/

/-- A GANG packet of a kind with a mask, a record address, and a member array. -/
def qGang (kind mask va arr : Nat) : List Byte := qBytes 128 [(0, 1, 2), (4, 4, 9), (8, 8, va), (0x18, 1, kind), (0x1A, 2, mask), (0x20, 8, arr)]

theorem witness_GangResults_packet :
    (let b := qGang 2 1 0x30001 0
     qHas (qL 3 400 b) b && ((qL 3 400 b).oneLeaf (tEntry 0 1) (qL 3 400 b).free true).launchArgs 0 1 b 1 == (.inl 3, (qL 3 400 b).oneLeaf (tEntry 0 1) (qL 3 400 b).free true) && qOpen (qL 3 400 b) b) = true ∧
    ([qGang 3 0 0x30000 1, qGang 2 0 0x30000 0, qGang 2 3 0x30000 0].all fun b =>
      let s := qL 3 400 b
      qHas s b && pktType b == 2 && s.gangs == [] && qOpen s b && qArgsB s b (qRec 3)) = true ∧
    ((qL 3 400 (qGang 3 0 0x30000 1)).oneLeaf (tEntry 0 1) 0 true).gangMembers 0 1 1 = (.inl 5, (qL 3 400 (qGang 3 0 0x30000 1)).oneLeaf (tEntry 0 1) 0 true) ∧
    ((qRead (qL 3 400 (qGang 2 0 0x30000 0))).partitionBad 0 2 0 (qRec 3) [] && !(qRead (qL 3 400 (qGang 2 3 0x30000 0))).partitionBad 0 2 3 (qRec 3) []) = true := by decide +kernel

/-- A gang of the first dies of package 0, one part each; its state, attempt, timer, and the parts. -/
def gG (id st attempt timer claim : Nat) (ps : List GangPart) : Gang :=
  ⟨id, 0, 5, 3, 9, 0, 2, 1, 0, { qRec 3 with levels := [⟨1, 8, 1, 1, 0, 0, 0, 0, 0, 0, 4096, 0, 0, 0, 0, 0, 0⟩], timed := false }, claim, st, attempt, timer, 0, [], ps⟩

/-- Part n with its state, timer, messages to and from it. -/
def gPQ (n st timer : Nat) (inb out : List GangMsg) : GangPart :=
  { GangPart.fresh n 0 [n] with st := st, timer := timer, inbox := inb.map fun m => (m, 1), outbox := out.map fun m => (m, 1) }

/-- Gangs with queue 5's head a GANG packet. -/
def gSQ (now : Nat) (gs : List Gang) : State := { qL 3 now (qGang 2 3 0x30000 0) with gangs := gs, cores := [{ Core.reset 0 0 with released := true }] }

def gHeld : Held := ⟨0, 0, 0, [], 8, 1, 1, 0, 0, 4096⟩

/-- Some gang of that number has that part. -/
def gAt (s : State) (g : Gang) (p : GangPart) : Bool := s.gang? g.id == some g && g.part? p.part == some p

theorem witness_GangResults_idle :
    (let p := gPQ 0 0 0 [] []
     let g := gG 50 0 1 1000 0 [p]
     let s := gSQ 1000 [g]
     gAt s g p && p.inbox.isEmpty && p.outbox.isEmpty && g.st == 0 && p.st == 0) = true ∧
    (let p := gPQ 0 1 1000 [] []
     let q := { gPQ 1 2 0 [] [] with start := 5000 }
     let g := gG 50 1 1 1000 0 [p, q]
     let h := gG 51 2 1 1000 0 [p, q]
     let s := gSQ 1001 [g, h]
     gAt s g p && gAt s g q && gAt s h p && decide (s.time < g.timer + 100000) && decide (s.time < p.timer + 120000) && decide (s.time < q.start)) = true := by decide +kernel

theorem witness_GangResults_part :
    ([gPQ 0 1 0 [.reserve] [], gPQ 0 0 0 [.reserve] []].all fun p =>
      let g := gG 50 1 1 0 0 [p]
      let s := gSQ 1000 [g]
      gAt s g p && s.agentsRun 0) = true ∧
    (let p := gPQ 0 0 0 [.reserve] []
     let o := gPQ 0 1 0 [] []
     [(7, false), (0, true)].all fun (x : Nat × Bool) =>
      let g := gG 50 1 1 0 x.1 [p]
      let other := gG 51 1 4 0 5 [o]
      let s := gSQ 1000 [g, other]
      gAt s g p && g.older other == x.2 &&
        ((s.modGang 51 fun y => { y with parts := y.parts.map fun r => if r.st = 1 ∧ r.pkg = p.pkg ∧ r.dies = p.dies then r.free.answer .no y.attempt else r }).holdAt g p 0).isSome) = true ∧
    (let p := gPQ 0 0 0 [.reserve] []
     let g := gG 50 1 1 0 0 [p]
     let s := { gSQ 1000 [g] with cores := [] }
     (s.holdAt g p 0).isNone && !s.canHold g p && ((gSQ 1000 [g]).holdAt g p 0).isSome) = true ∧
    ([gPQ 0 1 0 [.release] [], gPQ 0 2 0 [.release] [], gPQ 0 1 0 [.commit] []].all fun p => gAt (gSQ 1000 [gG 50 3 1 0 0 [p]]) (gG 50 3 1 0 0 [p]) p && (gSQ 1000 []).agentsRun 0) = true ∧
    (let p := gPQ 0 1 1000 [] []
     gAt (gSQ 121000 [gG 50 1 1 0 0 [p]]) (gG 50 1 1 0 0 [p]) p) = true ∧
    (let p := { gPQ 0 2 0 [] [] with start := 900, hold := some gHeld }
     let g := gG 50 3 1 0 0 [p]
     let s := gSQ 1000 [g]
     let t := s.modPart 50 0 fun x => { x with st := 3, hold := none }
     let tr : Tree := ⟨t.next, 0, 1, g.rcd, 5, 3, 9, 0, 50, 0, false, 1, [0], [], 0⟩
     gAt s g p && (State.startRoot { t with trees := t.trees ++ [tr], next := t.next + 1 } tr 0 0).isSome) = true := by decide +kernel

theorem witness_GangResults_coordinator :
    ([true, false].all fun more =>
      let p := gPQ 0 1 1000 [] [.held]
      let q := { gPQ 1 1 1000 [] [] with ok := !more }
      let g := gG 50 1 1 1000 0 [p, q]
      let s := gSQ 1000 [g]
      gAt s g p && s.agentsRun 0 && decide (s.time ≤ g.timer + 100000) && s.headReady 0 5 && s.qRidx 0 5 == g.index && s.num (s.queueKey 0 5 + 0x20) 8 == 0) = true ∧
    (let p := gPQ 0 0 1000 [] [.no]
     let g := gG 50 1 1 1000 0 [p]
     gAt (gSQ 1000 [g]) g p) = true ∧
    ([1, 6].all fun a =>
      let p := gPQ 0 0 0 [] []
      let g := gG 50 2 a 1000 0 [p]
      let s := gSQ (1000 + 100000 * 2 ^ min a 4) [g]
      gAt s g p && s.qRidx 0 5 == g.index && decide (g.timer + 100000 * 2 ^ min g.attempt 4 ≤ s.time)) = true ∧
    (let p := gPQ 0 0 0 [] []
     let g := gG 50 1 1 1000 0 [p]
     gAt (gSQ 101000 [g]) g p) = true := by decide +kernel

/-! ### The host -/

/-- Region 3 of process 1: two chunks from 0x400000, with rights; its entry at 0x180000, its chunk list at 0x190000. -/
def rS (rights : Nat) : State :=
  let s := tW Group.empty
  let s := (s.setNum (keyPkg 0 0x140090) 8 0x180000).setBytes (keyPkg 0 0x180060) (qBytes 32 [(0, 8, 0x800000), (8, 4, 2), (0x0C, 1, rights), (0x0D, 1, 1), (0x10, 8, 0x190000)])
  s.setBytes (keyPkg 0 0x190000) (qBytes 8 [(0, 4, 2), (4, 4, 3)])

theorem witness_HostCommandResults_rdma :
    (let s := rS 3
     (s.rdmaKeys 0 1 3 2 0x1FFFFE 4) == some [keyPkg 0 0x5FFFFE, keyPkg 0 0x5FFFFF, keyPkg 0 0x600000, keyPkg 0 0x600001] && s.poison == [] && s.cmds == [] && s.vats == [] && s.liveBars == [] &&
       (s.rdmaKeys 0 1 3 1 0x1FFFFE 4).isSome && (s.rdmaKeys 0 1 3 2 0x3FFFFE 4).isNone && ((rS 2).rdmaKeys 0 1 3 1 0 4).isNone && (s.rdmaKeys 1 1 3 1 0 4).isNone &&
       ({ s with poison := [eccWord (keyPkg 0 0x600000)] }).poisonedAt (keyPkg 0 0x600001) 1) = true := by decide +kernel

/-- A command: CMD, one 32-bit argument. -/
def hMsg (c x : Nat) : List Byte := qBytes 64 [(0, 1, c), (4, 4, x)]

/-- A package in a power state with die 0 READY and die 1 in ROM. -/
def hSQ (pstate : Nat) (trip : Bool) : State :=
  { tState Group.empty with pkgs := [{ tPkg with pstate := pstate, trip := trip, dies := setNth tPkg.dies 1 Die.reset }], crews := [] }

theorem witness_HostCommandResults_commands :
    ((hSQ 0 false).net == [] && (hSQ 0 false).cmds == [] && (hSQ 0 false).undef == []) = true ∧
    (let s := hSQ 0 false
     s.powered 0 && !(hSQ 7 false).powered 0 && (hMsg 1 0).length == 64 && leField (hMsg 9 0) 0 1 == 9 && (hMsg 1 1).drop 4 != List.replicate 60 0 &&
       ((s.pkg 0).die 0).st == .ready && ((s.pkg 0).die 1).st != .ready && ((s.pkg 0).die 8).st == .ready && decide (8 < 9)) = true ∧
    ([(2, 4), (3, 4), (4, 0), (5, 36), (6, 4), (7, 0), (1, 0)].all fun (x : Nat × Nat) =>
      let m := hMsg x.1 (if x.2 == 0 then 0 else 7)
      m.length == 64 && leField m 0 1 == x.1 && leField m 1 1 == 0 && (m.drop (4 + x.2)).all fun b => b == 0) = true ∧
    ([(0, 5), (0, 4), (1, 3), (3, 7), (4, 7), (0, 7), (4, 0), (3, 2)].all fun (x : Nat × Nat) =>
      ((hSQ x.1 false).pkg 0).pstate == x.1 && powerAccepted x.1 x.2 true == !(x == (0, 4) || x == (0, 7) || x == (4, 0))) = true ∧
    ((hSQ 0 false).ctxLive 0 1 == false && (tW Group.empty).ctxLive 0 1 && ((hSQ 0 false).pkg 0).service != 0) = true := by decide +kernel

theorem witness_HostCommandResults_no_process : ∀ c, 1 ≤ c → c < 4096 → (hSQ 0 false).ctxLive 0 c = false := by
  intro c _ _
  have h : (hSQ 0 false).mem = [] := rfl
  have hu : (hSQ 0 false).undef = [] := rfl
  have hn : ∀ k : Nat, Memory.get [] k = 0 := fun k => rfl
  simp [State.ctxLive, State.ctxField, State.num, State.bytes, State.byte, h, hu, hn]
  decide

/-! ### Power and reset -/

/-- A package as it comes up: one die in a state, the others in ROM, stacks as given. -/
def bSQ (st : DieSt) (links : Bool) (hbm : List StackSt) : State :=
  { State.reset with pkgs := [{ Package.reset 0 with dies := setNth (Package.reset 0).dies 0 { Die.reset with st := st, links := links }, hbm := hbm }] }

theorem witness_PowerAndResetResults_bringup :
    ([DieSt.rom, .verify, .training, .failed].all fun st => [true, false].all fun l =>
      let s := bSQ st l (List.replicate 12 .training)
      s.powered 0 && !s.powered 1 && (s.pkg? 1).isNone && ((s.pkg 0).die 0).st == st && ((s.pkg 0).die 0).links == l && (s.pkg 0).hbm.length == 12 && (s.pkg 0).dies.length == 9 &&
        (s.pkg 0).hbm.getD 3 .untrained == .training && (s.pkgs.all fun q => q.service == 0 && decide (q.num < 1024)) && !s.extended && (s.pkg 0).hbm.getD 12 .untrained == .untrained && !(s.pkg 0).trip) = true ∧ ((hSQ 0 true).pkg 0).trip = true ∧ ((hSQ 0 false).pkgs.any fun q => decide (2 ≤ q.service)) = true := by decide +kernel

theorem witness_PowerAndResetResults_reset :
    (let s := qL 3 400 []
     s.powered 0 && (s.core 0 0).released && (s.pkg? 0).isSome && decide (8 < (s.pkg 0).dies.length)) = true := by decide +kernel

theorem witness_PowerAndResetResults_soft :
    (let v : PortVal := ⟨7, true, false, [], false⟩
     let s := { tM 0 with g := { (tM 0).g with linkq := [⟨3, 1, [v]⟩] }, cmds := [⟨60, 0, 0, 0, 5, 2, 0x1000, 7, none, 1, none, some 1, 0, false, 0, [], [], [], .hmsg []⟩] }
     s.g.portQ 3 1 == [v] && s.cmds.map Cmd.id == [60] && s.groups == [] && s.g.id == 5) = true ∧
    (let s := tM 0
     s.groups == [] && s.g.id == 5 && s.g.lanes.length == 2 && decide (8192 / 8192 < 2) && decide (8 / 8 < 2) && 73 % 72 != 0 && 72 % 72 == 0) = true ∧ (tM 0).theGroup 5 (tM 0).g := by
  refine ⟨by decide +kernel, by decide +kernel, ?_⟩
  unfold State.theGroup
  decide

end Sys2Proof.Machine
end

section
/-! SUPPORT. The operations that write no memory leave it as it is. -/

namespace Sys2Proof.Machine

theorem State.foldl_mem {α : Type} (f : State → α → State) (h : ∀ s a, (f s a).mem = s.mem) (l : List α) (s : State) :
    (l.foldl f s).mem = s.mem := by
  induction l generalizing s with
  | nil => rfl
  | cons a l ih => rw [List.foldl_cons, ih, h]

theorem State.foldl_mem_snd {α β : Type} (f : β × State → α → β × State) (h : ∀ a x, (f a x).2.mem = a.2.mem) (l : List α)
    (a : β × State) : (l.foldl f a).2.mem = a.2.mem := by
  induction l generalizing a with
  | nil => rfl
  | cons x l ih => rw [List.foldl_cons, ih, h]

theorem Work.foldl_mem {α : Type} (f : Work → α → Work) (h : ∀ w a, (f w a).s.mem = w.s.mem) (l : List α) (w : Work) :
    (l.foldl f w).s.mem = w.s.mem := by
  induction l generalizing w with
  | nil => rfl
  | cons a l ih => rw [List.foldl_cons, ih, h]

@[simp] theorem State.draw_mem (s : State) : (s.draw).2.mem = s.mem := rfl

@[simp] theorem State.pick_mem (s : State) (n : Nat) : (s.pick n).2.mem = s.mem := rfl

@[simp] theorem State.fresh_mem (s : State) : (s.fresh).2.mem = s.mem := rfl

@[simp] theorem State.focus_mem (s : State) (gid : Nat) : (s.focus gid).mem = s.mem := by
  simp only [State.focus]
  split
  · simp
  · split <;> simp

@[simp] theorem State.modDie_mem (s : State) (pkg n : Nat) (f : Die → Die) :
    (s.modDie pkg n f).mem = s.mem := rfl

@[simp] theorem State.letGo_mem (s : State) (cmd : Nat) : (s.letGo cmd).mem = s.mem := rfl

@[simp] theorem State.haltCrew_mem (s : State) (crew : Nat) (ev : Option Event) :
    (s.haltCrew crew ev).mem = s.mem := rfl

@[simp] theorem State.signalWork_mem (s : State) (pkg : Option Nat) : (s.signalWork pkg).mem = s.mem := rfl

@[simp] theorem State.slotFault_mem (s : State) (pkg core code pc : Nat) :
    (s.slotFault pkg core code pc).mem = s.mem := by simp [State.slotFault]

@[simp] theorem State.takeTrap_mem (s : State) (code arg lane : Nat) :
    (s.takeTrap code arg lane).mem = s.mem := by
  simp only [State.takeTrap]
  split
  · simp
  · split <;> simp

@[simp] theorem State.merged_mem (s : State) : (s.merged).mem = s.mem := rfl

@[simp] theorem State.eccCtl_mem (s : State) (pkg ctx : Nat) (g : Option Group) (addr : Nat) :
    (s.eccCtl pkg ctx g addr).mem = s.mem := rfl

@[simp] theorem State.translate_mem (s : State) (pkg ctx off need : Nat) :
    (s.translate pkg ctx off need).2.mem = s.mem := by
  simp only [State.translate, apply_ite Prod.snd, apply_ite State.mem]
  repeat' split
  all_goals simp

@[simp] theorem State.recordGuard_mem (s : State) (crew group pc lvl off key : Nat) :
    (s.recordGuard crew group pc lvl off key).mem = s.mem := rfl

@[simp] theorem State.spanKey_mem (s : State) (pkg ctx off need n : Nat) (ks : List Nat) :
    (s.spanKey pkg ctx off need n ks).2.mem = s.mem := by
  grind [State.spanKey, State.translate_mem]

@[simp] theorem State.translateSpan_mem (s : State) (pkg ctx off need n : Nat) :
    (s.translateSpan pkg ctx off need n).2.mem = s.mem := by
  induction n with
  | zero => rfl
  | succ n ih => grind [State.translateSpan, State.spanKey_mem]

@[simp] theorem State.fetchStruct_mem (s : State) (g : Group) (va n : Nat) :
    (s.fetchStruct g va n).2.mem = s.mem := by
  grind [State.fetchStruct, State.translate_mem, State.recordGuard_mem, State.eccCtl_mem]

@[simp] theorem State.putLine_mem (s : State) (alloc : Bool) (unit key : Nat) (data : List Byte) :
    (s.putLine alloc unit key data).mem = s.mem := by
  simp only [State.putLine]
  split
  · simp
  · split <;> simp

@[simp] theorem State.fillLine_mem (s : State) (pkg core : Nat) (alloc : Bool) (key : Nat) (data : List Byte) :
    (s.fillLine pkg core alloc key data).mem = s.mem := by simp [State.fillLine]

@[simp] theorem State.lineByte_mem (s : State) (unit key : Nat) (b : Byte) :
    (s.lineByte unit key b).mem = s.mem := rfl

@[simp] theorem State.dropLines_mem (s : State) (p : Line → Bool) : (s.dropLines p).mem = s.mem := rfl

@[simp] theorem State.discard_mem (s : State) (pkg core sc : Nat) : (s.discard pkg core sc).mem = s.mem := by
  simp only [State.discard]
  split
  · simp
  · split <;> simp

@[simp] theorem State.learn_mem (s : State) (g : Group) (sc : Nat) : (s.learn g sc).mem = s.mem := by
  simp only [State.learn]
  split <;> simp

@[simp] theorem State.refresh_mem (s : State) (g : Group) (sc : Nat) : (s.refresh g sc).mem = s.mem :=
  by simp [State.refresh]

@[simp] theorem State.acquire_mem (s : State) (g : Group) (sc : Nat) : (s.acquire g sc).mem = s.mem :=
  by simp [State.acquire]

@[simp] theorem State.loadLine_mem (s : State) (pkg core : Nat) (alloc : Bool) (limit key : Nat)
    (home : List Byte) : (s.loadLine pkg core alloc limit key home).2.mem = s.mem := by
  simp only [State.loadLine, apply_ite Prod.snd]
  repeat' split
  all_goals simp

@[simp] theorem State.readAt_mem (s : State) (pkg core : Nat) (alloc : Bool) (limit key n : Nat) :
    (s.readAt pkg core alloc limit key n).2.mem = s.mem := by
  simp only [State.readAt]
  split <;> simp

@[simp] theorem State.engineCaches_mem (s : State) (pkg core k : Nat) (b : Byte) :
    (s.engineCaches pkg core k b).mem = s.mem := by
  simp only [State.engineCaches]
  split
  · simp
  · split <;> simp

@[simp] theorem State.passCaches_mem (s : State) (pkg core key : Nat) (bs : List Byte) :
    (s.passCaches pkg core key bs).mem = s.mem := by
  rw [State.passCaches, State.foldl_mem]
  exact fun _ _ => rfl

@[simp] theorem State.passHere_mem (s : State) (pkg core key : Nat) (bs : List Byte) :
    (s.passHere pkg core key bs).mem = s.mem := by
  simp only [State.passHere]
  split <;> simp

@[simp] theorem State.imprecise1_mem (s : State) (kind code crewId gid pc addr target : Nat)
    (num pkg core ctx : Nat) :
    (s.imprecise1 kind code crewId gid pc addr target num pkg core ctx).mem = s.mem := rfl

@[simp] theorem State.send_mem (s : State) (p : Packet) : (s.send p).mem = s.mem := rfl

@[simp] theorem State.seen_mem (s : State) (key : Nat) (bs : List Byte) : (s.seen key bs).mem = s.mem := by
  simp only [State.seen]
  rw [State.foldl_mem]
  exact fun _ _ => rfl

@[simp] theorem State.loadHere_mem (s : State) (a : Access) (key : Nat) : (s.loadHere a key).2.mem = s.mem := by
  simp only [State.loadHere, apply_ite Prod.snd, apply_ite State.mem]
  repeat' split
  all_goals simp

@[simp] theorem State.loadLevel_mem (s : State) (a : Access) (key lvl off memb : Nat) :
    (s.loadLevel a key lvl off memb).2.mem = s.mem := by
  simp only [State.loadLevel]
  split <;> simp

@[simp] theorem State.loadFar_mem (s : State) (a : Access) (pkg off : Nat) :
    (s.loadFar a pkg off).2.mem = s.mem := by
  simp only [State.loadFar, apply_ite Prod.snd, apply_ite State.mem]
  repeat' split
  all_goals simp

@[simp] theorem State.load1_mem (s : State) (a : Access) : (s.load1 a).2.mem = s.mem := by
  grind [State.load1, State.translate_mem, State.loadLevel_mem, State.loadHere_mem, State.loadFar_mem]

@[simp] theorem State.storeFar_mem (s : State) (p : Packet) : (s.storeFar p).mem = s.mem :=
  by simp [State.storeFar]

@[simp] theorem State.redFar_mem (s : State) (p : Packet) : (s.redFar p).mem = s.mem := rfl

@[simp] theorem State.storeAway_mem (s : State) (e : StoreEntry) (ls : LaneStore) (pkg off : Nat) {t : State}
    (h : s.storeAway e ls pkg off = some t) : t.mem = s.mem := by
  simp only [State.storeAway] at h
  split at h
  · cases h
  · split at h <;> obtain rfl := Option.some.inj h
    · simp
    · rw [State.foldl_mem _ (fun _ _ => State.storeFar_mem ..)]
      simp

@[simp] theorem State.trapAt_mem (s : State) (gid idx code arg : Nat) :
    (s.trapAt gid idx code arg).mem = s.mem := by simp [State.trapAt]

@[simp] theorem State.restartPorts_mem (s : State) (ids : List Nat) : (s.restartPorts ids).mem = s.mem := rfl

@[simp] theorem State.unbind_mem (s : State) (gid : Nat) : (s.unbind gid).mem = s.mem := rfl

@[simp] theorem State.unbindExited_mem (s : State) (gid : Nat) : (s.unbindExited gid).mem = s.mem := by
  unfold State.unbindExited
  repeat' split
  all_goals simp

@[simp] theorem State.guardAtExit_mem (s : State) (crew : Nat) : (s.guardAtExit crew).mem = s.mem := by
  simp only [State.guardAtExit]
  split
  · simp
  · split <;> simp

@[simp] theorem State.postLoads_mem (s : State) (rs : List (Nat × LoadRes)) (et d : Nat) (acq : Bool) :
    (s.postLoads rs et d acq).mem = s.mem := rfl

@[simp] theorem State.ordered_mem (s : State) (ord sc rel : Nat) : (s.ordered ord sc rel).mem = s.mem := by
  unfold State.ordered
  repeat' split
  all_goals simp

@[simp] theorem State.guardStores_mem (s : State) (ls : List LaneStore) : (s.guardStores ls).2.mem = s.mem := by
  induction ls generalizing s with
  | nil => rfl
  | cons x t ih => grind [State.guardStores, State.recordGuard_mem]

@[simp] theorem State.loadSeat_mem (s : State) (seat : Seat) (a : Access) (off n : Nat) :
    (s.loadSeat seat a off n).2.mem = s.mem := by
  grind [State.loadSeat, State.loadLevel_mem, State.loadHere_mem]

@[simp] theorem State.loadParts_mem (s : State) (seat : Seat) (a : Access) (ps : List Part) :
    (s.loadParts seat a ps).2.mem = s.mem := by
  induction ps generalizing s with
  | nil => rfl
  | cons p t ih => grind [State.loadParts, State.loadSeat_mem]

@[simp] theorem State.loadElem_mem (s : State) (seat : Seat) (l : Layout) (v : Nat) (a : Access)
    (cs : List Int) : (s.loadElem seat l v a cs).2.mem = s.mem := by
  grind [State.loadElem, State.recordGuard_mem, State.loadParts_mem, State.loadSeat_mem]

@[simp] theorem State.elemLanes_mem (s : State) (h : Handle) (l : Layout) (seat : Seat) (d b : Nat) :
    (s.elemLanes h l seat d b).2.mem = s.mem := by
  refine State.foldl_mem_snd _ (fun a i => ?_) _ _
  simp only [apply_ite Prod.snd, apply_ite State.mem]
  split
  · rfl
  · split <;> simp

@[simp] theorem State.cctlLine_mem (s : State) (va : Nat) : (s.cctlLine va).2.mem = s.mem := by
  grind [State.cctlLine, State.translate_mem]

@[simp] theorem State.leaveNone_mem (s : State) (p : Packet → Bool) : (s.leaveNone p).mem = s.mem := rfl

@[simp] theorem State.discardLine_mem (s : State) (p : Nat → Bool) (k : Nat) :
    (s.discardLine p k).mem = s.mem := rfl

@[simp] theorem State.makeHandle_mem (s : State) (b : List Byte) : (s.makeHandle b).2.mem = s.mem := by
  simp only [State.makeHandle]
  repeat' split
  all_goals simp

@[simp] theorem State.purgeHandles_mem (s : State) : (s.purgeHandles).mem = s.mem := rfl

@[simp] theorem State.modBarDev_mem (s : State) (obj : Nat) (f : BarDev → BarDev) :
    (s.modBarDev obj f).mem = s.mem := rfl

@[simp] theorem State.sysReply_mem (s : State) (o : SysOp) (w : Nat) : (s.sysReply o w).mem = s.mem := rfl

@[simp] theorem State.mapUnretired_mem (s : State) (f : Unretired → Unretired) :
    (s.mapUnretired f).mem = s.mem := rfl

@[simp] theorem State.endBarWait_mem (s : State) (phase : Bool) (gid idx obj dst st : Nat) :
    (s.endBarWait phase gid idx obj dst st).mem = s.mem := by
  simp only [State.endBarWait]
  repeat' split
  all_goals simp

@[simp] theorem State.wildWake_mem (s : State) (obj : Nat) : (s.wildWake obj).mem = s.mem := by
  simp only [State.wildWake]
  split
  · rfl
  · refine State.foldl_mem _ (fun t w => ?_) _ s
    split <;> simp

@[simp] theorem State.wakeBarrier_mem (s : State) (phase : Bool) (obj st : Nat) :
    (s.wakeBarrier phase obj st).mem = s.mem := by
  simp only [State.wakeBarrier]
  split
  · simp
  · exact State.foldl_mem _ (fun _ _ => State.endBarWait_mem ..) _ s

@[simp] theorem State.mapSaved_mem (s : State) (f : SavedGroup → SavedGroup) : (s.mapSaved f).mem = s.mem := by
  simp only [State.mapSaved]
  split <;> simp

@[simp] theorem State.groupFolded_mem (s : State) (who : Arriver) (gid obj : Nat) (ph more : Bool) :
    (s.groupFolded who gid obj ph more).mem = s.mem := by simp [State.groupFolded]

@[simp] theorem State.arrivalFolds_mem (s : State) (who : Arriver) (obj : Nat) (ph last more : Bool) :
    (s.arrivalFolds who obj ph last more).mem = s.mem := by
  simp only [State.arrivalFolds]
  split <;> simp

@[simp] theorem State.arrivalQueued_mem (s : State) (who : Arriver) (obj : Nat) :
    (s.arrivalQueued who obj).mem = s.mem := by
  simp only [State.arrivalQueued]
  split <;> simp

@[simp] theorem State.arrivalRefused_mem (s : State) (who : Arriver) (obj st : Nat) :
    (s.arrivalRefused who obj st).mem = s.mem := by
  simp only [State.arrivalRefused]
  split <;> simp

@[simp] theorem State.barName_mem (s : State) (lv : Nat) (lo pair : Nat) :
    (s.barName lv lo pair).2.mem = s.mem := by
  grind [State.barName, State.translate_mem]

@[simp] theorem State.barNamed_mem (s : State) (lv : Nat) (a : BitVec 6) : (s.barNamed lv a).2.mem = s.mem :=
  by simp [State.barNamed]

@[simp] theorem State.recordArrival_mem (s : State) (obj : Nat) : (s.recordArrival obj).mem = s.mem := by
  simp only [State.recordArrival]
  split <;> simp

@[simp] theorem State.reportGuard_mem (s : State) : (s.reportGuard).mem = s.mem := rfl

@[simp] theorem State.waitBar_mem (s : State) (obj dst : Nat) (queued : Bool) :
    (s.waitBar obj dst queued).mem = s.mem := rfl

@[simp] theorem State.alsoNeed_mem (s : State) (entry : Nat) : (s.alsoNeed entry).mem = s.mem := by
  simp only [State.alsoNeed]
  split <;> simp

@[simp] theorem State.wakePusher_mem (s : State) (g : Group) (port : Nat) :
    (s.wakePusher g port).mem = s.mem := by
  simp only [State.wakePusher]
  split
  · simp
  · split <;> simp

@[simp] theorem State.bindLink_mem (s : State) (gid hid port tag : Nat) (byPlink : Bool) :
    (s.bindLink gid hid port tag byPlink).mem = s.mem := rfl

@[simp] theorem State.packetFault_mem (s : State) (p : Packet) (kind code target : Nat) :
    (s.packetFault p kind code target).mem = s.mem := rfl

@[simp] theorem State.forget_mem (s : State) (p : Packet) : (s.forget p).mem = s.mem := rfl

@[simp] theorem State.settled_mem (s : State) (unit key : Nat) : (s.settled unit key).mem = s.mem := rfl

@[simp] theorem State.fetchFar_mem (s : State) (p : Packet) (key : Nat) : (s.fetchFar p key).2.mem = s.mem := by
  simp only [State.fetchFar]
  split <;> simp

@[simp] theorem State.rmwInDie_mem (s : State) (p : Packet) (key : Nat) : (s.rmwInDie p key).2.mem = s.mem := by
  simp only [State.rmwInDie]
  repeat' split
  all_goals simp

@[simp] theorem State.loadTrap_mem (s : State) (p : Packet) (sb code : Nat) :
    (s.loadTrap p sb code).mem = s.mem := by
  simp only [State.loadTrap]
  split
  · simp
  · split <;> simp

@[simp] theorem State.queueEvent_mem (s : State) (pkg core : Nat) (e : Event) :
    (s.queueEvent pkg core e).mem = s.mem := by simp [State.queueEvent]

@[simp] theorem State.nextLgen_mem (s : State) (pkg core : Nat) : (s.nextLgen pkg core).2.mem = s.mem :=
  by simp [State.nextLgen]

@[simp] theorem State.makeGroup_mem (s : State) (tr : Tree) (t : Tile) (crew num : Nat) :
    (s.makeGroup tr t crew num).mem = s.mem := rfl

@[simp] theorem State.makeGroups_mem (s : State) (tr : Tree) (t : Tile) : (s.makeGroups tr t).mem = s.mem := by
  simp only [State.makeGroups]
  split
  · simp
  · exact State.foldl_mem _ (fun _ _ => State.makeGroup_mem ..) _ s

@[simp] theorem State.startGroups_mem (s : State) (tid : Nat) : (s.startGroups tid).mem = s.mem := by
  simp only [State.startGroups]
  split <;> simp

@[simp] theorem State.modBatch_mem (s : State) (tid : Nat) (f : Batch → Batch) :
    (s.modBatch tid f).mem = s.mem := rfl

@[simp] theorem State.modKid_mem (s : State) (tid k : Nat) (f : Child → Child) :
    (s.modKid tid k f).mem = s.mem := rfl

@[simp] theorem State.homeAt_mem (s : State) (pkg ctx va need : Nat) :
    (s.homeAt pkg ctx va need).2.mem = s.mem := by
  grind [State.homeAt, State.translate_mem]

@[simp] theorem State.packetDone_mem (s : State) (pkg queue index : Nat) :
    (s.packetDone pkg queue index).mem = s.mem := rfl

@[simp] theorem State.readFor_mem (s : State) (g : Group) (va n : Nat) : (s.readFor g va n).2.mem = s.mem := by
  simp only [State.readFor]
  split <;> simp

@[simp] theorem State.portMap_mem (s : State) (g : Group) (tr : Tree) (depth n : Nat) :
    (s.portMap g tr depth n).2.mem = s.mem := by
  grind [State.portMap, State.readFor_mem]

@[simp] theorem State.takeReport_mem (s : State) (t : Tile) : (s.takeReport t).mem = s.mem :=
  by simp [State.takeReport]

@[simp] theorem State.takeReports_mem (s : State) (tid k n f : Nat) :
    (s.takeReports tid k n f).2.2.mem = s.mem := by
  induction k generalizing s n f with
  | zero => rfl
  | succ k ih => grind [State.takeReports, State.takeReport_mem]

@[simp] theorem State.ownStruct_mem (s : State) (g : Group) (t : Tile) (va n : Nat) :
    (s.ownStruct g t va n).2.mem = s.mem := by
  unfold State.ownStruct
  repeat' split
  all_goals simp

@[simp] theorem State.guardAt_mem (s : State) (cmd : Nat) (hit : Option GuardSpot) :
    (s.guardAt cmd hit).mem = s.mem := by
  simp only [State.guardAt]
  split <;> simp

@[simp] theorem Work.meet_mem (w : Work) (cmd : Nat) (f : Fold) (hit : Option GuardSpot) :
    (w.meet cmd f hit).s.mem = w.s.mem := by
  simp [Work.meet]

@[simp] theorem Work.took_mem (w : Work) (cmd : Nat) (g : Got) : (w.took cmd g).s.mem = w.s.mem := by
  simp [Work.took]

@[simp] theorem Work.settle_mem (w : Work) : w.settle.s.mem = w.s.mem := by
  refine Work.foldl_mem _ (fun w word => ?_) _ w
  simp only [apply_ite Work.s, apply_ite State.mem]
  repeat' split
  all_goals rfl

@[simp] theorem Work.tookAll_mem (w : Work) (cmd : Nat) (g : Gots) : (w.tookAll cmd g).s.mem = w.s.mem := by
  rw [Work.tookAll, Work.foldl_mem _ fun _ _ => Work.meet_mem ..]

@[simp] theorem State.kidHold_mem (s : State) (cmd : Nat) (r : CopyRec) (kid : Tile) :
    (s.kidHold cmd r kid).mem = s.mem := by
  simp only [State.kidHold]
  split <;> simp

@[simp] theorem State.coverKid_mem (s : State) (t : Tile) (k : Nat) (kid : Tile) :
    (s.coverKid t k kid).mem = s.mem := by
  refine State.foldl_mem _ (fun t c => ?_) _ s
  split
  · split <;> simp
  · rfl

@[simp] theorem State.partLanded_mem (s : State) (cmd tile k : Nat) (kid : Tile) (r : CopyRec) :
    (s.partLanded cmd tile k kid r).mem = s.mem := by
  simp only [State.partLanded, apply_ite State.mem]
  repeat' split
  all_goals simp

@[simp] theorem State.modExtent_mem (s : State) (pkg core head : Nat) (f : Extent → Extent) :
    (s.modExtent pkg core head f).mem = s.mem := rfl

@[simp] theorem State.coreStruct_mem (s : State) (off align n : Nat) :
    (s.coreStruct off align n).2.mem = s.mem := by
  simp only [State.coreStruct, apply_ite Prod.snd, apply_ite State.mem]
  repeat' split
  all_goals simp

@[simp] theorem State.cmdReply_mem (s : State) (c : Cmd) (w : Nat) : (s.cmdReply c w).mem = s.mem := by
  simp only [State.cmdReply]
  split <;> simp

@[simp] theorem State.arrivedFor_mem (s : State) (c : Cmd) : (s.arrivedFor c).mem = s.mem := rfl

@[simp] theorem State.dropExtent_mem (s : State) (e : Extent) : (s.dropExtent e).mem = s.mem := rfl

@[simp] theorem State.celPress_mem (s : State) (pkg core key : Nat) :
    (s.celPress pkg core key).mem = s.mem := by
  simp only [State.celPress]
  split <;> simp

@[simp] theorem State.modAg_mem (s : State) (ctx id : Nat) (f : AddrGroup → AddrGroup) :
    (s.modAg ctx id f).mem = s.mem := rfl

@[simp] theorem State.agClaim_mem (s : State) (pkg ctx : Nat) (members : List Nat) (tmo : Nat) :
    (s.agClaim pkg ctx members tmo).2.mem = s.mem := by
  simp only [State.agClaim, apply_ite Prod.snd, apply_ite State.mem]
  repeat' split
  all_goals simp

@[simp] theorem State.closeTuples_mem (s : State) (code : Nat) (p : Tuple → Bool) :
    (s.closeTuples code p).mem = s.mem := rfl

@[simp] theorem State.localKeys_mem (s : State) (g : Group) (va n need : Nat) :
    (s.localKeys g va n need).2.mem = s.mem := by
  grind [State.localKeys, State.translateSpan_mem]

@[simp] theorem acceptFabric_mem (s : State) (y : BitVec 1) (d : BitVec 6) (obj : Nat) (kind : CmdKind)
    (src dst : List (Nat × Nat)) : (acceptFabric s y d obj kind src dst).2.mem = s.mem := rfl

@[simp] theorem State.tupleDone_mem (s : State) (a : AddrGroup) (t : Tuple) :
    (s.tupleDone a t).mem = s.mem := by
  simp only [State.tupleDone]
  split <;> simp

@[simp] theorem State.contribute_mem (s : State) (c : Cmd) (a : AddrGroup) (b : List Byte) (seq : Nat) :
    (s.contribute c a b seq).mem = s.mem := by
  simp only [State.contribute]
  repeat' split
  all_goals simp

@[simp] theorem State.turnedAway_mem (s : State) (cmd code : Nat) : (s.turnedAway cmd code).mem = s.mem := rfl

@[simp] theorem State.joinColl_mem (s : State) (c : Cmd) (a : AddrGroup) : (s.joinColl c a).mem = s.mem := by
  simp only [State.joinColl, apply_ite State.mem]
  simp

@[simp] theorem State.collLoses_mem (s : State) (a : AddrGroup) (plane : Nat) (cs : List Cmd) :
    (s.collLoses a plane cs).2.mem = s.mem := by
  simp only [State.collLoses]
  repeat' split
  all_goals simp

@[simp] theorem State.refStruct_mem (s : State) (lv off : Nat) (bad : Bool) :
    (s.refStruct lv off bad).2.mem = s.mem := by
  unfold State.refStruct
  repeat' split
  all_goals simp

@[simp] theorem State.setWaiters_mem (s : State) (vat : Nat) (ws : List (Nat × Nat × Nat)) :
    (s.setWaiters vat ws).mem = s.mem := rfl

@[simp] theorem State.vatAcquire_mem (s : State) (g : Group) (vat : Nat) :
    (s.vatAcquire g vat).mem = s.mem := by
  simp only [State.vatAcquire]
  split <;> simp

@[simp] theorem State.modStream_mem (s : State) (id : Nat) (f : Stream → Stream) :
    (s.modStream id f).mem = s.mem := rfl

@[simp] theorem State.vatAnswer_mem (s : State) (vat : Nat) (w : Nat × Nat × Nat) (x : Nat) (slot : Bool) :
    (s.vatAnswer vat w x slot).mem = s.mem := by
  simp only [State.vatAnswer]
  split
  · simp
  · split <;> simp

@[simp] theorem State.dropStream_mem (s : State) (id : Nat) : (s.dropStream id).mem = s.mem := rfl

@[simp] theorem State.bindMap_mem (s : State) (tid : Nat) : (s.bindMap tid).mem = s.mem := by
  simp only [State.bindMap]
  split
  · rfl
  · refine State.foldl_mem _ (fun _ _ => State.foldl_mem _ (fun _ _ => ?_) _ _) _ s
    split
    · split <;> simp
    · rfl

@[simp] theorem State.gangBatch_mem (s : State) (tr : Tree) (t0 : Nat) : (s.gangBatch tr t0).mem = s.mem := by
  simp only [State.gangBatch]
  split <;> simp

@[simp] theorem State.releaseTiles_mem (s : State) (ts : List Tile) : (s.releaseTiles ts).mem = s.mem := rfl

@[simp] theorem State.handUp_mem (s : State) (t : Tile) (gone : List Group) :
    (s.handUp t gone).mem = s.mem := by
  simp only [State.handUp]
  split <;> simp

@[simp] theorem State.fetchWord_mem (s : State) (pc : Nat) : (s.fetchWord pc).2.mem = s.mem := by
  grind [State.fetchWord, State.translate_mem]

@[simp] theorem State.fetch_mem (s : State) : (s.fetch).2.mem = s.mem := by
  grind [State.fetch, State.fetchWord_mem]

@[simp] theorem State.issued_mem (s : State) : (s.issued).2.mem = s.mem := by
  grind [State.issued, State.fetch_mem]

@[simp] theorem State.stopWaiting_mem (s : State) (crew : Nat) : (s.stopWaiting crew).mem = s.mem := rfl

@[simp] theorem State.requestPreempt_mem (s : State) (pkg core num : Nat) :
    (s.requestPreempt pkg core num).mem = s.mem := by
  simp only [State.requestPreempt]
  split
  · simp
  · rw [State.foldl_mem]
    · simp
    · intro t id
      split
      · rfl
      · split <;> simp

@[simp] theorem State.resumeCrew_mem (s : State) (c : Crew) : (s.resumeCrew c).mem = s.mem := by
  simp only [State.resumeCrew]
  split <;> simp

@[simp] theorem State.haltReplies_mem (s : State) (crew : Nat) : (s.haltReplies crew).mem = s.mem :=
  State.foldl_mem _ (fun _ _ => State.sysReply_mem ..) _ s

theorem State.csrRead_mem {s : State} {n x : Nat} {t : State} (h : s.csrRead n = some (x, t)) :
    t.mem = s.mem := by
  simp only [State.csrRead] at h
  repeat' split at h
  all_goals grind

@[simp] theorem State.fillLane_mem (s : State) (gid base lane : Nat) :
    (s.fillLane gid base lane).mem = s.mem := by
  simp only [State.fillLane]
  split
  · simp
  · split <;> simp

@[simp] theorem State.messageKeys_mem (s : State) (g : Group) (va n : Nat) :
    (s.messageKeys g va n).2.mem = s.mem := by
  grind [State.messageKeys, State.translateSpan_mem]

@[simp] theorem State.moved_mem (s : State) (a b n : Nat) : (s.moved a b n).mem = s.mem := rfl

@[simp] theorem State.rewait_mem (s : State) (a b n : Nat) (v : SavedGroup) :
    (s.rewait a b n v).mem = s.mem := by
  refine State.foldl_mem _ (fun t p => ?_) _ s
  split
  · split
    · rfl
    · simp only [apply_ite State.mem]
      simp
  · rfl

@[simp] theorem State.packetAt_mem (s : State) (pkg q n : Nat) : (s.packetAt pkg q n).2.mem = s.mem := by
  grind [State.packetAt, State.readFor_mem]

@[simp] theorem State.readRecord_mem (s : State) (pkg ctx va : Nat) :
    (s.readRecord pkg ctx va).2.mem = s.mem := by
  grind [State.readRecord, State.readFor_mem]

@[simp] theorem State.reportOk_mem (s : State) (pkg ctx va n : Nat) :
    (s.reportOk pkg ctx va n).2.mem = s.mem := by
  simp only [State.reportOk]
  split
  · rfl
  · split
    · rfl
    · rw [State.foldl_mem_snd]
      simp

@[simp] theorem State.launchArgs_mem (s : State) (pkg ctx : Nat) (b : List Byte) (parts : Nat) :
    (s.launchArgs pkg ctx b parts).2.mem = s.mem := by
  grind [State.launchArgs, State.readRecord_mem, State.reportOk_mem]

@[simp] theorem State.noteHeads_mem (s : State) : (s.noteHeads).mem = s.mem := rfl

@[simp] theorem State.pktWord_mem (s : State) (pkg q va need : Nat) :
    (s.pktWord pkg q va need).2.mem = s.mem := by
  simp only [State.pktWord]
  split <;> simp

@[simp] theorem State.gangMembers_mem (s : State) (pkg ctx va : Nat) :
    (s.gangMembers pkg ctx va).2.mem = s.mem := by
  grind [State.gangMembers, State.readFor_mem]

@[simp] theorem State.modGang_mem (s : State) (id : Nat) (f : Gang → Gang) : (s.modGang id f).mem = s.mem := rfl

@[simp] theorem State.modPart_mem (s : State) (id n : Nat) (f : GangPart → GangPart) :
    (s.modPart id n f).mem = s.mem := rfl

@[simp] theorem State.releaseCore_mem (s : State) (pkg core : Nat) : (s.releaseCore pkg core).mem = s.mem := by
  simp only [State.releaseCore]
  split
  · simp
  · split <;> simp

@[simp] theorem State.releaseDies_mem (s : State) (pkg : Nat) : (s.releaseDies pkg).mem = s.mem := by
  simp only [State.releaseDies]
  split
  · rfl
  · exact State.foldl_mem _ (fun _ _ => State.releaseCore_mem ..) _ s

@[simp] theorem State.checkDie_mem (s : State) (pkg die : Nat) : (s.checkDie pkg die).mem = s.mem := by
  simp only [State.checkDie]
  split <;> simp

@[simp] theorem State.setFabricMode_mem (s : State) (ext : Bool) : (s.setFabricMode ext).mem = s.mem := by
  simp only [State.setFabricMode]
  split <;> simp

@[simp] theorem State.answer_mem (s : State) (pkg : Nat) (msg : List Byte) (status : Nat) (body : List Byte) :
    (s.answer pkg msg status body).mem = s.mem := rfl

@[simp] theorem State.shiftTimers_mem (s : State) (pkg d : Nat) : (s.shiftTimers pkg d).mem = s.mem := rfl

@[simp] theorem State.onSplit_mem (s : State) (gid idx : Nat) : (s.onSplit gid idx).mem = s.mem := by
  simp only [State.onSplit]
  split <;> simp

@[simp] theorem State.anyTurn_mem (s : State) : (s.anyTurn).2.mem = s.mem := by
  simp only [State.anyTurn]
  split <;> simp

end Sys2Proof.Machine
end

section
/-! SUPPORT. The operations that write memory keep it in its canonical form: its addresses rise, and no listed byte is the
one an unlisted address reads as. -/

namespace Sys2Proof.Machine

/-- The memory of the state an instruction's body comes to stands in its canonical form. -/
def Res.sound : Res → Prop
  | .done t => t.mem.wf = true
  | .jump t => t.mem.wf = true
  | .wait t _ => t.mem.wf = true
  | _ => True

def soundOutcome : Host.Outcome State Fault Refusal → Prop
  | .next t => t.mem.wf = true
  | _ => True

@[simp] theorem Res.sound_done (t : State) : (Res.done t).sound ↔ t.mem.wf = true := Iff.rfl

@[simp] theorem Res.sound_jump (t : State) : (Res.jump t).sound ↔ t.mem.wf = true := Iff.rfl

@[simp] theorem Res.sound_wait (t : State) (w : Wait) : (Res.wait t w).sound ↔ t.mem.wf = true := Iff.rfl

@[simp] theorem Res.sound_trap (c a l : Nat) : (Res.trap c a l).sound := trivial

@[simp] theorem Res.sound_hold : Res.hold.sound := trivial

@[simp] theorem Res.sound_fence : Res.fence.sound := trivial

@[simp] theorem soundOutcome_next (t : State) : soundOutcome (.next t) ↔ t.mem.wf = true := Iff.rfl

@[simp] theorem soundOutcome_fault (f : Fault) : soundOutcome (.fault f) := trivial

theorem State.foldl_wf {α : Type} (f : State → α → State) (h : ∀ s a, s.mem.wf = true → (f s a).mem.wf = true) (l : List α) {s : State}
    (hs : s.mem.wf = true) : (l.foldl f s).mem.wf = true :=
  List.foldlRecOn l f hs fun s hs a _ => h s a hs

theorem Work.foldl_wf {α : Type} (f : Work → α → Work) (h : ∀ w a, w.s.mem.wf = true → (f w a).s.mem.wf = true) (l : List α) {w : Work}
    (hw : w.s.mem.wf = true) : (l.foldl f w).s.mem.wf = true :=
  List.foldlRecOn l f hw fun w hw a _ => h w a hw

theorem State.wf_ite {c : Prop} [Decidable c] {s t : State} (hs : s.mem.wf = true) (ht : t.mem.wf = true) :
    (if c then s else t).mem.wf = true := by
  split <;> assumption

theorem Res.sound_ite {c : Prop} [Decidable c] {a b : Res} (ha : a.sound) (hb : b.sound) :
    (if c then a else b).sound := by
  split <;> assumption

theorem State.foldl_wf_snd {α β : Type} (f : β × State → α → β × State) (h : ∀ a x, a.2.mem.wf = true → (f a x).2.mem.wf = true)
    (l : List α) {a : β × State} (ha : a.2.mem.wf = true) : (l.foldl f a).2.mem.wf = true :=
  List.foldlRecOn (motive := fun a : β × State => a.2.mem.wf = true) l f ha fun a ha x _ => h a x ha

theorem Work.foldl_wf_snd {α β : Type} (f : β × Work → α → β × Work) (h : ∀ a x, a.2.s.mem.wf = true → (f a x).2.s.mem.wf = true)
    (l : List α) {a : β × Work} (ha : a.2.s.mem.wf = true) : (l.foldl f a).2.s.mem.wf = true :=
  List.foldlRecOn (motive := fun a : β × Work => a.2.s.mem.wf = true) l f ha fun a ha x _ => h a x ha

theorem finish_wf {len stall : Nat} {s : State} {r : Res} (h : s.mem.wf = true) (hr : r.sound) :
    (finish len stall s r).mem.wf = true := by
  cases r with
  | done t => simpa [finish] using hr
  | jump t => simpa [finish] using hr
  | wait t w => simpa [finish] using hr
  | trap c a l => simpa [finish] using h
  | hold => exact h
  | fence => exact h

theorem Res.shadowed_sound {r : Res} (off : List Nat) (u : Uses) (lat : Nat) (h : r.sound) :
    (r.shadowed off u lat).sound := by
  cases r with
  | done t => exact h
  | wait t w => exact h
  | _ => exact h

theorem issueRes_sound {i : Instr} {legal : Bool} {s : State} {body : State → Res} (h : (body s).sound) :
    (issueRes i legal s body).sound := by
  iterate 5 refine Res.sound_ite trivial ?_
  exact Res.shadowed_sound _ _ _ h

theorem issue_sound {i : Instr} {legal : Bool} {s : State} {body : State → Res} (h : s.mem.wf = true)
    (hb : ∀ t : State, t.mem.wf = true → (body t).sound) : soundOutcome (issue i legal s body) := by
  simp only [issue]
  split
  · trivial
  · exact finish_wf (by simpa) (issueRes_sound (hb _ (by simpa)))

theorem issueG_sound {i : Instr} {legal : Bool} {s : State} {body : Group → Group} (h : s.mem.wf = true) :
    soundOutcome (issueG i legal s body) :=
  issue_sound h fun _ ht => ht

theorem loadLanes_sound {f : State → Nat → LoadRes × State} (hf : ∀ s l, s.mem.wf = true → (f s l).2.mem.wf = true) (ls : List Nat)
    {s : State} (h : s.mem.wf = true) :
    (∀ r, loadLanes f ls s = .inl r → r.sound) ∧ ∀ t rs, loadLanes f ls s = .inr (t, rs) → t.mem.wf = true := by
  induction ls generalizing s with
  | nil => exact ⟨by simp [loadLanes], by simp [loadLanes, h]⟩
  | cons l t ih =>
    have hl := hf s l h
    simp only [loadLanes]
    split <;> grind [Res.sound_trap, Res.sound_hold]

theorem State.wf_postLoads {s : State} {rs : List (Nat × LoadRes)} {et d : Nat} {acq : Bool}
    (h : s.mem.wf = true) : (s.postLoads rs et d acq).mem.wf = true := by
  simpa using h

/-- The state that an answer comes with, where a match has named it. -/
theorem State.wf_snd {α : Type} {p : α × State} {a : α} {t : State} (e : p = (a, t)) (h : p.2.mem.wf = true) :
    t.mem.wf = true := by
  subst e
  exact h

@[simp] theorem State.wf_wild {s : State} {k : Nat} (h : s.mem.wf = true) : (s.wild k).mem.wf = true := by
  simp only [State.wild]
  repeat' split
  all_goals simp [h, State.wf_spoil]

@[simp] theorem State.wf_groupStore {s : State} {gid seq k : Nat} {b : Byte} (h : s.mem.wf = true) :
    (s.groupStore gid seq k b).mem.wf = true := by
  grind [State.groupStore, State.draw_mem, State.wf_setByte, State.wf_wild]

@[simp] theorem State.wf_engineStore {s : State} {cmd k : Nat} {b : Byte} (h : s.mem.wf = true) :
    (s.engineStore cmd k b).mem.wf = true := by
  grind [State.engineStore, State.wf_setByte, State.engineCaches_mem, State.wf_wild]

@[simp] theorem State.wf_storeHome {s : State} {gid seq key : Nat} {bs : List Byte} (h : s.mem.wf = true) :
    (s.storeHome gid seq key bs).1.mem.wf = true := by
  simp only [State.storeHome]
  exact State.foldl_wf _ (fun _ _ h => State.wf_groupStore h) _ h

@[simp] theorem State.wf_storeHere {s : State} {e : StoreEntry} {ls : LaneStore} {key : Nat}
    (h : s.mem.wf = true) : (s.storeHere e ls key).mem.wf = true := by
  simp only [State.storeHere]
  repeat' split
  all_goals simp [h]

theorem State.wf_storeNear {s : State} {e : StoreEntry} {ls : LaneStore} {key : Nat} (h : s.mem.wf = true)
    {t : State} (ht : s.storeNear e ls key = some t) : t.mem.wf = true := by
  simp only [State.storeNear, Option.ite_none_left_eq_some, ← apply_ite some, Option.some.injEq] at ht
  obtain ⟨-, rfl⟩ := ht
  have hp : ∀ b : Bool, (if b then s.pick 3 else (0, s)).2.mem.wf = true := fun b => by cases b <;> exact h
  refine State.wf_ite (State.wf_storeHere (hp _)) ?_
  rw [State.foldl_mem _ fun _ _ => State.send_mem ..]
  exact hp _

theorem State.wf_performStore {s : State} {e : StoreEntry} {ls : LaneStore} (h : s.mem.wf = true) {t : State}
    (ht : s.performStore e ls = some t) : t.mem.wf = true := by
  grind [State.performStore, State.translate_mem, State.storeAway_mem, State.imprecise1_mem, State.wf_storeNear]

@[simp] theorem typed_sound {i : Instr} {s : State} {d : BitVec 6} {xs : List (BitVec 6)} {exact : Bool}
    {f : Group → Nat → Int} (h : s.mem.wf = true) : soundOutcome (typed i s d xs exact f) := by
  grind [typed, issueG_sound]

@[simp] theorem untyped_sound {i : Instr} {s : State} {d : BitVec 6} {f : Group → Nat → Word}
    (h : s.mem.wf = true) : soundOutcome (untyped i s d f) := by
  grind [untyped, issueG_sound]

@[simp] theorem branch_sound {s : State} {g : Group} {sets : List (Nat × Nat)} (h : s.mem.wf = true) :
    (branch s g sets).sound := by
  simp only [branch]
  split <;> simp [h]

@[simp] theorem windowCheck_sound {s : State} {ls : List Nat} {r : Res} (h : r.sound) :
    (windowCheck s ls r).sound := by
  cases r with
  | jump t =>
    simp only [windowCheck]
    split
    · trivial
    · split <;> exact h
  | _ => exact h

@[simp] theorem State.wf_celFreeStart {s : State} {e : Extent} {gid crew : Nat} {reply : Option Nat}
    {evict : Bool} (h : s.mem.wf = true) : (s.celFreeStart e gid crew reply evict).mem.wf = true := by
  simp only [State.celFreeStart]
  split <;> simp [h, State.wf_setNum]

@[simp] theorem State.wf_freeExtents {s : State} {crew : Nat} (h : s.mem.wf = true) :
    (s.freeExtents crew).mem.wf = true := by
  refine State.foldl_wf _ (fun t e h => ?_) _ h
  split
  · exact h
  · exact State.wf_celFreeStart h

@[simp] theorem State.wf_groupExit {s : State} {gid : Nat} (h : s.mem.wf = true) :
    (s.groupExit gid).mem.wf = true := by
  simp only [State.groupExit]
  repeat' split
  all_goals simp [h]

@[simp] theorem floatRound_sound {i : Instr} {s : State} {d : BitVec 6} {xs : List (BitVec 6)}
    {val : Group → FFmt → RM → Nat → XR} (h : s.mem.wf = true) : soundOutcome (floatRound i s d xs val) := by
  grind [floatRound, issueG_sound]

@[simp] theorem floatPick_sound {i : Instr} {s : State} {d a b : BitVec 6} {val : XR → XR → XR}
    (h : s.mem.wf = true) : soundOutcome (floatPick i s d a b val) := by
  grind [floatPick, issueG_sound]

@[simp] theorem floatSign_sound {i : Instr} {s : State} {d a : BitVec 6} {f : Nat → Nat → Nat}
    (h : s.mem.wf = true) : soundOutcome (floatSign i s d a f) := by
  grind [floatSign, issueG_sound]

@[simp] theorem floatRooted_sound {i : Instr} {s : State} {d a : BitVec 6} {fn : Nat} (h : s.mem.wf = true) :
    soundOutcome (floatRooted i s d a fn) := by
  grind [floatRooted, issueG_sound]

@[simp] theorem floatBounded_sound {i : Instr} {s : State} {d a : BitVec 6} {fn : Nat} (h : s.mem.wf = true) :
    soundOutcome (floatBounded i s d a fn) := by
  grind [floatBounded, issueG_sound]

@[simp] theorem packed_sound {i : Instr} {s : State} {d : BitVec 6} {val : Group → FFmt → RM → Nat → Nat → XR}
    (h : s.mem.wf = true) : soundOutcome (packed i s d val) := by
  grind [packed, issueG_sound]

@[simp] theorem loadOp_sound {i : Instr} {s : State} {d a : BitVec 6} {off : Int} (h : s.mem.wf = true) :
    soundOutcome (loadOp i s d a off) := by
  refine issue_sound h fun t ht => ?_
  simp only []
  split
  · trivial
  · split
    · trivial
    · split
      · next e => exact (loadLanes_sound (fun _ _ hs => by simpa using hs) _ ht).1 _ e
      · next e => simpa using (loadLanes_sound (fun _ _ hs => by simpa using hs) _ ht).2 _ _ e

@[simp] theorem enqueue_sound {s : State} {red : Option Nat} {et ord sc : Nat} {ls : List LaneStore}
    (h : s.mem.wf = true) : (enqueue s red et ord sc ls).sound := by
  simp only [enqueue]
  repeat' split
  all_goals simp [h]

@[simp] theorem enqueueLanes_sound {s : State} {red : Option Nat} {et ord sc : Nat} {ls : List LaneStore}
    (h : s.mem.wf = true) : (enqueueLanes s red et ord sc ls).sound := by
  simp only [enqueueLanes]
  split <;> simp [h]

@[simp] theorem storeOp_sound {i : Instr} {s : State} {d a : BitVec 6} {off : Int} (h : s.mem.wf = true) :
    soundOutcome (storeOp i s d a off) := by
  refine issue_sound h fun t ht => ?_
  simp only []
  split
  · trivial
  · exact enqueueLanes_sound ht

@[simp] theorem State.wf_rmwDo {s : State} {g : Group} {seq : Nat} {kind : AccKind} {data : List Byte}
    {pkg core sc key n : Nat} (h : s.mem.wf = true) :
    (s.rmwDo g seq kind data pkg core sc key n).2.mem.wf = true := by
  simp only [State.rmwDo]
  split <;> simp [h]

@[simp] theorem State.wf_rmwHere {s : State} {a : Access} {kind : AccKind} {data : List Byte} {key : Nat}
    (h : s.mem.wf = true) : (s.rmwHere a kind data key).2.mem.wf = true := by
  simp only [State.rmwHere]
  repeat' split
  all_goals simp [h]

@[simp] theorem State.wf_rmw1 {s : State} {a : Access} {kind : AccKind} {data : List Byte}
    (h : s.mem.wf = true) : (s.rmw1 a kind data).2.mem.wf = true := by
  grind [State.rmw1, State.translate_mem, State.wf_rmwHere, State.recordGuard_mem, State.send_mem]

@[simp] theorem atomicOp_sound {i : Instr} {legal : Bool} {s : State} {d a b : BitVec 6}
    {kind : Group → Nat → AccKind} (h : s.mem.wf = true) : soundOutcome (atomicOp i legal s d a b kind) := by
  refine issue_sound h fun t ht => ?_
  simp only []
  split
  · trivial
  · split
    · trivial
    · split
      · next e => exact (loadLanes_sound (fun _ _ hs => State.wf_rmw1 hs) _ ht).1 _ e
      · next e => simpa using (loadLanes_sound (fun _ _ hs => State.wf_rmw1 hs) _ ht).2 _ _ e

@[simp] theorem throughHandle_sound {s : State} {a : BitVec 6} {body : Option (Handle × Layout × Seat) → Res}
    (hb : ∀ x, (body x).sound) : (throughHandle s a body).sound := by
  simp only [throughHandle]
  split
  · split
    · exact hb _
    · trivial
  · exact hb _

@[simp] theorem State.wf_setBarWord {s : State} {obj k x : Nat} (h : s.mem.wf = true) :
    (s.setBarWord obj k x).mem.wf = true := by
  simp [State.setBarWord, h, State.wf_setNum]

@[simp] theorem State.wf_barRun {s : State} {ctx n : Nat} {ts : List BarTask} (h : s.mem.wf = true) :
    (s.barRun ctx n ts).mem.wf = true := by
  induction n generalizing s ts with
  | zero => exact h
  | succ n ih =>
    match ts with
    | [] => exact h
    | .flip obj st :: rest =>
      simp only [State.barRun]
      exact ih (by simpa using State.wf_setBarWord (State.wf_setBarWord (State.wf_setBarWord h)))
    | .arrive obj f who :: rest =>
      simp only [State.barRun]
      repeat' split
      all_goals exact ih (by simp [h])

@[simp] theorem State.wf_arrive {s : State} {ctx obj : Nat} {f : Fold} {who : Arriver} (h : s.mem.wf = true) :
    (s.arrive ctx obj f who).mem.wf = true := State.wf_barRun h

@[simp] theorem barrierOp_sound {s : State} {lv : BitVec 3} {a : BitVec 6} {grp : State → Res}
    {body : State → Nat → Res} (h : s.mem.wf = true) (hg : (grp s).sound)
    (hb : ∀ t k, t.mem.wf = true → (body t k).sound) : (barrierOp s lv a grp body).sound := by
  simp only [barrierOp]
  split
  · exact hg
  · split
    · trivial
    · next e => exact hb _ _ (by rw [← congrArg (fun p => p.2.mem) e]; simpa using h)

@[simp] theorem State.wf_arriveHere {s : State} {obj : Nat} {f : Fold} {who : Arriver} (h : s.mem.wf = true) :
    (s.arriveHere obj f who).mem.wf = true := by
  simp [State.arriveHere, h]

@[simp] theorem arriveOp_sound {s : State} {i : BitVec 3} {a : BitVec 6} {f : Fold} (h : s.mem.wf = true) :
    (arriveOp s i a f).sound := by
  refine barrierOp_sound h h fun t obj ht => ?_
  split
  · trivial
  · exact State.wf_arriveHere ht

@[simp] theorem barOutcome_sound {s : State} (h : s.mem.wf = true) : (barOutcome s).sound := by
  simp only [barOutcome]
  split <;> simp [h]

@[simp] theorem pushOp_sound {s : State} {a : BitVec 6} {port : Nat} {rel : Bool} (h : s.mem.wf = true) :
    (pushOp s a port rel).sound := by
  simp only [pushOp]
  split
  · exact h
  · split
    · trivial
    · split
      · exact h
      · rw [Res.sound_done, State.foldl_mem]
        · split <;> exact h
        · intro t l
          split <;> rfl

@[simp] theorem popOp_sound {s : State} {d : BitVec 6} {port : Nat} {take : Bool} (h : s.mem.wf = true) :
    (popOp s d port take).sound := by
  simp only [popOp]
  repeat' split
  all_goals simp [h]

@[simp] theorem State.wf_drainHead {s : State} (h : s.mem.wf = true) : (s.drainHead).mem.wf = true := by
  grind [State.drainHead, State.acquire_mem, State.alsoNeed_mem, State.wf_performStore]

@[simp] theorem State.wf_packetHome {s : State} {p : Packet} (h : s.mem.wf = true) :
    (s.packetHome p).2.2.mem.wf = true := by
  grind [State.packetHome, State.settled_mem, State.translate_mem, State.fetchFar_mem, State.wf_storeHome,
    State.rmwInDie_mem, State.packetFault_mem, State.forget_mem]

@[simp] theorem State.wf_packetHere {s : State} {p : Packet} {key : Nat} (h : s.mem.wf = true) :
    (s.packetHere p key).2.2.mem.wf = true := by
  simp only [State.packetHere]
  repeat' split
  all_goals simp [h]

@[simp] theorem State.wf_landedOrNot {s : State} {p : Packet} (h : s.mem.wf = true) :
    (s.landedOrNot p).mem.wf = true := by
  grind [State.landedOrNot, State.translate_mem, State.wf_storeHome]

@[simp] theorem State.wf_packetLost {s : State} {p : Packet} (h : s.mem.wf = true) :
    (s.packetLost p).mem.wf = true := by
  simp [State.packetLost, h]

@[simp] theorem State.wf_errRecord {s : State} {pkg ctx : Nat} {rec : List Byte} (h : s.mem.wf = true) :
    (s.errRecord pkg ctx rec).mem.wf = true := by
  simp only [State.errRecord]
  repeat' split
  all_goals simp [h, State.wf_setNum, State.wf_setBytes]

@[simp] theorem xreply_sound {s : State} {y : BitVec 1} {d : BitVec 6} {w : Nat} (h : s.mem.wf = true) :
    (xreply s y d w).sound := by
  simp only [xreply]
  split <;> simp [h]

@[simp] theorem State.wf_clearTile {s : State} {ctx : Nat} {t : Tile} {barobj : Nat} (h : s.mem.wf = true) :
    (s.clearTile ctx t barobj).mem.wf = true := by
  simp only [State.clearTile]
  split
  · exact h
  · split
    · exact State.wf_setBytes _ _ (State.wf_spoil _ _ h)
    · split
      · rw [State.dropLines_mem]
        exact State.foldl_wf _ (fun _ _ h => State.wf_setByte _ _ h) _ h
      · exact h

theorem State.wf_admitTile {s : State} {tr : Tree} {depth idx reln pkg core : Nat} {parent : Option Tile}
    {vers : List (Nat × Nat × Bool)} (h : s.mem.wf = true) {k : Nat} {t : State}
    (e : s.admitTile tr depth idx reln pkg core parent vers = some (k, t)) : t.mem.wf = true := by
  simp only [State.admitTile] at e
  split at e
  · cases e
  · obtain ⟨seat, -, e⟩ := Option.bind_eq_some_iff.mp e
    split at e
    · obtain ⟨c, -, e⟩ := Option.bind_eq_some_iff.mp e
      split at e
      · cases e
      · obtain ⟨b, -, e⟩ := Option.map_eq_some_iff.mp e
        cases e
        rw [State.makeGroups_mem]
        refine State.wf_clearTile ?_
        dsimp only
        split <;> exact h
    · obtain ⟨b, -, e⟩ := Option.map_eq_some_iff.mp e
      cases e
      rw [State.makeGroups_mem]
      refine State.wf_clearTile ?_
      dsimp only
      split <;> simpa using h

@[simp] theorem State.wf_deviceStore {s : State} {pkg ctx va x : Nat} (h : s.mem.wf = true) :
    (s.deviceStore pkg ctx va x).mem.wf = true := by
  grind [State.deviceStore, State.homeAt_mem, State.wf_storeHome]

@[simp] theorem State.wf_gangPartDone {s : State} {gid part st reln : Nat} (h : s.mem.wf = true) :
    (s.gangPartDone gid part st reln).mem.wf = true := by
  simp only [State.gangPartDone]
  split
  · exact h
  · split
    · rw [State.packetDone_mem]
      split
      · exact h
      · exact State.foldl_wf _ (fun _ _ h => State.wf_deviceStore h) _ h
    · exact h

@[simp] theorem State.wf_gangChild {s : State} {t : Tile} {k st reln : Nat} (h : s.mem.wf = true) :
    (s.gangChild t k st reln).mem.wf = true := by
  simp only [State.gangChild]
  repeat' split
  all_goals simp [h]

@[simp] theorem State.wf_reportChild {s : State} {tid k st : Nat} (h : s.mem.wf = true) :
    (s.reportChild tid k st).mem.wf = true := by
  simp only [State.reportChild]
  repeat' split
  all_goals simp [h]

@[simp] theorem launchOp_sound {s : State} {y : BitVec 1} {d : BitVec 6} {w t0 : Nat} {fld hnd : Bool}
    {dep : Option (List Byte)} (h : s.mem.wf = true) : (launchOp s y d w t0 fld hnd dep).sound := by
  simp only [launchOp]
  repeat' split
  all_goals simp [h]

@[simp] theorem State.wf_cancelKids {s : State} {tid : Nat} (h : s.mem.wf = true) :
    (s.cancelKids tid).2.mem.wf = true := by
  simp only [State.cancelKids]
  split
  · exact h
  · exact State.foldl_wf _ (fun _ _ h => State.wf_reportChild h) _ h

@[simp] theorem Work.wf_byte {w : Work} {cmd k : Nat} {b : Byte} {bad : Bool} (h : w.s.mem.wf = true) :
    (w.byte cmd k b bad).s.mem.wf = true := by
  simp [Work.byte, h]

@[simp] theorem Work.wf_parts {w : Work} {cmd : Nat} {seat : Seat} {ps : List Part} {code : Nat} {bad : Bool}
    (h : w.s.mem.wf = true) : (w.parts cmd seat ps code bad).s.mem.wf = true := by
  refine Work.foldl_wf _ (fun w p h => ?_) _ (by simpa using h)
  split
  · exact h
  · exact Work.wf_byte h

@[simp] theorem Work.wf_write {w : Work} {cmd : Nat} {seat : Seat} {l : Layout} {v : Nat} {cs : List Int}
    {code : Nat} {bad : Bool} (h : w.s.mem.wf = true) : (w.write cmd seat l v cs code bad).s.mem.wf = true := by
  simp only [Work.write]
  split <;> simp [h]

@[simp] theorem Work.wf_writeSide {w : Work} {cmd : Nat} {side : Side} {vreg n : Nat} {cs : List Int}
    {code : Nat} {bad : Bool} (h : w.s.mem.wf = true) :
    (w.writeSide cmd side vreg n cs code bad).s.mem.wf = true := by
  simp only [Work.writeSide]
  repeat' split
  all_goals simp [h, State.wf_setNum]

@[simp] theorem Work.wf_direct {w : Work} {cmd ctx : Nat} {t : Tile} {off : Nat} {bs : List Byte} {bad : Bool}
    (h : w.s.mem.wf = true) : (w.direct cmd ctx t off bs bad).s.mem.wf = true := by
  refine Work.foldl_wf _ (fun w p h => ?_) _ (by simpa using h)
  split
  · exact Work.wf_byte h
  · exact h

@[simp] theorem Work.wf_partDown {w : Work} {cmd ctx : Nat} {t : Tile} {r : CopyRec} {parent child : Side}
    {tc : Nat → Nat} (h : w.s.mem.wf = true) : (w.partDown cmd ctx t r parent child tc).s.mem.wf = true := by
  simp only [Work.partDown]
  refine Work.foldl_wf _ (fun w p h => Work.wf_writeSide (by simpa using h)) _ ?_
  split
  · exact h
  · exact Work.foldl_wf_snd _ (fun a i ha => by simpa using ha) _ h

@[simp] theorem Work.wf_partUp {w : Work} {cmd : Nat} {r : CopyRec} {parent child : Side} {et : Nat}
    {tc : Nat → Nat} {seen : List (List Int)} (h : w.s.mem.wf = true) :
    (w.partUp cmd r parent child et tc seen).1.s.mem.wf = true := by
  refine List.foldlRecOn (motive := fun a : Work × List (List Int) => a.1.s.mem.wf = true) _ _ h fun a ha ne _ => ?_
  have ht := fun x => show (a.1.took cmd x).s.mem.wf = true by simpa using ha
  refine iteInduction (motive := fun p : Work × List (List Int) => p.1.s.mem.wf = true) (fun _ => Work.wf_writeSide (ht _)) fun _ =>
    Work.wf_writeSide ?_
  refine iteInduction (motive := fun w : Work => w.s.mem.wf = true) (fun _ => ?_) fun _ => ht _
  simpa using ha

@[simp] theorem copyAccept_sound {s : State} {y : BitVec 1} {d : BitVec 6} {t : Tile} {tr : Tree}
    {r : CopyRec} (h : s.mem.wf = true) : (copyAccept s y d t tr r).sound := by
  refine Res.sound_ite trivial (xreply_sound ?_)
  simp only [apply_ite State.mem, State.foldl_mem _ fun _ _ => State.kidHold_mem ..,
    State.foldl_mem _ fun _ _ => State.modKid_mem .., ite_self]
  exact h

@[simp] theorem copyOp_sound {i : Instr} {s : State} {y : BitVec 1} {d a : BitVec 6} {fn : Nat}
    (h : s.mem.wf = true) : soundOutcome (copyOp i s y d a fn) := by
  refine issue_sound h fun t ht => Res.sound_ite (xreply_sound ht) (Res.sound_ite trivial ?_)
  have hd : ∀ o : Option Tile, (match o with
      | some x => t.ownStruct t.g x (t.g.s2 a.toNat) 128
      | none => (none, t)).2.mem.wf = true := by
    intro o
    cases o <;> simpa using ht
  refine Res.sound_ite (xreply_sound (hd _)) ?_
  split
  · exact xreply_sound (hd _)
  · split
    · exact xreply_sound (hd _)
    · refine Res.sound_ite (xreply_sound (hd _)) ?_
      split
      · exact xreply_sound (hd _)
      · simp only []
        split
        · exact copyAccept_sound (hd _)
        · exact xreply_sound (hd _)

@[simp] theorem Work.wf_deliver {w : Work} {cmd : Nat} {t : Tile} {up : Level} {k : Nat} {kid : Tile}
    {r : CopyRec} (h : w.s.mem.wf = true) : (w.deliver cmd t up k kid r).s.mem.wf = true := by
  simp only [Work.deliver]
  split <;> simp [h]

@[simp] theorem Work.wf_downParts {c : Cmd} {t : Tile} {up : Level} {r : CopyRec} {ks : List Nat} {w : Work}
    {n : Nat} (h : w.s.mem.wf = true) : (Work.downParts c t up r ks w n).1.s.mem.wf = true := by
  induction ks generalizing w n with
  | nil => exact h
  | cons k ks ih =>
    simp only [Work.downParts]
    split
    · exact h
    · refine ih ?_
      split
      · exact h
      · simpa using Work.wf_deliver h

@[simp] theorem State.wf_copyWork {s : State} {c : Cmd} {t : Tile} {up : Level} {r : CopyRec} {next : Nat}
    {f : Fold} (h : s.mem.wf = true) : (s.copyWork c t up r next f).1.s.mem.wf = true := by
  simp only [State.copyWork]
  split
  · exact h
  · split
    · simpa using Work.wf_downParts (w := ⟨s, f, []⟩) h
    · rw [Work.settle_mem]
      refine List.foldlRecOn (motive := fun a : Work × List (List Int) => a.1.s.mem.wf = true) _ _ h fun a ha k _ => ?_
      split
      · exact ha
      · split
        · exact Work.wf_partUp ha
        · exact ha

@[simp] theorem coreCommand_sound {s : State} {y : BitVec 1} {d : BitVec 6} {off align n barAt : Nat}
    {body : State → Tile → List Byte → Nat → Res} (h : s.mem.wf = true)
    (hb : ∀ t x b k, t.mem.wf = true → (body t x b k).sound) :
    (coreCommand s y d off align n barAt body).sound := by
  simp only [coreCommand]
  have hc := s.coreStruct_mem off align n
  split
  · next e => exact xreply_sound (by rw [e] at hc; exact hc ▸ h)
  · next e =>
    rw [e] at hc
    split
    · exact xreply_sound (hc ▸ h)
    · exact hb _ _ _ _ (hc ▸ h)

@[simp] theorem acceptMatrix_sound {s : State} {y : BitVec 1} {d : BitVec 6} {obj : Nat} {kind : CmdKind}
    {src dst : List (Nat × Nat)} {hnds : List Nat} {regs : Option Nat} (h : s.mem.wf = true) :
    (acceptMatrix s y d obj kind src dst hnds regs).sound := by
  simp only [acceptMatrix]
  split <;> simp [h]

@[simp] theorem matOp_sound {s : State} {y : BitVec 1} {d a b : BitVec 6} {complex : Bool}
    (h : s.mem.wf = true) : (matOp s y d a b complex).sound := by
  refine Res.sound_ite trivial (coreCommand_sound h fun t x b k ht => ?_)
  simp only []
  split <;> exact acceptMatrix_sound ht

@[simp] theorem Work.wf_word {w : Work} {key : Nat} {x : Word} {bad : Bool} (h : w.s.mem.wf = true) :
    (w.word key x bad).s.mem.wf = true := by
  simp [Work.word, h, State.wf_setNum]

@[simp] theorem Work.wf_element {w : Work} {cmd : Nat} {e : Extent} {b : MatBlock} {sat wild : Bool}
    {i j : Nat} {a bb : MatLine} {out : Option (Seat × Layout × Nat)} (h : w.s.mem.wf = true) :
    (w.element cmd e b sat wild i j a bb out).s.mem.wf = true := by
  simp only [Work.element]
  split
  · refine Work.foldl_wf _ (fun _ _ h => Work.wf_word h) _ ?_
    refine iteInduction (motive := fun p : List Word × Work => p.2.s.mem.wf = true) (fun _ => h) fun _ => ?_
    refine Work.foldl_wf_snd _ (fun _ _ hp => ?_) _ ?_
    · exact hp
    · exact h
  · refine Work.wf_write (Work.foldl_wf _ (fun _ _ h => Work.wf_word h) _ ?_)
    refine iteInduction (motive := fun p : List Word × Work => p.2.s.mem.wf = true) (fun _ => h) fun _ => ?_
    refine Work.foldl_wf_snd _ (fun _ _ hp => ?_) _ ?_
    · exact hp
    · exact h

@[simp] theorem State.wf_matWork {s : State} {c : Cmd} {t : Tile} {b : MatBlock} {kb : Nat} {sat : Bool}
    {ah bh : Handle} {oh : Option Handle} {idx : List (Nat × Word)} {e : Extent} (h : s.mem.wf = true) :
    (s.matWork c t b kb sat ah bh oh idx e).s.mem.wf = true := by
  simp only [State.matWork]
  split
  · rw [Work.settle_mem]
    refine Work.foldl_wf _ (fun w ir h => Work.foldl_wf _ (fun w jb h => Work.wf_element h) _ h) _ ?_
    refine Work.foldl_wf _ (fun w l h => by simpa using h) _ ?_
    simpa using h
  · exact h

@[simp] theorem deltaOp_sound {s : State} {y : BitVec 1} {d a : BitVec 6} {query : Bool} (h : s.mem.wf = true) :
    (deltaOp s y d a query).sound := by
  refine Res.sound_ite trivial (coreCommand_sound h fun t x b k ht => ?_)
  simp only []
  split <;> exact acceptMatrix_sound ht

@[simp] theorem Work.wf_tokens {w : Work} {c : Cmd} {t : Tile} {b : DeltaBlock} {query : Bool} {dv dk : Nat}
    {ks : List Nat} {rows : List (List Word × Bool)} (h : w.s.mem.wf = true) :
    (w.tokens c t b query dv dk ks rows).1.s.mem.wf = true := by
  induction ks generalizing w rows with
  | nil => exact h
  | cons tok rest ih =>
    simp only [Work.tokens]
    refine ih (Work.foldl_wf _ (fun w ir h => ?_) _ ?_)
    · exact Work.wf_direct (by exact h)
    · split <;> simpa using h

@[simp] theorem State.wf_deltaWork {s : State} {c : Cmd} {t : Tile} {b : DeltaBlock} {query : Bool}
    {ck : Option Region} {e : Extent} (h : s.mem.wf = true) :
    (s.deltaWork c t b query ck e).s.mem.wf = true := by
  simp only [State.deltaWork]
  split
  · rw [Work.settle_mem]
    exact Work.wf_tokens h
  · rw [Work.settle_mem]
    refine Work.foldl_wf _ (fun w nx h => ?_) _ (Work.wf_tokens h)
    split
    · exact Work.wf_word h
    · exact Work.foldl_wf _ (fun w jb h => Work.wf_byte h) _ (Work.wf_word h)

@[simp] theorem moveOp_sound {s : State} {y : BitVec 1} {d a : BitVec 6} {fn : Nat} (h : s.mem.wf = true) :
    (moveOp s y d a fn).sound := by
  refine coreCommand_sound h fun t x b k ht => ?_
  simp only []
  split <;> exact acceptMatrix_sound ht

@[simp] theorem State.wf_moveWork {s : State} {c : Cmd} {t : Tile} {b : List Byte} {fn : Nat} {e : Extent}
    (h : s.mem.wf = true) : (s.moveWork c t b fn e).s.mem.wf = true := by
  simp only [State.moveWork, Work.settle_mem, apply_ite Work.s, apply_ite State.mem, State.modExtent_mem, ite_self]
  refine Work.foldl_wf _ (fun w j h => ?_) _ h
  split
  · exact Work.wf_word (by simpa using h)
  · exact Work.wf_direct h
  · exact Work.wf_word h

@[simp] theorem State.wf_celSpoil {s : State} {c : Cmd} (h : s.mem.wf = true) :
    (s.celSpoil c).mem.wf = true := by
  simp only [State.celSpoil]
  have hd : (c.dst.foldl (fun (s : State) sp => s.spoil sp.1 sp.2) s).mem.wf = true :=
    State.foldl_wf _ (fun _ _ h => State.wf_spoil _ _ h) _ h
  split
  · exact hd
  · split
    · exact hd
    · exact State.foldl_wf _ (fun _ _ h => State.wf_spoil _ _ h) _ hd

@[simp] theorem State.wf_engineWork {s : State} {c : Cmd} (h : s.mem.wf = true) :
    (s.engineWork c).s.mem.wf = true := by
  grind [State.engineWork, State.wf_moveWork, State.wf_deltaWork, State.wf_matWork]

@[simp] theorem State.wf_setMarked {s : State} {ks : List Nat} {bs : Marked} (h : s.mem.wf = true) :
    (s.setMarked ks bs).mem.wf = true := by
  rw [State.setMarked, Work.settle_mem]
  exact Work.foldl_wf _ (fun _ _ h => State.wf_setByte _ _ h) _ h

@[simp] theorem State.wf_celEnd {s : State} {c : Cmd} {e : Extent} {evict : Bool} (h : s.mem.wf = true) :
    (s.celEnd c e evict).2.mem.wf = true := by
  grind [State.celEnd, State.wf_setNum, State.wf_setMarked, State.dropExtent_mem]

@[simp] theorem State.wf_fillExtent {s : State} {e : Extent} {data : Marked} (h : s.mem.wf = true) :
    (s.fillExtent e data).mem.wf = true := by
  simp [State.fillExtent, h, State.wf_setBytes]

@[simp] theorem State.wf_celResident {s : State} {dir core shnd soff : Nat} (h : s.mem.wf = true) :
    (s.celResident dir core shnd soff).mem.wf = true := by
  grind [State.celResident, State.wf_setNum]

@[simp] theorem celgetOp_sound {s : State} {d : BitVec 6} {q : CelReq} (h : s.mem.wf = true) :
    (celgetOp s d q).sound := by
  simp only [celgetOp]
  split
  · split
    · exact xreply_sound (by simpa using h)
    · exact xreply_sound (State.wf_celResident (State.wf_fillExtent h))
  · split
    · exact xreply_sound h
    · split
      · split <;> exact xreply_sound h
      · exact xreply_sound h
  · split
    · exact xreply_sound h
    · split
      · exact xreply_sound (by simpa using h)
      · exact xreply_sound (State.wf_celResident (State.wf_fillExtent h))
  · exact h

@[simp] theorem celfreeOp_sound {s : State} {y : BitVec 1} {d : BitVec 6} {e : Extent} {evict : Bool}
    (h : s.mem.wf = true) : (celfreeOp s y d e evict).sound := by
  simp only [celfreeOp, Res.sound_done]
  refine State.wf_celFreeStart ?_
  split <;> exact h

@[simp] theorem fabricOp_sound {s : State} {y : BitVec 1} {d a : BitVec 6} {reduce : Bool}
    (h : s.mem.wf = true) : (fabricOp s y d a reduce).sound := by
  refine Res.sound_ite trivial (Res.sound_ite (xreply_sound h) ?_)
  have hd : (if s.g.s2 a.toNat % 32 = 0 then s.fetchStruct s.g (s.g.s2 a.toNat) 32 else (none, s)).2.mem.wf = true := by
    split <;> simpa using h
  split
  · next e => exact xreply_sound (State.wf_snd e hd)
  · next e =>
    have hu := State.wf_snd e hd
    refine Res.sound_ite (xreply_sound hu) ?_
    simp only []
    split
    · next e => exact xreply_sound (State.wf_snd e (by simpa using hu))
    · next e =>
      have hv := State.wf_snd e (by simpa using hu)
      split
      · exact xreply_sound hv
      · refine Res.sound_ite ?_ ?_ <;> rw [Res.sound_done, acceptFabric_mem]
        · split <;> simpa using hv
        · exact hv

@[simp] theorem State.wf_collSpoil {s : State} {c : Cmd} (h : s.mem.wf = true) :
    (s.collSpoil c).mem.wf = true := State.foldl_wf _ (fun _ _ h => State.wf_spoil _ _ h) _ h

@[simp] theorem State.wf_collFail {s : State} {cs : List Cmd} {code : Nat} (h : s.mem.wf = true) :
    (s.collFail cs code).mem.wf = true := State.foldl_wf _ (fun _ _ h => State.wf_collSpoil h) _ h

@[simp] theorem State.wf_fabricWrite {s : State} {c : Cmd} {l : List (Nat × Byte × Bool)}
    (h : s.mem.wf = true) : (s.fabricWrite c l).1.mem.wf = true := by
  simp only [State.fabricWrite, Work.settle_mem]
  exact Work.foldl_wf _ (fun _ _ h => Work.wf_byte h) _ h

@[simp] theorem State.wf_collRun {s : State} {a : AddrGroup} {cs : List Cmd} (h : s.mem.wf = true) :
    (s.collRun a cs).mem.wf = true := by
  simp only [State.collRun]
  split
  · exact h
  · refine State.wf_ite (State.wf_collFail h) (State.wf_ite (State.wf_collFail h) (State.wf_ite (State.wf_collFail h) ?_))
    refine State.foldl_wf _ (fun t rc h => ?_) _ h
    cases rc.2.kind with
    | coll bs alg seq src dst out flags =>
      simp only [State.modCmd_mem]
      exact State.wf_ite (State.wf_collSpoil (State.wf_fabricWrite h)) (State.wf_fabricWrite h)
    | _ => exact h

@[simp] theorem State.wf_fabricEnd {s : State} {c : Cmd} {code flags : Nat} (h : s.mem.wf = true) :
    (s.fabricEnd c code flags).mem.wf = true := by
  simp only [State.fabricEnd]
  repeat' split
  all_goals simp [h]

@[simp] theorem State.wf_multicast {s : State} {c : Cmd} {b : List Byte} {keys : List Nat} {member : Nat}
    (h : s.mem.wf = true) : (s.multicast c b keys member).2.2.mem.wf = true := by
  grind [State.multicast, State.translateSpan_mem, State.wf_fabricWrite]

@[simp] theorem State.wf_endsAbsent {s : State} {pkg : Nat} (h : s.mem.wf = true) :
    (s.endsAbsent pkg).mem.wf = true := by
  simp only [State.endsAbsent]
  refine State.wf_collFail ?_
  rw [State.closeTuples_mem]
  refine State.foldl_wf _ (fun t r h => by simpa using h) _ ?_
  exact State.foldl_wf _ (fun t p h => State.wf_packetLost h) _ h

@[simp] theorem State.wf_becomesAbsent {s : State} {pkg : Nat} (h : s.mem.wf = true) :
    (s.becomesAbsent pkg).mem.wf = true := by
  simp [State.becomesAbsent, h]

@[simp] theorem State.wf_pathFails {s : State} {plane : Nat} {p : AddrGroup → Bool} (h : s.mem.wf = true) :
    (s.pathFails plane p).mem.wf = true := by
  refine State.foldl_wf _ (fun t a h => ?_) _ (by simpa using h)
  refine State.foldl_wf _ (fun t seq h => ?_) _ h
  simp only []
  split
  · exact State.wf_collFail (by simpa using h)
  · simpa using h

@[simp] theorem State.wf_setVatField {s : State} {vat off len x : Nat} (h : s.mem.wf = true) :
    (s.setVatField vat off len x).mem.wf = true := by
  simp [State.setVatField, h, State.wf_setNum]

@[simp] theorem vatOp_sound {s : State} {y : BitVec 1} {d : BitVec 6} {ref : Nat} {bad : Bool}
    {body : State → Tile → Nat → Res} (h : s.mem.wf = true)
    (hb : ∀ t x k, t.mem.wf = true → (body t x k).sound) : (vatOp s y d ref bad body).sound := by
  refine Res.sound_ite trivial ?_
  have hr : (s.refStruct (refLevel ref) (refOffset ref) bad).2.mem.wf = true := by simpa using h
  split
  · next e => exact xreply_sound (State.wf_snd e hr)
  · next e => exact hb _ _ _ (State.wf_snd e hr)

@[simp] theorem State.wf_vatInit {s : State} {vat ctl slotb data : Nat} (h : s.mem.wf = true) :
    (s.vatInit vat ctl slotb data).mem.wf = true := by
  simp [State.vatInit, h, State.wf_setBytes]

@[simp] theorem State.wf_vatHand {s : State} {vat : Nat} (h : s.mem.wf = true) :
    (s.vatHand vat).2.mem.wf = true := by
  simp [State.vatHand, h]

@[simp] theorem State.wf_vatPass {s : State} {vat k : Nat} (h : s.mem.wf = true) :
    (s.vatPass vat k).mem.wf = true := by
  induction k generalizing s with
  | zero => exact h
  | succ k ih =>
    simp only [State.vatPass]
    split
    · exact ih (State.wf_setVatField (State.wf_setVatField (State.wf_setVatField (State.wf_setVatField h))))
    · exact h

@[simp] theorem streamOp_sound {s : State} {y : BitVec 1} {d a b : BitVec 6} {drain : Bool}
    (h : s.mem.wf = true) : (streamOp s y d a b drain).sound := by
  refine Res.sound_ite trivial ?_
  split
  · next e => exact xreply_sound (State.wf_snd e (by simpa using h))
  · next e =>
    have hu := State.wf_snd e (by simpa using h)
    simp only []
    split
    · refine Res.sound_ite trivial (xreply_sound (State.wf_setVatField ?_))
      simpa using hu
    · exact xreply_sound (by simpa using hu)

@[simp] theorem State.wf_vatAnswerAll {s : State} {vat x : Nat} (h : s.mem.wf = true) :
    (s.vatAnswerAll vat x).mem.wf = true := by
  simp only [State.vatAnswerAll, State.foldl_mem _ fun _ _ => State.vatAnswer_mem ..]
  exact State.wf_setVatField (by simpa using h)

@[simp] theorem State.wf_vatFinish {s : State} {vat : Nat} (h : s.mem.wf = true) :
    (s.vatFinish vat).mem.wf = true := by
  grind [State.vatFinish, State.wf_setVatField, State.setWaiters_mem, State.wf_vatHand, State.vatAnswer_mem]

@[simp] theorem State.wf_slotWork {s : State} {x : Stream} {h : Handle} {seat win : Seat}
    (hs : s.mem.wf = true) : (s.slotWork x h seat win).1.mem.wf = true := by
  have hspoil : ∀ {α β : Type} (l : List α) (g : α → List β) (key : State → β → Option Nat) {u : State}, u.mem.wf = true →
      (l.foldl (fun (v : State) it => (g it).foldl (fun (v : State) p => match key v p with
        | some k => v.spoil k 1
        | none => v) v) u).mem.wf = true := by
    intro α β l g key u hu
    refine State.foldl_wf _ (fun _ _ hv => State.foldl_wf _ (fun v p hv => ?_) _ hv) _ hu
    split
    · exact State.wf_spoil _ _ hv
    · exact hv
  have h0 : (if x.drain then s else match win with
      | .window home _ _ => s.spoil (home + s.vatSlotAt x.vat (s.vatField x.vat 0x0C 1)) (s.vatSlotBytes x.vat)
      | .region _ _ => s).mem.wf = true := by
    refine State.wf_ite hs ?_
    cases win
    · exact hs
    · exact State.wf_spoil _ _ hs
  unfold State.slotWork
  refine iteInduction (motive := fun r : State × Fold × Option Nat => r.1.mem.wf = true) (fun _ => hspoil _ _ _ h0) fun _ =>
    iteInduction (motive := fun r : State × Fold × Option Nat => r.1.mem.wf = true) (fun _ => hspoil _ _ _ h0) fun _ => ?_
  rw [Work.settle_mem]
  refine Work.foldl_wf _ (fun w it hw => ?_) _ h0
  refine iteInduction (motive := fun w : Work => w.s.mem.wf = true) (fun _ => Work.wf_write ?_) fun _ => Work.wf_parts (by simpa using hw)
  refine State.wf_ite ?_ ?_ <;> simpa using hw

@[simp] theorem State.wf_streamTry {s : State} {x : Stream} (h : s.mem.wf = true) :
    (s.streamTry x).1.mem.wf = true := by
  simp only [State.streamTry]
  split
  · split
    · split
      · exact h
      · exact State.wf_slotWork h
    · exact h
  · exact h

@[simp] theorem State.wf_streamArrives {s : State} {x : Stream} {f : Fold} (h : s.mem.wf = true) :
    (s.streamArrives x f).mem.wf = true := by
  simp only [State.streamArrives]
  split <;> simp [h]

@[simp] theorem State.wf_streamEnd {s : State} {x : Stream} (h : s.mem.wf = true) :
    (s.streamEnd x).mem.wf = true := by
  grind [State.streamEnd, State.wf_setVatField, State.wf_streamArrives, State.dropStream_mem, State.wf_vatAnswerAll]

@[simp] theorem State.wf_streamFails {s : State} {x : Stream} {code : Nat} {f : Fold} (h : s.mem.wf = true) :
    (s.streamFails x code f).mem.wf = true := by
  unfold State.streamFails
  refine State.wf_ite (by simpa using h) ?_
  refine (State.wf_streamArrives (State.wf_vatAnswerAll ?_))
  refine State.wf_setVatField (State.wf_setVatField ?_)
  exact h

@[simp] theorem State.wf_replay {s : State} {t : Tile} {up : Level} {k : Nat} {kid : Tile} {rs : List CopyRec}
    (h : s.mem.wf = true) : (s.replay t up k kid rs).mem.wf = true := by
  refine Work.foldl_wf _ (fun w r h => ?_) _ h
  rw [Work.settle_mem]
  exact Work.wf_deliver h

theorem State.wf_startKidAt {s : State} {tr : Tree} {t : Tile} {c : Child} {again : Bool} {pc : Nat × Nat}
    (h : s.mem.wf = true) {u : State} (ht : s.startKidAt tr t c again pc = some u) : u.mem.wf = true := by
  obtain ⟨⟨tid, v⟩, hv, rfl⟩ := Option.map_eq_some_iff.mp ht
  have hw := State.wf_admitTile h hv
  have hr : ∀ b (o : Option Tile), (match b, o with
      | true, some kid => v.replay t (tr.level t.depth) c.idx kid c.copies
      | _, _ => v).mem.wf = true := by
    intro b o
    split
    · exact State.wf_replay hw
    · exact hw
  have hc : ∀ w : State, w.mem.wf = true → (((w.tile? tid).map fun kid => w.coverKid t c.idx kid).getD w).mem.wf = true := by
    intro w hw
    cases w.tile? tid <;> simpa using hw
  have hv := hc _ (hr again (v.tile? tid))
  exact State.wf_ite (by rwa [State.startGroups_mem]) hv

theorem State.wf_startKid {s : State} {tr : Tree} {t : Tile} {c : Child} {again : Bool} (h : s.mem.wf = true)
    {u : State} (ht : s.startKid tr t c again = some u) : u.mem.wf = true := by
  obtain ⟨pc, -, ht⟩ := Option.bind_eq_some_iff.mp ht
  exact State.wf_startKidAt h ht

theorem State.wf_startAll {s : State} {tr : Tree} {tid : Nat} {again : Bool} {cs : List Child}
    (h : s.mem.wf = true) {t : State} (ht : s.startAll tr tid again cs = some t) : t.mem.wf = true := by
  induction cs generalizing s with
  | nil => exact Option.some.inj ht ▸ h
  | cons c rest ih =>
    simp only [State.startAll] at ht
    split at ht
    · cases ht
    · obtain ⟨v, hv, ht⟩ := Option.bind_eq_some_iff.mp ht
      exact ih (State.wf_startKid h hv) ht

theorem State.wf_startRoot {s : State} {tr : Tree} {reln core : Nat} (h : s.mem.wf = true) {t : State}
    (ht : s.startRoot tr reln core = some t) : t.mem.wf = true := by
  simp only [State.startRoot, Option.ite_none_left_eq_some, Option.map_eq_some_iff] at ht
  obtain ⟨-, ⟨tid, v⟩, hv, rfl⟩ := ht
  simpa using State.wf_admitTile h hv

@[simp] theorem State.wf_rootReport {s : State} {tr : Tree} {st : Nat} (h : s.mem.wf = true) :
    (s.rootReport tr st).mem.wf = true := by
  simp only [State.rootReport]
  split
  · rw [State.packetDone_mem]
    exact State.wf_ite h (State.wf_deviceStore h)
  · split
    · exact h
    · split
      · exact State.foldl_wf _ (fun _ _ h => State.wf_gangPartDone h) _ h
      · exact State.wf_gangPartDone h

@[simp] theorem State.wf_tileReport {s : State} {t : Tile} {st : Nat} (h : s.mem.wf = true) :
    (s.tileReport t st).mem.wf = true := by
  simp only [State.tileReport]
  repeat' split
  all_goals simp [h]

@[simp] theorem State.wf_halfWritten {s after : State} {c : Cmd} (h : s.mem.wf = true) :
    (s.halfWritten after c).mem.wf = true := by
  refine State.foldl_wf _ (fun t k h => State.wf_ite h (State.wf_setByte _ _ h)) _ ?_
  exact State.wf_ite h h

@[simp] theorem State.wf_abandon {s : State} {c : Cmd} (h : s.mem.wf = true) : (s.abandon c).mem.wf = true := by
  simp only [State.abandon]
  repeat' split
  all_goals simp [h]

@[simp] theorem State.wf_dropWaiters {s : State} {gone : Nat → Bool} (h : s.mem.wf = true) :
    (s.dropWaiters gone).mem.wf = true := by
  refine State.foldl_wf _ (fun t v h => State.wf_ite h (State.wf_setVatField ?_)) _ h
  simpa using h

@[simp] theorem State.wf_afterKill1 {s0 : State} {tops : List Tile} {s : State} {t : Tile}
    (hs : s.mem.wf = true) : (State.afterKill1 s0 tops s t).mem.wf = true := by
  simp only [State.afterKill1]
  split
  · exact hs
  · split
    · exact State.wf_ite (by simpa using hs) (State.wf_rootReport hs)
    · refine State.wf_ite (by simpa using hs) (State.wf_ite ?_ (State.wf_reportChild hs))
      exact State.foldl_wf _ (fun t c h => State.wf_ite (State.wf_reportChild h) h) _ hs

@[simp] theorem State.wf_afterKill {s : State} {tops : List Tile} (h : s.mem.wf = true) :
    (s.afterKill tops).mem.wf = true := State.foldl_wf _ (fun _ _ h => State.wf_afterKill1 h) _ h

@[simp] theorem State.wf_killCrews {s : State} {crews : List Nat} (h : s.mem.wf = true) :
    (s.killCrews crews).mem.wf = true := by
  simp only [State.killCrews, State.purgeHandles_mem]
  refine State.wf_afterKill ?_
  rw [State.releaseTiles_mem, State.foldl_mem _ fun _ _ => State.sysReply_mem ..]
  simp only [State.dropGroups_mem, State.foldl_mem _ fun _ _ => State.modCore_mem ..]
  refine State.foldl_wf _ (fun _ _ h => State.wf_freeExtents h) _ (State.wf_dropWaiters ?_)
  exact State.foldl_wf _ (fun _ _ h => State.wf_abandon h) _ h

@[simp] theorem pendReply_sound {s : State} {d : BitVec 6} {k : SysKind} (h : s.mem.wf = true) :
    (pendReply s d k).sound := by
  simp [pendReply, h]

@[simp] theorem State.wf_retireEvent {s : State} {pkg core : Nat} (h : s.mem.wf = true) :
    (s.retireEvent pkg core).mem.wf = true := by
  simp only [State.retireEvent]
  repeat' split
  all_goals simp [h]

@[simp] theorem State.wf_setDsplit {s : State} {pkg die dmem : Nat} (h : s.mem.wf = true) :
    (s.setDsplit pkg die dmem).mem.wf = true := by
  simp [State.setDsplit, h, State.wf_spoil]

theorem State.wf_csrWrite {s : State} {n x : Nat} (h : s.mem.wf = true) {t : State}
    (ht : s.csrWrite n x = some t) : t.mem.wf = true := by
  have hp : ∀ (l : List Nat) (k : Nat → Nat), (l.foldl (fun t i => t.requestPreempt s.g.pkg s.g.core (k i)) s).mem.wf = true := fun l k => by
    rw [State.foldl_mem _ fun _ _ => State.requestPreempt_mem ..]
    exact h
  simp only [State.csrWrite] at ht
  split at ht
  · obtain rfl := Option.some.inj ht
    simpa using h
  · split at ht
    case _ => obtain rfl := Option.some.inj ht; simpa using h
    case _ => obtain rfl := Option.some.inj ht; simpa using h
    case _ => obtain rfl := Option.some.inj ht; exact hp _ _
    case _ => obtain rfl := Option.some.inj ht; exact hp _ _
    case _ =>
      obtain ⟨-, ht⟩ := Option.ite_none_left_eq_some.mp ht
      obtain rfl := Option.some.inj ht
      simpa using h
    case _ =>
      obtain ⟨-, ht⟩ := Option.ite_none_left_eq_some.mp ht
      obtain rfl := Option.some.inj ht
      exact State.wf_setDsplit h
    case _ => obtain rfl := Option.some.inj ht; simpa using h
    case _ => obtain rfl := Option.some.inj ht; simpa using h
    case _ => obtain rfl := Option.some.inj ht; simpa using h
    case _ => cases ht

@[simp] theorem csrReadOp_sound {s : State} {d : BitVec 6} {csr : Nat} (h : s.mem.wf = true) :
    (csrReadOp s d csr).sound := by
  simp only [csrReadOp]
  split
  · next e => exact xreply_sound (State.csrRead_mem e ▸ h)
  · trivial

@[simp] theorem csrWriteOp_sound {s : State} {a : BitVec 6} {csr : Nat} (h : s.mem.wf = true) :
    (csrWriteOp s a csr).sound := by
  simp only [csrWriteOp]
  split
  · next e => exact State.wf_csrWrite h e
  · trivial

@[simp] theorem State.wf_spillLane {s : State} {gid base lane : Nat} (h : s.mem.wf = true) :
    (s.spillLane gid base lane).mem.wf = true := by
  simp only [State.spillLane]
  split
  · exact h
  · refine State.wf_ite h ?_
    exact State.foldl_wf _ (fun _ _ h => State.wf_setNum _ _ _ h) _ h

@[simp] theorem State.wf_service {s : State} {gid split : Nat} {spill : Bool} (h : s.mem.wf = true) :
    (s.service gid split spill).mem.wf = true := by
  simp only [State.service]
  split
  · exact h
  · split
    · refine State.wf_ite h (State.wf_ite (State.wf_ite h (by simpa using h)) (State.wf_ite h ?_))
      rw [State.queueEvent_mem]
      exact State.foldl_wf _ (fun _ _ h => State.wf_ite (State.wf_spillLane h) (by simpa using h)) _ h
    · exact h

theorem State.wf_ctxPut {s : State} {c : Crew} {g : Group} {lane item x : Nat} (h : s.mem.wf = true)
    {t : State} (ht : s.ctxPut c g lane item x = some t) : t.mem.wf = true := by
  have hput : ∀ f, some (s.modGroup g.id f) = some t → t.mem.wf = true := by
    intro f e
    obtain rfl := Option.some.inj e
    exact h
  have hpc : ∀ (b : Bool) f, (if b then none else some (s.modGroup g.id f)) = some t → t.mem.wf = true := fun b f e =>
    hput f (Option.ite_none_left_eq_some.mp e).2
  unfold State.ctxPut at ht
  dsimp only at ht
  split at ht
  · obtain ⟨k, -, rfl⟩ := Option.map_eq_some_iff.mp ht
    cases k
    · exact h
    · exact State.wf_setNum _ _ _ h
  · split at ht
    · obtain ⟨k, -, rfl⟩ := Option.map_eq_some_iff.mp ht
      cases k
      · exact h
      · exact State.wf_setNum _ _ _ h
    · split at ht
      · exact hput _ ht
      · split at ht
        · exact hput _ ht
        · split at ht
          · split at ht
            · exact hpc _ _ ht
            · exact hpc _ _ ht
            · cases ht
          · split at ht
            · exact hput _ ht
            · exact hput _ (Option.ite_none_left_eq_some.mp ht).2
            · exact hput _ (Option.ite_none_left_eq_some.mp ht).2
            · exact hpc _ _ ht
            · exact hpc _ _ ht
            · cases ht

@[simp] theorem State.wf_carryBars {s : State} {a b n : Nat} (h : s.mem.wf = true) :
    (s.carryBars a b n).mem.wf = true :=
  State.foldl_wf _ (fun _ _ h => State.wf_setBytes _ _ (State.wf_setBytes _ _ h)) _ h

@[simp] theorem State.wf_carry {s : State} {a b n : Nat} (h : s.mem.wf = true) :
    (s.carry a b n).mem.wf = true := by
  simp [State.carry, h]

@[simp] theorem State.wf_carryOff {s : State} {t : Tile} (h : s.mem.wf = true) :
    (s.carryOff t).mem.wf = true := by
  simp only [State.carryOff, State.modTile_mem]
  exact State.foldl_wf _ (fun t x h => by simpa using State.wf_carry h) _ (State.wf_carry h)

@[simp] theorem State.wf_takeOff {s : State} {c : Crew} {t : Tile} (h : s.mem.wf = true) :
    (s.takeOff c t).mem.wf = true := by
  simp only [State.takeOff]
  split <;> simp [h]

@[simp] theorem State.wf_finishSave {s : State} {g : Group} {c : Crew} {va : Nat} (h : s.mem.wf = true) :
    (s.finishSave g c va).2.mem.wf = true := by
  simp only [State.finishSave]
  split
  · split
    · next e => simpa using State.wf_snd e (by simpa using h)
    · next e =>
      exact State.wf_takeOff (State.foldl_wf _ (fun _ _ h => State.wf_groupStore h) _ (State.wf_snd e (by simpa using h)))
  · simpa using h

@[simp] theorem State.wf_settle {s : State} {o : SysOp} (h : s.mem.wf = true) : (s.settle o).mem.wf = true := by
  simp only [State.settle]
  repeat' split
  all_goals simp [h]

@[simp] theorem State.wf_putItem {s : State} {sv : Saved} {c : Crew} {t : Tile} {gs : List Group}
    {it : Nat × List Byte} (h : s.mem.wf = true) : (s.putItem sv c t gs it).mem.wf = true := by
  simp only [State.putItem]
  split
  · exact State.wf_ite (State.wf_setBytes _ _ h) h
  · rw [State.foldl_mem]
    · exact h
    · intro t j
      split <;> simp
  · split
    · exact h
    · refine State.foldl_wf _ (fun t j h => ?_) _ h
      split
      · exact State.wf_ite h (State.wf_setVatField (by simpa using h))
      · exact h
  · split
    · split <;> exact h
    · exact h
  · simpa using h
  · exact h

@[simp] theorem State.wf_putBack {s : State} {sv : Saved} {t : Tile} {b : List Byte}
    {items : List (Nat × List Byte)} {core num slot : Nat} {blocks : List (Nat × Nat)} {home : Nat}
    (h : s.mem.wf = true) : (s.putBack sv t b items core num slot blocks home).mem.wf = true := by
  unfold State.putBack
  refine State.foldl_wf _ (fun _ _ h => by simpa using h) _ (State.foldl_wf _ (fun _ _ h => State.wf_putItem h) _ ?_)
  have hp : ∀ {c x} {u : State}, u.mem.wf = true →
      ((items.filter fun it => it.1 == 1).foldl (fun (v : State) it => v.putItem sv c x [] it) u).mem.wf = true :=
    fun hu => State.foldl_wf _ (fun _ _ h => State.wf_putItem h) _ hu
  refine State.wf_ite ?_ ?_
  · rw [State.moved_mem]
    refine State.foldl_wf_snd _ (fun _ _ hv => ?_) _ ?_
    · exact hv
    refine State.wf_ite (State.wf_carryBars (hp ?_)) (hp ?_) <;>
      exact State.wf_ite (State.wf_spoil _ _ (by simpa using h)) (by simpa using h)
  · refine State.foldl_wf_snd _ (fun _ _ hv => ?_) _ ?_
    · exact hv
    refine State.wf_ite (State.wf_carryBars (hp ?_)) (hp ?_) <;>
      exact State.wf_ite (State.wf_spoil _ _ (by simpa using h)) (by simpa using h)

@[simp] theorem rstrArea_sound {s : State} {d : BitVec 6} {num : Nat} {b : List Byte} (h : s.mem.wf = true) :
    (rstrArea s d num b).sound := by
  simp only [rstrArea]
  repeat' split
  all_goals simp [h]

@[simp] theorem State.wf_setQField {s : State} {pkg q off len x : Nat} (h : s.mem.wf = true) :
    (s.setQField pkg q off len x).mem.wf = true := by
  simp [State.setQField, h, State.wf_setNum]

@[simp] theorem State.wf_queueError {s : State} {pkg q err tag : Nat} (h : s.mem.wf = true) :
    (s.queueError pkg q err tag).mem.wf = true := by
  grind [State.queueError, State.wf_setQField]

@[simp] theorem State.wf_startPacket {s : State} {pkg q : Nat} {keep : List QPacket} (h : s.mem.wf = true) :
    (s.startPacket pkg q keep).mem.wf = true := by
  simp only [State.startPacket]
  split <;> simp [h]

@[simp] theorem State.wf_serve {s : State} {pkg q ty : Nat} {f : State → List Byte → State}
    (h : s.mem.wf = true) (hf : ∀ t b, t.mem.wf = true → (f t b).mem.wf = true) :
    (s.serve pkg q ty f).mem.wf = true := by
  refine State.wf_ite h ?_
  have hp : (s.packetAt pkg q (s.qRidx pkg q)).2.mem.wf = true := by simpa using h
  split
  · next e => exact State.wf_queueError (State.wf_snd e hp)
  · next e => exact State.wf_ite (State.wf_queueError (State.wf_snd e hp)) (State.wf_ite (hf _ _ (State.wf_snd e hp)) h)

theorem State.wf_launchRoot {s : State} {pkg q core : Nat} {b : List Byte} {r : LaunchRec}
    (h : s.mem.wf = true) {t : State} (ht : s.launchRoot pkg q core b r = some t) : t.mem.wf = true := by
  obtain ⟨v, hv, rfl⟩ := Option.map_eq_some_iff.mp ht
  refine State.wf_startPacket (State.wf_startRoot ?_ hv)
  exact h

@[simp] theorem State.wf_kick {s : State} {pkg q w : Nat} (h : s.mem.wf = true) :
    (s.kick pkg q w).mem.wf = true := by
  simp only [State.kick]
  repeat' split
  all_goals simp [h]

@[simp] theorem State.wf_kickReg {s : State} {pkg ctx slot w : Nat} (h : s.mem.wf = true) :
    (s.kickReg pkg ctx slot w).mem.wf = true := by
  unfold State.kickReg
  split
  · exact State.wf_kick h
  · exact h

@[simp] theorem State.wf_signalWrite {s : State} {pkg q : Nat} {b : List Byte} (h : s.mem.wf = true) :
    (s.signalWrite pkg q b).mem.wf = true := by
  grind [State.signalWrite, State.wf_storeHome, State.pktWord_mem]

@[simp] theorem State.wf_partFails {s : State} {g : Gang} {part : Nat} (h : s.mem.wf = true) :
    (s.partFails g part).mem.wf = true := by
  simp only [State.partFails]
  split
  · exact State.foldl_wf _ (fun _ _ h => State.wf_gangPartDone (by simpa using h)) _ h
  · split
    · exact State.wf_reportChild h
    · exact State.wf_gangPartDone h

@[simp] theorem State.wf_wipe {s : State} {pkg : Nat} (h : s.mem.wf = true) : (s.wipe pkg).mem.wf = true := by
  simp only [State.wipe, State.dropGroups_mem]
  exact Memory.wf_drop _ h

@[simp] theorem State.wf_firmwareWrites {s : State} {pkg : Nat} (h : s.mem.wf = true) :
    (s.firmwareWrites pkg).mem.wf = true := by
  simp [State.firmwareWrites, h, State.wf_setNum, State.wf_spoil]

@[simp] theorem State.wf_updateService {s : State} {pkg : Nat} (h : s.mem.wf = true) :
    (s.updateService pkg).mem.wf = true := by
  simp only [State.updateService]
  repeat' split
  all_goals simp [h]

@[simp] theorem scalar_sound {i : Instr} {s : State} {d : BitVec 6} {f : Group → Word} (h : s.mem.wf = true) :
    soundOutcome (scalar i s d f) := by
  grind [scalar, issueG_sound]

@[simp] theorem predOp_sound {i : Instr} {s : State} {d : BitVec 3} {f : Group → Nat → Bool}
    (h : s.mem.wf = true) : soundOutcome (predOp i s d f) := by
  grind [predOp, issueG_sound]

end Sys2Proof.Machine
end

section
/-! PROOF. Every instruction and every event keeps memory canonical, and so does a step (O60). -/

namespace Sys2Proof.Machine

theorem State.wf_command {s : State} {pkg cmd args : Nat} {msg : List Byte} {f : State → Nat ⊕ (State × List Byte)}
    (h : s.mem.wf = true) (hf : ∀ r, f s = .inr r → r.1.mem.wf = true) : (s.command pkg msg cmd args f).mem.wf = true := by
  refine State.wf_ite h (State.wf_ite (by simpa using h) (State.wf_ite h (State.wf_ite (by simpa using h) ?_)))
  split
  · simpa using h
  · next r e => simpa using hf r e

theorem State.wf_qperm {s t : State} {off : Nat} {p : List Nat} (h : s.mem.wf = true)
    (e : s.qperm off = .perm p t) : t.mem.wf = true := by
  simp only [State.qperm] at e
  split at e
  · cases e
  · split at e
    · cases e
    · split at e
      · cases e
      · split at e
        · cases e
        · obtain ⟨-, rfl⟩ := PermRes.perm.inj e
          exact State.wf_ite (by simpa using h) h

theorem State.wf_getD {s : State} {o : Option State} (h : s.mem.wf = true) (ho : ∀ t, o = some t → t.mem.wf = true) :
    (o.getD s).mem.wf = true := by
  cases o with
  | none => exact h
  | some t => exact ho t rfl

theorem execIadd_sound {d a b : BitVec 6} {n : Ann} {s : State} (h : s.mem.wf = true) :
    soundOutcome (execIadd d a b n s) := typed_sound h

theorem execIsub_sound {d a b : BitVec 6} {n : Ann} {s : State} (h : s.mem.wf = true) :
    soundOutcome (execIsub d a b n s) := typed_sound h

theorem execImul_sound {d a b : BitVec 6} {n : Ann} {s : State} (h : s.mem.wf = true) :
    soundOutcome (execImul d a b n s) := typed_sound h

theorem execImulh_sound {d a b : BitVec 6} {n : Ann} {s : State} (h : s.mem.wf = true) :
    soundOutcome (execImulh d a b n s) := typed_sound h

theorem execImad_sound {d a b : BitVec 6} {n : Ann} {s : State} (h : s.mem.wf = true) :
    soundOutcome (execImad d a b n s) := typed_sound h

theorem execIneg_sound {d a : BitVec 6} {n : Ann} {s : State} (h : s.mem.wf = true) :
    soundOutcome (execIneg d a n s) := typed_sound h

theorem execIabs_sound {d a : BitVec 6} {n : Ann} {s : State} (h : s.mem.wf = true) :
    soundOutcome (execIabs d a n s) := typed_sound h

theorem execImin_sound {d a b : BitVec 6} {n : Ann} {s : State} (h : s.mem.wf = true) :
    soundOutcome (execImin d a b n s) := typed_sound h

theorem execImax_sound {d a b : BitVec 6} {n : Ann} {s : State} (h : s.mem.wf = true) :
    soundOutcome (execImax d a b n s) := typed_sound h

theorem execIaddi_sound {d a i : BitVec 6} {n : Ann} {s : State} (h : s.mem.wf = true) :
    soundOutcome (execIaddi d a i n s) := typed_sound h

theorem execIaddc_sound {d a b : BitVec 6} {p : BitVec 3} {pn : BitVec 1} {n : Ann} {s : State}
    (h : s.mem.wf = true) : soundOutcome (execIaddc d a b p pn n s) := issueG_sound h

theorem execAnd_sound {d a b : BitVec 6} {n : Ann} {s : State} (h : s.mem.wf = true) :
    soundOutcome (execAnd d a b n s) := untyped_sound h

theorem execOr_sound {d a b : BitVec 6} {n : Ann} {s : State} (h : s.mem.wf = true) :
    soundOutcome (execOr d a b n s) := untyped_sound h

theorem execXor_sound {d a b : BitVec 6} {n : Ann} {s : State} (h : s.mem.wf = true) :
    soundOutcome (execXor d a b n s) := untyped_sound h

theorem execAndn_sound {d a b : BitVec 6} {n : Ann} {s : State} (h : s.mem.wf = true) :
    soundOutcome (execAndn d a b n s) := untyped_sound h

theorem execNot_sound {d a : BitVec 6} {n : Ann} {s : State} (h : s.mem.wf = true) :
    soundOutcome (execNot d a n s) := untyped_sound h

theorem execShlR_sound {d a b : BitVec 6} {n : Ann} {s : State} (h : s.mem.wf = true) :
    soundOutcome (execShlR d a b n s) := untyped_sound h

theorem execShrR_sound {d a b : BitVec 6} {n : Ann} {s : State} (h : s.mem.wf = true) :
    soundOutcome (execShrR d a b n s) := untyped_sound h

theorem execShaR_sound {d a b : BitVec 6} {n : Ann} {s : State} (h : s.mem.wf = true) :
    soundOutcome (execShaR d a b n s) := untyped_sound h

theorem execRolR_sound {d a b : BitVec 6} {n : Ann} {s : State} (h : s.mem.wf = true) :
    soundOutcome (execRolR d a b n s) := untyped_sound h

theorem execShlI_sound {d a : BitVec 6} {i : BitVec 5} {n : Ann} {s : State} (h : s.mem.wf = true) :
    soundOutcome (execShlI d a i n s) := untyped_sound h

theorem execShrI_sound {d a : BitVec 6} {i : BitVec 5} {n : Ann} {s : State} (h : s.mem.wf = true) :
    soundOutcome (execShrI d a i n s) := untyped_sound h

theorem execShaI_sound {d a : BitVec 6} {i : BitVec 5} {n : Ann} {s : State} (h : s.mem.wf = true) :
    soundOutcome (execShaI d a i n s) := untyped_sound h

theorem execRolI_sound {d a : BitVec 6} {i : BitVec 5} {n : Ann} {s : State} (h : s.mem.wf = true) :
    soundOutcome (execRolI d a i n s) := untyped_sound h

theorem execFsh_sound {d a : BitVec 6} {i : BitVec 5} {n : Ann} {s : State} (h : s.mem.wf = true) :
    soundOutcome (execFsh d a i n s) := untyped_sound h

theorem execPopc_sound {d a : BitVec 6} {n : Ann} {s : State} (h : s.mem.wf = true) :
    soundOutcome (execPopc d a n s) := untyped_sound h

theorem execClz_sound {d a : BitVec 6} {n : Ann} {s : State} (h : s.mem.wf = true) :
    soundOutcome (execClz d a n s) := untyped_sound h

theorem execBrev_sound {d a : BitVec 6} {n : Ann} {s : State} (h : s.mem.wf = true) :
    soundOutcome (execBrev d a n s) := untyped_sound h

theorem execBfx_sound {d a : BitVec 6} {pos : BitVec 5} {len : BitVec 6} {n : Ann} {s : State}
    (h : s.mem.wf = true) : soundOutcome (execBfx d a pos len n s) := untyped_sound h

theorem execBfi_sound {d a b : BitVec 6} {pos : BitVec 5} {len : BitVec 6} {n : Ann} {s : State}
    (h : s.mem.wf = true) : soundOutcome (execBfi d a b pos len n s) := untyped_sound h

theorem execBperm_sound {d a b : BitVec 6} {n : Ann} {s : State} (h : s.mem.wf = true) :
    soundOutcome (execBperm d a b n s) := untyped_sound h

theorem execSel_sound {d a b : BitVec 6} {p : BitVec 3} {pn : BitVec 1} {n : Ann} {s : State}
    (h : s.mem.wf = true) : soundOutcome (execSel d a b p pn n s) := untyped_sound h

theorem execIcmp_sound {d : BitVec 3} {a b : BitVec 6} {fn : BitVec 4} {n : Ann} {s : State}
    (h : s.mem.wf = true) : soundOutcome (execIcmp d a b fn n s) := issueG_sound h

theorem execMov_sound {d a : BitVec 6} {n : Ann} {s : State} (h : s.mem.wf = true) :
    soundOutcome (execMov d a n s) := untyped_sound h

theorem execMovi_sound {d i : BitVec 6} {n : Ann} {s : State} (h : s.mem.wf = true) :
    soundOutcome (execMovi d i n s) := untyped_sound h

theorem execLit_sound {d : BitVec 6} {x : Word} {n : Ann} {s : State} (h : s.mem.wf = true) :
    soundOutcome (execLit d x n s) := untyped_sound h

theorem execMovs_sound {d a : BitVec 6} {n : Ann} {s : State} (h : s.mem.wf = true) :
    soundOutcome (execMovs d a n s) := untyped_sound h

theorem execMovv_sound {d a i : BitVec 6} {n : Ann} {s : State} (h : s.mem.wf = true) :
    soundOutcome (execMovv d a i n s) := issueG_sound h

theorem execLea_sound {d a b : BitVec 6} {n : Ann} {s : State} (h : s.mem.wf = true) :
    soundOutcome (execLea d a b n s) := issueG_sound h

theorem execNop_sound {n : Ann} {s : State} (h : s.mem.wf = true) : soundOutcome (execNop n s) := issueG_sound h

theorem execYield_sound {n : Ann} {s : State} (h : s.mem.wf = true) : soundOutcome (execYield n s) :=
  issueG_sound h

theorem execSetm_sound {i : BitVec 24} {s : State} (h : s.mem.wf = true) : soundOutcome (execSetm i s) :=
  issueG_sound h

theorem execSetmh_sound {i : BitVec 24} {s : State} (h : s.mem.wf = true) : soundOutcome (execSetmh i s) :=
  issueG_sound h

theorem execGetm_sound {d : BitVec 6} {n : Ann} {s : State} (h : s.mem.wf = true) :
    soundOutcome (execGetm d n s) := issueG_sound h

theorem execGets_sound {d a : BitVec 6} {n : Ann} {s : State} (h : s.mem.wf = true) :
    soundOutcome (execGets d a n s) := issueG_sound h

theorem execBraJ_sound {o : BitVec 20} {st : BitVec 4} {s : State} (h : s.mem.wf = true) :
    soundOutcome (execBraJ o st s) := issue_sound h fun t ht => by simp [ht]

theorem execBraL_sound {pn : BitVec 1} {p : BitVec 3} {off : Word} {n : Ann} {s : State} (h : s.mem.wf = true) :
    soundOutcome (execBraL pn p off n s) := issue_sound h fun t ht => by simp [ht]

theorem execBrx_sound {a : BitVec 6} {n : Ann} {s : State} (h : s.mem.wf = true) :
    soundOutcome (execBrx a n s) := by
  refine issue_sound h fun t ht => ?_
  simp only []
  split <;> simp [ht]

theorem execCall_sound {k : BitVec 6} {off : Word} {n : Ann} {s : State} (h : s.mem.wf = true) :
    soundOutcome (execCall k off n s) := issue_sound h fun t ht => by simp [ht]

theorem execCallx_sound {d a : BitVec 6} {n : Ann} {s : State} (h : s.mem.wf = true) :
    soundOutcome (execCallx d a n s) := by
  refine issue_sound h fun t ht => ?_
  simp only []
  split <;> simp [ht]

theorem execRet_sound {d : BitVec 6} {n : Ann} {s : State} (h : s.mem.wf = true) :
    soundOutcome (execRet d n s) := by
  refine issue_sound h fun t ht => ?_
  simp only []
  repeat' split
  all_goals simp [ht]

theorem execExit_sound {n : Ann} {s : State} (h : s.mem.wf = true) : soundOutcome (execExit n s) := by
  refine issue_sound h fun t ht => ?_
  simp only []
  split <;> simp [ht]

theorem execTrap_sound {i : BitVec 6} {n : Ann} {s : State} (h : s.mem.wf = true) :
    soundOutcome (execTrap i n s) := by
  refine issue_sound h fun t ht => ?_
  grind [Res.sound_done, Res.sound_trap]

theorem execBrk_sound {i : BitVec 6} {n : Ann} {s : State} (h : s.mem.wf = true) :
    soundOutcome (execBrk i n s) := by
  refine issue_sound h fun t ht => ?_
  grind [Res.sound_done, Res.sound_trap]

theorem execWait_sound {file : BitVec 2} {a : BitVec 6} {n : Ann} {s : State} (h : s.mem.wf = true) :
    soundOutcome (execWait file a n s) := by
  refine issue_sound h fun t ht => ?_
  simp only []
  repeat' split
  all_goals simp [ht]

theorem execSleep_sound {a : BitVec 6} {n : Ann} {s : State} (h : s.mem.wf = true) :
    soundOutcome (execSleep a n s) := by
  refine issue_sound h fun t ht => ?_
  simp only []
  split <;> simp [ht]

theorem execPhint_sound {r0 r1 : BitVec 6} {lo hi : Word} {n : Ann} {s : State} (h : s.mem.wf = true) :
    soundOutcome (execPhint r0 r1 lo hi n s) := by
  refine issue_sound h fun t ht => ?_
  simp only []
  repeat' split
  all_goals simp [ht]

theorem execFadd_sound {d a b : BitVec 6} {n : Ann} {s : State} (h : s.mem.wf = true) :
    soundOutcome (execFadd d a b n s) := floatRound_sound h

theorem execFsub_sound {d a b : BitVec 6} {n : Ann} {s : State} (h : s.mem.wf = true) :
    soundOutcome (execFsub d a b n s) := floatRound_sound h

theorem execFmul_sound {d a b : BitVec 6} {n : Ann} {s : State} (h : s.mem.wf = true) :
    soundOutcome (execFmul d a b n s) := floatRound_sound h

theorem execFfma_sound {d a b : BitVec 6} {n : Ann} {s : State} (h : s.mem.wf = true) :
    soundOutcome (execFfma d a b n s) := floatRound_sound h

theorem execFscl_sound {d a b : BitVec 6} {n : Ann} {s : State} (h : s.mem.wf = true) :
    soundOutcome (execFscl d a b n s) := floatRound_sound h

theorem execFrnd_sound {d a : BitVec 6} {n : Ann} {s : State} (h : s.mem.wf = true) :
    soundOutcome (execFrnd d a n s) := issueG_sound h

theorem execFmin_sound {d a b : BitVec 6} {n : Ann} {s : State} (h : s.mem.wf = true) :
    soundOutcome (execFmin d a b n s) := floatPick_sound h

theorem execFmax_sound {d a b : BitVec 6} {n : Ann} {s : State} (h : s.mem.wf = true) :
    soundOutcome (execFmax d a b n s) := floatPick_sound h

theorem execFminn_sound {d a b : BitVec 6} {n : Ann} {s : State} (h : s.mem.wf = true) :
    soundOutcome (execFminn d a b n s) := floatPick_sound h

theorem execFmaxn_sound {d a b : BitVec 6} {n : Ann} {s : State} (h : s.mem.wf = true) :
    soundOutcome (execFmaxn d a b n s) := floatPick_sound h

theorem execFabs_sound {d a : BitVec 6} {n : Ann} {s : State} (h : s.mem.wf = true) :
    soundOutcome (execFabs d a n s) := floatSign_sound h

theorem execFneg_sound {d a : BitVec 6} {n : Ann} {s : State} (h : s.mem.wf = true) :
    soundOutcome (execFneg d a n s) := floatSign_sound h

theorem execFcmp_sound {d : BitVec 3} {a b : BitVec 6} {fn : BitVec 4} {n : Ann} {s : State}
    (h : s.mem.wf = true) : soundOutcome (execFcmp d a b fn n s) := issueG_sound h

theorem execFcls_sound {d a : BitVec 6} {n : Ann} {s : State} (h : s.mem.wf = true) :
    soundOutcome (execFcls d a n s) := issueG_sound h

theorem execFrcp_sound {d a : BitVec 6} {n : Ann} {s : State} (h : s.mem.wf = true) :
    soundOutcome (execFrcp d a n s) := floatRooted_sound h

theorem execFrsq_sound {d a : BitVec 6} {n : Ann} {s : State} (h : s.mem.wf = true) :
    soundOutcome (execFrsq d a n s) := floatRooted_sound h

theorem execFsqrt_sound {d a : BitVec 6} {n : Ann} {s : State} (h : s.mem.wf = true) :
    soundOutcome (execFsqrt d a n s) := floatRooted_sound h

theorem execFex2_sound {d a : BitVec 6} {n : Ann} {s : State} (h : s.mem.wf = true) :
    soundOutcome (execFex2 d a n s) := floatBounded_sound h

theorem execFlg2_sound {d a : BitVec 6} {n : Ann} {s : State} (h : s.mem.wf = true) :
    soundOutcome (execFlg2 d a n s) := floatBounded_sound h

theorem execFsin_sound {d a : BitVec 6} {n : Ann} {s : State} (h : s.mem.wf = true) :
    soundOutcome (execFsin d a n s) := floatBounded_sound h

theorem execFcos_sound {d a : BitVec 6} {n : Ann} {s : State} (h : s.mem.wf = true) :
    soundOutcome (execFcos d a n s) := floatBounded_sound h

theorem execFtanh_sound {d a : BitVec 6} {n : Ann} {s : State} (h : s.mem.wf = true) :
    soundOutcome (execFtanh d a n s) := floatBounded_sound h

theorem execFcvt_sound {d a : BitVec 6} {i : BitVec 5} {n : Ann} {s : State} (h : s.mem.wf = true) :
    soundOutcome (execFcvt d a i n s) := by
  refine issue_sound h fun t ht => ?_
  simp only []
  split <;> exact ht

theorem execIcvt_sound {d a : BitVec 6} {i : BitVec 5} {n : Ann} {s : State} (h : s.mem.wf = true) :
    soundOutcome (execIcvt d a i n s) := by
  unfold execIcvt
  exact issueG_sound h

theorem execTsum_sound {d a b : BitVec 6} {n : Ann} {s : State} (h : s.mem.wf = true) :
    soundOutcome (execTsum d a b n s) := issueG_sound h

theorem execTprd_sound {d a b : BitVec 6} {n : Ann} {s : State} (h : s.mem.wf = true) :
    soundOutcome (execTprd d a b n s) := issueG_sound h

theorem execCmul_sound {d a b : BitVec 6} {n : Ann} {s : State} (h : s.mem.wf = true) :
    soundOutcome (execCmul d a b n s) := issueG_sound h

theorem execCfma_sound {d a b : BitVec 6} {n : Ann} {s : State} (h : s.mem.wf = true) :
    soundOutcome (execCfma d a b n s) := issueG_sound h

theorem execDot2_sound {d a b : BitVec 6} {n : Ann} {s : State} (h : s.mem.wf = true) :
    soundOutcome (execDot2 d a b n s) := issueG_sound h

theorem execH2add_sound {d a b : BitVec 6} {n : Ann} {s : State} (h : s.mem.wf = true) :
    soundOutcome (execH2add d a b n s) := packed_sound h

theorem execH2mul_sound {d a b : BitVec 6} {n : Ann} {s : State} (h : s.mem.wf = true) :
    soundOutcome (execH2mul d a b n s) := packed_sound h

theorem execH2fma_sound {d a b : BitVec 6} {n : Ann} {s : State} (h : s.mem.wf = true) :
    soundOutcome (execH2fma d a b n s) := packed_sound h

theorem execLdI_sound {d a i : BitVec 6} {n : Ann} {s : State} (h : s.mem.wf = true) :
    soundOutcome (execLdI d a i n s) := loadOp_sound h

theorem execLdL_sound {d a : BitVec 6} {off : Word} {n : Ann} {s : State} (h : s.mem.wf = true) :
    soundOutcome (execLdL d a off n s) := loadOp_sound h

theorem execStI_sound {d a i : BitVec 6} {n : Ann} {s : State} (h : s.mem.wf = true) :
    soundOutcome (execStI d a i n s) := storeOp_sound h

theorem execStL_sound {d a : BitVec 6} {off : Word} {n : Ann} {s : State} (h : s.mem.wf = true) :
    soundOutcome (execStL d a off n s) := storeOp_sound h

theorem execAtom_sound {d a b : BitVec 6} {fn : BitVec 4} {n : Ann} {s : State} (h : s.mem.wf = true) :
    soundOutcome (execAtom d a b fn n s) := atomicOp_sound h

theorem execAtomc_sound {d a b : BitVec 6} {n : Ann} {s : State} (h : s.mem.wf = true) :
    soundOutcome (execAtomc d a b n s) := atomicOp_sound h

theorem execRed_sound {a b : BitVec 6} {fn : BitVec 4} {n : Ann} {s : State} (h : s.mem.wf = true) :
    soundOutcome (execRed a b fn n s) := by
  refine issue_sound h fun t ht => ?_
  simp only []
  split <;> simp [ht]

theorem execLdl_sound {d a b : BitVec 6} {n : Ann} {s : State} (h : s.mem.wf = true) :
    soundOutcome (execLdl d a b n s) := by
  refine issue_sound h fun t ht => throughHandle_sound fun x => Res.sound_ite trivial ?_
  split
  · simpa using ht
  · next sh l seat =>
    simp only []
    split
    · next e => exact (loadLanes_sound (fun _ _ hs => by simpa using hs) _ ht).1 _ e
    · next e => simpa using (loadLanes_sound (fun _ _ hs => by simpa using hs) _ ht).2 _ _ e

theorem execStl_sound {d a b : BitVec 6} {n : Ann} {s : State} (h : s.mem.wf = true) :
    soundOutcome (execStl d a b n s) := by
  refine issue_sound h fun t ht => ?_
  grind [State.elemLanes_mem, throughHandle_sound, enqueue_sound]

theorem execFence_sound {n : Ann} {s : State} (h : s.mem.wf = true) : soundOutcome (execFence n s) := by
  refine issue_sound h fun t ht => ?_
  simp only []
  repeat' split
  all_goals simp [ht]

theorem execCctl_sound {a i : BitVec 6} {n : Ann} {s : State} (h : s.mem.wf = true) :
    soundOutcome (execCctl a i n s) := by
  refine issue_sound h fun t ht => Res.sound_ite (State.wf_ite ht (by simpa using ht)) (State.foldl_wf _ (fun u l hu => ?_) _ ht)
  have hc : (u.cctlLine (t.g.ea l a.toNat 0)).2.mem.wf = true := by simpa using hu
  split
  · next e => exact State.wf_snd e hc
  · next e =>
    have hv := State.wf_snd e hc
    split
    · exact State.wf_ite hv (by simpa using hv)
    · exact State.wf_ite hv (by simpa using hv)
    · simpa using hv
    · simpa using hv
    · exact hv

theorem execLalloc_sound {d a i : BitVec 6} {n : Ann} {s : State} (h : s.mem.wf = true) :
    soundOutcome (execLalloc d a i n s) := by
  refine issue_sound h fun t ht => ?_
  simp only []
  repeat' split
  all_goals simp [ht, State.wf_spoil]

theorem execLfree_sound {d a i : BitVec 6} {n : Ann} {s : State} (h : s.mem.wf = true) :
    soundOutcome (execLfree d a i n s) := by
  refine issue_sound h fun t ht => ?_
  simp only []
  repeat' split
  all_goals simp [ht]

theorem execTlmake_sound {d a : BitVec 6} {n : Ann} {s : State} (h : s.mem.wf = true) :
    soundOutcome (execTlmake d a n s) := by
  refine issue_sound h fun t ht => ?_
  grind [Res.sound_done, Res.sound_trap, Res.sound_hold, State.fetchStruct_mem, State.makeHandle_mem]

theorem execTldrop_sound {d a : BitVec 6} {n : Ann} {s : State} (h : s.mem.wf = true) :
    soundOutcome (execTldrop d a n s) := by
  refine issue_sound h fun t ht => ?_
  simp only []
  split <;> simp [ht]

theorem execTlqry_sound {d a i : BitVec 6} {n : Ann} {s : State} (h : s.mem.wf = true) :
    soundOutcome (execTlqry d a i n s) := issue_sound h fun t ht => by simp [ht]

theorem execBinit_sound {d a : BitVec 6} {i : BitVec 3} {n : Ann} {s : State} (h : s.mem.wf = true) :
    soundOutcome (execBinit d a i n s) := by
  refine issue_sound h fun t ht => barrierOp_sound ht ht fun u k hu => State.wf_barRun ?_
  simp only [State.mapUnretired_mem, State.mapSaved_mem, State.mapGroups_mem]
  refine State.foldl_wf _ (fun v q hv => ?_) _ ?_
  · split
    · simpa using hv
    · exact hv
  · simp only [State.wakeBarrier_mem, State.modBarDev_mem]
    exact State.wf_setBarWord (State.wf_setBarWord (State.wf_setBarWord (State.wf_setBarWord hu)))

theorem execBlink_sound {d a b : BitVec 6} {n : Ann} {s : State} (h : s.mem.wf = true) :
    soundOutcome (execBlink d a b n s) := by
  refine issue_sound h fun t ht => ?_
  grind [Res.sound_done, Res.sound_trap, State.wf_barRun, State.wf_setBarWord, State.barNamed_mem]

theorem execBara_sound {a : BitVec 6} {i : BitVec 3} {n : Ann} {s : State} (h : s.mem.wf = true) :
    soundOutcome (execBara a i n s) := issue_sound h fun t ht => by simp [ht]

theorem execBarx_sound {d a : BitVec 6} {i : BitVec 3} {n : Ann} {s : State} (h : s.mem.wf = true) :
    soundOutcome (execBarx d a i n s) := issue_sound h fun t ht => by simp [ht]

theorem execBart_sound {d a : BitVec 6} {i : BitVec 3} {n : Ann} {s : State} (h : s.mem.wf = true) :
    soundOutcome (execBart d a i n s) := by
  refine issue_sound h fun t ht => ?_
  grind [Res.sound_done, Res.sound_hold, State.wf_arriveHere, barrierOp_sound]

theorem execBarw_sound {d a : BitVec 6} {i : BitVec 3} {n : Ann} {s : State} (h : s.mem.wf = true) :
    soundOutcome (execBarw d a i n s) := by
  refine issue_sound h fun t ht => ?_
  grind [Res.sound_done, barOutcome_sound, State.reportGuard_mem, State.waitBar_mem, State.endBarWait_mem,
    State.wildWake_mem, State.wf_setBarWord, barrierOp_sound]

theorem execBaraw_sound {d a : BitVec 6} {i : BitVec 3} {n : Ann} {s : State} (h : s.mem.wf = true) :
    soundOutcome (execBaraw d a i n s) := by
  refine issue_sound h fun t ht => ?_
  grind [Res.sound_done, Res.sound_hold, barOutcome_sound, State.reportGuard_mem, State.waitBar_mem,
    State.wf_arriveHere, barrierOp_sound]

theorem execPush_sound {a : BitVec 6} {i : BitVec 3} {n : Ann} {s : State} (h : s.mem.wf = true) :
    soundOutcome (execPush a i n s) := issue_sound h fun t ht => by simp [ht]

theorem execPushr_sound {a : BitVec 6} {i : BitVec 3} {n : Ann} {s : State} (h : s.mem.wf = true) :
    soundOutcome (execPushr a i n s) := issue_sound h fun t ht => by simp [ht]

theorem execPop_sound {d : BitVec 6} {i : BitVec 3} {n : Ann} {s : State} (h : s.mem.wf = true) :
    soundOutcome (execPop d i n s) := issue_sound h fun t ht => by simp [ht]

theorem execPeek_sound {d : BitVec 6} {i : BitVec 3} {n : Ann} {s : State} (h : s.mem.wf = true) :
    soundOutcome (execPeek d i n s) := issue_sound h fun t ht => by simp [ht]

theorem execPqry_sound {d : BitVec 6} {i : BitVec 3} {n : Ann} {s : State} (h : s.mem.wf = true) :
    soundOutcome (execPqry d i n s) := issue_sound h fun t ht => by simp [ht]

theorem execPlink_sound {d a : BitVec 6} {i : BitVec 3} {n : Ann} {s : State} (h : s.mem.wf = true) :
    soundOutcome (execPlink d a i n s) := by
  refine issue_sound h fun t ht => ?_
  simp only []
  repeat' split
  all_goals simp [ht]

theorem execPlinkUnlink_sound {d : BitVec 6} {i : BitVec 3} {n : Ann} {s : State} (h : s.mem.wf = true) :
    soundOutcome (execPlinkUnlink d i n s) := by
  refine issue_sound h fun t ht => ?_
  simp only []
  repeat' split
  all_goals simp [ht]

theorem execPortValueLand_sound {gid port lane : Nat} {s : State} (h : s.mem.wf = true) :
    soundOutcome (execPortValueLand gid port lane s) := by
  simp only [execPortValueLand, soundOutcome_next]
  repeat' split
  all_goals simp [h]

theorem execPortPark_sound {gid split : Nat} {s : State} (h : s.mem.wf = true) :
    soundOutcome (execPortPark gid split s) := by
  simp [execPortPark, h]

theorem execPortDeadlock_sound {gid : Nat} {s : State} (h : s.mem.wf = true) :
    soundOutcome (execPortDeadlock gid s) := by
  simp only [execPortDeadlock, soundOutcome_next]
  split
  · exact h
  · exact State.wf_ite h (State.foldl_wf _ (fun _ _ ht => by simpa using ht) _ h)

theorem execStoreQueueDrain_sound {gid : Nat} {s : State} (h : s.mem.wf = true) :
    soundOutcome (execStoreQueueDrain gid s) := by
  simp only [execStoreQueueDrain, soundOutcome_next]
  repeat' split
  all_goals simp [h]

theorem execRemoteAccess_sound {pkt : Nat} {s : State} (h : s.mem.wf = true) :
    soundOutcome (execRemoteAccess pkt s) := by
  simp only [execRemoteAccess, soundOutcome_next]
  repeat' split
  all_goals simp [h]

theorem execStoreAck_sound {id : Nat} {s : State} (h : s.mem.wf = true) : soundOutcome (execStoreAck id s) := by
  simp only [execStoreAck, soundOutcome_next]
  repeat' split
  all_goals simp [h]

theorem execFabricResponse_sound {pkt : Nat} {s : State} (h : s.mem.wf = true) :
    soundOutcome (execFabricResponse pkt s) := by
  simp only [execFabricResponse, soundOutcome_next]
  repeat' split
  all_goals simp [h]

theorem execImpreciseFault_sound {s : State} (h : s.mem.wf = true) : soundOutcome (execImpreciseFault s) := by
  simp only [execImpreciseFault, soundOutcome_next]
  repeat' split
  all_goals simp [h]

theorem execDependenceEntry_sound {tile k : Nat} {s : State} (h : s.mem.wf = true) :
    soundOutcome (execDependenceEntry tile k s) := by
  simp only [execDependenceEntry, soundOutcome_next]
  repeat' split
  all_goals simp [h]

theorem execLaunch_sound {y : BitVec 1} {d a b : BitVec 6} {s : State} (h : s.mem.wf = true) :
    soundOutcome (execLaunch y d a b s) := issue_sound h fun t ht => by simp [ht]

theorem execLaunchd_sound {y : BitVec 1} {d a b : BitVec 6} {s : State} (h : s.mem.wf = true) :
    soundOutcome (execLaunchd y d a b s) := by
  refine issue_sound h fun t ht => ?_
  simp only []
  split <;> simp [ht]

theorem execJoin_sound {d : BitVec 6} {s : State} (h : s.mem.wf = true) : soundOutcome (execJoin d s) := by
  refine issue_sound h fun t ht => ?_
  grind [Res.sound_wait, Res.sound_hold, xreply_sound, State.takeReport_mem]

theorem execJoinall_sound {d : BitVec 6} {s : State} (h : s.mem.wf = true) :
    soundOutcome (execJoinall d s) := by
  refine issue_sound h fun t ht => ?_
  simp only []
  repeat' split
  all_goals simp [ht]

theorem execTileq_sound {d a : BitVec 6} {s : State} (h : s.mem.wf = true) :
    soundOutcome (execTileq d a s) := by
  refine issue_sound h fun t ht => ?_
  simp only []
  repeat' split
  all_goals simp [ht]

theorem execCancel_sound {y : BitVec 1} {d : BitVec 6} {s : State} (h : s.mem.wf = true) :
    soundOutcome (execCancel y d s) := by
  refine issue_sound h fun t ht => ?_
  simp only []
  repeat' split
  all_goals simp [ht]

theorem execMcopy_sound {y : BitVec 1} {d a : BitVec 6} {s : State} (h : s.mem.wf = true) :
    soundOutcome (execMcopy y d a s) := copyOp_sound h

theorem execUcopy_sound {y : BitVec 1} {d a : BitVec 6} {s : State} (h : s.mem.wf = true) :
    soundOutcome (execUcopy y d a s) := copyOp_sound h

theorem execGcopy_sound {y : BitVec 1} {d a : BitVec 6} {s : State} (h : s.mem.wf = true) :
    soundOutcome (execGcopy y d a s) := copyOp_sound h

theorem execReduce_sound {y : BitVec 1} {d a : BitVec 6} {s : State} (h : s.mem.wf = true) :
    soundOutcome (execReduce y d a s) := copyOp_sound h

theorem execCqry_sound {d a b : BitVec 6} {s : State} (h : s.mem.wf = true) :
    soundOutcome (execCqry d a b s) := by
  refine issue_sound h fun t ht => ?_
  simp only []
  repeat' split
  all_goals simp [ht]

theorem execCopyArrival_sound {cmd : Nat} {s : State} (h : s.mem.wf = true) :
    soundOutcome (execCopyArrival cmd s) := by
  simp only [execCopyArrival, soundOutcome_next]
  repeat' split
  all_goals simp [h]

theorem execMma_sound {y : BitVec 1} {d a b : BitVec 6} {s : State} (h : s.mem.wf = true) :
    soundOutcome (execMma y d a b s) := issue_sound h fun t ht => by simp [ht]

theorem execMmac_sound {y : BitVec 1} {d a b : BitVec 6} {s : State} (h : s.mem.wf = true) :
    soundOutcome (execMmac y d a b s) := issue_sound h fun t ht => by simp [ht]

theorem execDelta_sound {y : BitVec 1} {d a : BitVec 6} {s : State} (h : s.mem.wf = true) :
    soundOutcome (execDelta y d a s) := issue_sound h fun t ht => by simp [ht]

theorem execDqry_sound {y : BitVec 1} {d a : BitVec 6} {s : State} (h : s.mem.wf = true) :
    soundOutcome (execDqry y d a s) := issue_sound h fun t ht => by simp [ht]

theorem execCelld_sound {y : BitVec 1} {d a : BitVec 6} {s : State} (h : s.mem.wf = true) :
    soundOutcome (execCelld y d a s) := issue_sound h fun t ht => by simp [ht]

theorem execCelst_sound {y : BitVec 1} {d a : BitVec 6} {s : State} (h : s.mem.wf = true) :
    soundOutcome (execCelst y d a s) := issue_sound h fun t ht => by simp [ht]

theorem execCelz_sound {y : BitVec 1} {d a : BitVec 6} {s : State} (h : s.mem.wf = true) :
    soundOutcome (execCelz y d a s) := issue_sound h fun t ht => by simp [ht]

theorem execMatrixArrival_sound {cmd : Nat} {s : State} (h : s.mem.wf = true) :
    soundOutcome (execMatrixArrival cmd s) := by
  simp only [execMatrixArrival, soundOutcome_next]
  repeat' split
  all_goals simp [h]

theorem execMfence_sound {s : State} (h : s.mem.wf = true) : soundOutcome (execMfence s) := by
  refine issue_sound h fun t ht => ?_
  grind [Res.sound_done, Res.sound_fence]

theorem execMwait_sound {a : BitVec 6} {s : State} (h : s.mem.wf = true) : soundOutcome (execMwait a s) := by
  refine issue_sound h fun t ht => ?_
  simp only []
  repeat' split
  all_goals simp [ht]

theorem execMqry_sound {d a : BitVec 6} {s : State} (h : s.mem.wf = true) : soundOutcome (execMqry d a s) := by
  refine issue_sound h fun t ht => ?_
  simp only []
  split <;> simp [ht]

theorem execCelget_sound {d a : BitVec 6} {s : State} (h : s.mem.wf = true) :
    soundOutcome (execCelget d a s) := by
  refine issue_sound h fun t ht => ?_
  grind [Res.sound_hold, celgetOp_sound, State.coreStruct_mem, xreply_sound]

theorem execCelpin_sound {y : BitVec 1} {d a b : BitVec 6} {s : State} (h : s.mem.wf = true) :
    soundOutcome (execCelpin y d a b s) := by
  refine issue_sound h fun t ht => ?_
  simp only []
  repeat' split
  all_goals simp [ht]

theorem execCelfree_sound {y : BitVec 1} {d a : BitVec 6} {s : State} (h : s.mem.wf = true) :
    soundOutcome (execCelfree y d a s) := by
  refine issue_sound h fun t ht => ?_
  simp only []
  repeat' split
  all_goals simp [ht]

theorem execCelfreeEvict_sound {y : BitVec 1} {d a : BitVec 6} {s : State} (h : s.mem.wf = true) :
    soundOutcome (execCelfreeEvict y d a s) := by
  refine issue_sound h fun t ht => ?_
  simp only []
  repeat' split
  all_goals simp [ht]

theorem execAgset_sound {d a : BitVec 6} {s : State} (h : s.mem.wf = true) :
    soundOutcome (execAgset d a s) := by
  refine issue_sound h fun t ht => ?_
  grind [Res.sound_hold, xreply_sound, State.readFor_mem, State.agClaim_mem]

theorem execAgfree_sound {y : BitVec 1} {d a : BitVec 6} {s : State} (h : s.mem.wf = true) :
    soundOutcome (execAgfree y d a s) := by
  refine issue_sound h fun t ht => ?_
  simp only []
  repeat' split
  all_goals simp [ht]

theorem execMst_sound {y : BitVec 1} {d a : BitVec 6} {s : State} (h : s.mem.wf = true) :
    soundOutcome (execMst y d a s) := issue_sound h fun t ht => by simp [ht]

theorem execMldr_sound {y : BitVec 1} {d a : BitVec 6} {s : State} (h : s.mem.wf = true) :
    soundOutcome (execMldr y d a s) := issue_sound h fun t ht => by simp [ht]

theorem execSwitchContribution_sound {cmd : Nat} {s : State} (h : s.mem.wf = true) :
    soundOutcome (execSwitchContribution cmd s) := by
  simp only [execSwitchContribution, soundOutcome_next]
  repeat' split
  all_goals simp [h]

theorem execTupleTimeout_sound {grp seq : Nat} {s : State} (h : s.mem.wf = true) :
    soundOutcome (execTupleTimeout grp seq s) := by
  simp [execTupleTimeout, h]

theorem execColl_sound {y : BitVec 1} {d a : BitVec 6} {s : State} (h : s.mem.wf = true) :
    soundOutcome (execColl y d a s) := by
  refine issue_sound h fun t ht => ?_
  grind [Res.sound_done, Res.sound_hold, acceptFabric_mem, xreply_sound, State.modAg_mem, State.readFor_mem]

theorem execCollStepTimeout_sound {cmd : Nat} {s : State} (h : s.mem.wf = true) :
    soundOutcome (execCollStepTimeout cmd s) := by
  simp only [execCollStepTimeout, soundOutcome_next]
  repeat' split
  all_goals simp [h]

theorem execFabricArrival_sound {cmd : Nat} {s : State} (h : s.mem.wf = true) :
    soundOutcome (execFabricArrival cmd s) := by
  simp only [execFabricArrival, soundOutcome_next]
  repeat' split
  all_goals simp [h]

theorem execCollw_sound {d a : BitVec 6} {s : State} (h : s.mem.wf = true) :
    soundOutcome (execCollw d a s) := by
  refine issue_sound h fun t ht => ?_
  simp only []
  split <;> simp [ht]

theorem execFlush_sound {s : State} (h : s.mem.wf = true) : soundOutcome (execFlush s) := by
  refine issue_sound h fun t ht => ?_
  grind [Res.sound_done, Res.sound_fence]

theorem execFabricPacketExpiry_sound {pkt : Nat} {s : State} (h : s.mem.wf = true) :
    soundOutcome (execFabricPacketExpiry pkt s) := by
  simp only [execFabricPacketExpiry, soundOutcome_next]
  repeat' split
  all_goals simp [h]

theorem execLinkFailure_sound {pkg plane what : Nat} {s : State} (h : s.mem.wf = true) :
    soundOutcome (execLinkFailure pkg plane what s) := by
  refine State.wf_ite h (State.wf_ite (State.wf_pathFails h) ?_)
  exact State.foldl_wf _ (fun _ _ ht => State.wf_becomesAbsent ht) _ (State.wf_pathFails h)

theorem execPackageReachable_sound {pkg plane : Nat} {s : State} (h : s.mem.wf = true) :
    soundOutcome (execPackageReachable pkg plane s) := by
  simp only [execPackageReachable, soundOutcome_next]
  split <;> simp [h]

theorem execVinit_sound {y : BitVec 1} {d a b : BitVec 6} {s : State} (h : s.mem.wf = true) :
    soundOutcome (execVinit y d a b s) := by
  refine issue_sound h fun t ht => ?_
  grind [State.wf_vatInit, xreply_sound, vatOp_sound]

theorem execVtake_sound {d a : BitVec 6} {s : State} (h : s.mem.wf = true) :
    soundOutcome (execVtake d a s) := by
  refine issue_sound h fun t ht => ?_
  grind [Res.sound_wait, State.wf_setVatField, State.setWaiters_mem, xreply_sound, vatOp_sound,
    State.wf_vatHand, State.vatAcquire_mem]

theorem execVput_sound {y : BitVec 1} {d a b : BitVec 6} {s : State} (h : s.mem.wf = true) :
    soundOutcome (execVput y d a b s) := by
  refine issue_sound h fun t ht => ?_
  grind [Res.sound_hold, State.wf_setVatField, State.refStruct_mem, xreply_sound, State.wf_vatPass]

theorem execVqry_sound {d a b : BitVec 6} {s : State} (h : s.mem.wf = true) :
    soundOutcome (execVqry d a b s) := by
  refine issue_sound h fun t ht => ?_
  grind [xreply_sound, vatOp_sound]

theorem execSfill_sound {y : BitVec 1} {d a b : BitVec 6} {s : State} (h : s.mem.wf = true) :
    soundOutcome (execSfill y d a b s) := issue_sound h fun t ht => by simp [ht]

theorem execSdrain_sound {y : BitVec 1} {d a b : BitVec 6} {s : State} (h : s.mem.wf = true) :
    soundOutcome (execSdrain y d a b s) := issue_sound h fun t ht => by simp [ht]

theorem execSstop_sound {y : BitVec 1} {d a : BitVec 6} {s : State} (h : s.mem.wf = true) :
    soundOutcome (execSstop y d a s) := by
  refine issue_sound h fun t ht => ?_
  grind [xreply_sound, vatOp_sound]

theorem execStreamSlotDone_sound {stream : Nat} {s : State} (h : s.mem.wf = true) :
    soundOutcome (execStreamSlotDone stream s) := by
  grind [execStreamSlotDone, soundOutcome_next, State.wf_streamFails, State.wf_vatFinish, State.pick_mem,
    State.wf_streamTry, State.wf_streamEnd, State.modStream_mem]

theorem execStreamFault_sound {stream : Nat} {s : State} (h : s.mem.wf = true) :
    soundOutcome (execStreamFault stream s) := by
  grind [execStreamFault, soundOutcome_next, State.wf_streamFails, State.wf_streamTry]

theorem execTimeq_sound {d a : BitVec 6} {s : State} (h : s.mem.wf = true) :
    soundOutcome (execTimeq d a s) := by
  refine issue_sound h fun t ht => ?_
  simp only []
  repeat' split
  all_goals simp [ht]

theorem execTsig_sound {y : BitVec 1} {d a b : BitVec 6} {s : State} (h : s.mem.wf = true) :
    soundOutcome (execTsig y d a b s) := by
  refine issue_sound h fun t ht => ?_
  simp only []
  repeat' split
  all_goals simp [ht]

theorem execTsigFire_sound {crew n : Nat} {s : State} (h : s.mem.wf = true) :
    soundOutcome (execTsigFire crew n s) := by
  simp only [execTsigFire, soundOutcome_next]
  repeat' split
  all_goals simp [h]

theorem execSleepWake_sound {gid split : Nat} {s : State} (h : s.mem.wf = true) :
    soundOutcome (execSleepWake gid split s) := by
  simp [execSleepWake, h]

theorem execPodTimeSyncChange_sound {pkg : Nat} {sync skew : Bool} {s : State} (h : s.mem.wf = true) :
    soundOutcome (execPodTimeSyncChange pkg sync skew s) := by
  simp [execPodTimeSyncChange, h]

theorem execChildStart_sound {tile k : Nat} {s : State} (h : s.mem.wf = true) :
    soundOutcome (execChildStart tile k s) := by
  simp only [execChildStart, soundOutcome_next]
  split
  · exact h
  · split
    · split
      · exact h
      · refine State.wf_ite h (State.wf_ite (State.wf_reportChild h) (State.wf_ite (State.wf_reportChild h) (State.wf_ite ?_ h)))
        split
        · next e => exact State.wf_ite (by simpa using State.wf_startAll h e) (State.wf_startAll h e)
        · exact h
    · exact h

theorem execChildRelaunch_sound {tile k : Nat} {s : State} (h : s.mem.wf = true) :
    soundOutcome (execChildRelaunch tile k s) := by
  simp only [execChildRelaunch, soundOutcome_next]
  refine State.wf_ite ?_ ?_
  · split
    · exact h
    · refine State.wf_ite h ?_
      split
      · next e => simpa using State.wf_startRoot (by simpa using h) e
      · simpa using h
  · split
    · exact h
    · split
      · split
        · exact h
        · refine State.wf_ite h (State.wf_ite ?_ (State.wf_ite h (State.wf_getD h fun _ => State.wf_startKid h)))
          split
          · next e => simpa using State.wf_startAll h e
          · exact h
      · exact h

theorem execTileComplete_sound {tile : Nat} {s : State} (h : s.mem.wf = true) :
    soundOutcome (execTileComplete tile s) := by
  simp only [execTileComplete, soundOutcome_next]
  repeat' split
  all_goals simp [h]

theorem execHaltcr_sound {d a : BitVec 6} {n : Ann} {s : State} (h : s.mem.wf = true) :
    soundOutcome (execHaltcr d a n s) := by
  refine issue_sound h fun t ht => ?_
  grind [Res.sound_wait, xreply_sound, State.haltCrew_mem, pendReply_sound]

theorem execResume_sound {d a : BitVec 6} {n : Ann} {s : State} (h : s.mem.wf = true) :
    soundOutcome (execResume d a n s) := by
  refine issue_sound h fun t ht => ?_
  grind [Res.sound_wait, xreply_sound, State.resumeCrew_mem]

theorem execKillcr_sound {d a : BitVec 6} {n : Ann} {s : State} (h : s.mem.wf = true) :
    soundOutcome (execKillcr d a n s) := by
  refine issue_sound h fun t ht => ?_
  grind [Res.sound_wait, State.wf_killCrews, xreply_sound]

theorem execHaltComplete_sound {crew : Nat} {s : State} (h : s.mem.wf = true) :
    soundOutcome (execHaltComplete crew s) := by
  simp only [execHaltComplete, soundOutcome_next]
  repeat' split
  all_goals simp [h]

theorem execGraceExpiry_sound {crew : Nat} {s : State} (h : s.mem.wf = true) :
    soundOutcome (execGraceExpiry crew s) := by
  simp only [execGraceExpiry, soundOutcome_next]
  repeat' split
  all_goals simp [h]

theorem execWatchdog_sound {gid split : Nat} {s : State} (h : s.mem.wf = true) :
    soundOutcome (execWatchdog gid split s) := by
  simp only [execWatchdog, soundOutcome_next]
  repeat' split
  all_goals simp [h]

theorem execEventDelivery_sound {pkg core : Nat} {s : State} (h : s.mem.wf = true) :
    soundOutcome (execEventDelivery pkg core s) := by
  simp only [execEventDelivery, soundOutcome_next]
  repeat' split
  all_goals simp [h]

theorem execTret_sound {n : Ann} {s : State} (h : s.mem.wf = true) : soundOutcome (execTret n s) := by
  refine issue_sound h fun t ht => ?_
  simp only []
  split <;> simp [ht]

theorem execIdle_sound {n : Ann} {s : State} (h : s.mem.wf = true) : soundOutcome (execIdle n s) := by
  refine issue_sound h fun t ht => ?_
  simp only []
  repeat' split
  all_goals simp [ht]

theorem execCsrr_sound {d : BitVec 6} {csr : Word} {n : Ann} {s : State} (h : s.mem.wf = true) :
    soundOutcome (execCsrr d csr n s) := issue_sound h fun t ht => by simp [ht]

theorem execTimelRead_sound {d : BitVec 6} {n : Ann} {s : State} (h : s.mem.wf = true) :
    soundOutcome (execTimelRead d n s) := issue_sound h fun t ht => by simp [ht]

theorem execCtxerrRead_sound {d : BitVec 6} {n : Ann} {s : State} (h : s.mem.wf = true) :
    soundOutcome (execCtxerrRead d n s) := issue_sound h fun t ht => by simp [ht]

theorem execCsrw_sound {a : BitVec 6} {csr : Word} {n : Ann} {s : State} (h : s.mem.wf = true) :
    soundOutcome (execCsrw a csr n s) := issue_sound h fun t ht => by simp [ht]

theorem execPreqWrite_sound {a : BitVec 6} {hi : BitVec 1} {n : Ann} {s : State} (h : s.mem.wf = true) :
    soundOutcome (execPreqWrite a hi n s) := issue_sound h fun t ht => by simp [ht]

theorem execDsplitWrite_sound {a : BitVec 6} {n : Ann} {s : State} (h : s.mem.wf = true) :
    soundOutcome (execDsplitWrite a n s) := issue_sound h fun t ht => by simp [ht]

theorem execDsplitDone_sound {pkg die : Nat} {s : State} (h : s.mem.wf = true) :
    soundOutcome (execDsplitDone pkg die s) := by
  simp [execDsplitDone, h]

theorem execSpill_sound {gid split : Nat} {s : State} (h : s.mem.wf = true) :
    soundOutcome (execSpill gid split s) := by
  simp [execSpill, h]

theorem execFill_sound {gid split : Nat} {s : State} (h : s.mem.wf = true) :
    soundOutcome (execFill gid split s) := by
  simp [execFill, h]

theorem execCtxrd_sound {d a : BitVec 6} {item : Word} {n : Ann} {s : State} (h : s.mem.wf = true) :
    soundOutcome (execCtxrd d a item n s) := by
  refine issue_sound h fun t ht => ?_
  simp only []
  split <;> simp [ht]

theorem execCtxwr_sound {d a : BitVec 6} {item : Word} {n : Ann} {s : State} (h : s.mem.wf = true) :
    soundOutcome (execCtxwr d a item n s) := by
  refine issue_sound h fun t ht => ?_
  simp only []
  split
  · next e =>
    obtain ⟨c, -, e⟩ := Option.bind_eq_some_iff.mp e
    simpa using State.wf_ctxPut ht e
  · simpa using ht

theorem execTlbinv_sound {d a b : BitVec 6} {n : Ann} {s : State} (h : s.mem.wf = true) :
    soundOutcome (execTlbinv d a b n s) := by
  refine issue_sound h fun t ht => ?_
  simp only []
  repeat' split
  all_goals simp [ht]

theorem execCinv_sound {a i : BitVec 6} {n : Ann} {s : State} (h : s.mem.wf = true) :
    soundOutcome (execCinv a i n s) := by
  refine issue_sound h fun t ht => ?_
  grind [Res.sound_done, Res.sound_trap, State.dropLines_mem, State.translate_mem, State.discardLine_mem,
    State.leaveNone_mem]

theorem execTkt_sound {d a b : BitVec 6} {n : Ann} {s : State} (h : s.mem.wf = true) :
    soundOutcome (execTkt d a b n s) := by
  refine issue_sound h fun t ht => ?_
  grind [Res.sound_trap, Res.sound_hold, State.acquire_mem, State.translate_mem, State.wf_storeHome,
    State.passCaches_mem, xreply_sound]

theorem execHmsg_sound {d a b : BitVec 6} {n : Ann} {s : State} (h : s.mem.wf = true) :
    soundOutcome (execHmsg d a b n s) := by
  refine issue_sound h fun t ht => ?_
  grind [Res.sound_done, Res.sound_trap, Res.sound_hold, State.acquire_mem, State.messageKeys_mem,
    State.pick_mem, xreply_sound, State.tell_mem]

theorem execHmsgTimeout_sound {cmd : Nat} {s : State} (h : s.mem.wf = true) :
    soundOutcome (execHmsgTimeout cmd s) := by
  simp only [execHmsgTimeout, soundOutcome_next]
  repeat' split
  all_goals simp [h]

theorem execSave_sound {d a b : BitVec 6} {n : Ann} {s : State} (h : s.mem.wf = true) :
    soundOutcome (execSave d a b n s) := by
  refine issue_sound h fun t ht => ?_
  grind [Res.sound_wait, State.localKeys_mem, State.modCrew_mem, xreply_sound, State.wf_finishSave, pendReply_sound]

theorem execScoreboardLand_sound {gid sb : Nat} {s : State} (h : s.mem.wf = true) :
    soundOutcome (execScoreboardLand gid sb s) := by
  simp only [execScoreboardLand, soundOutcome_next]
  split <;> simp [h]

theorem execRstr_sound {d a b : BitVec 6} {n : Ann} {s : State} (h : s.mem.wf = true) :
    soundOutcome (execRstr d a b n s) := by
  refine issue_sound h fun t ht => ?_
  grind [Res.sound_wait, rstrArea_sound, State.localKeys_mem, xreply_sound]

theorem execKick_sound {pkg ctx slot w : Nat} {s : State} (h : s.mem.wf = true) :
    soundOutcome (execKick pkg ctx slot w s) := by
  simp only [execKick, soundOutcome_next]
  split <;> simp [h]

theorem execQpush_sound {y : BitVec 1} {d a b : BitVec 6} {s : State} (h : s.mem.wf = true) :
    soundOutcome (execQpush y d a b s) := by
  refine issue_sound h fun t ht => ?_
  simp only []
  repeat' split
  all_goals simp [ht]

theorem execNopPacket_sound {pkg q : Nat} {s : State} (h : s.mem.wf = true) :
    soundOutcome (execNopPacket pkg q s) := by
  grind [execNopPacket, soundOutcome_next, State.wf_serve, State.wf_startPacket]

theorem execTimestampPacket_sound {pkg q : Nat} {s : State} (h : s.mem.wf = true) :
    soundOutcome (execTimestampPacket pkg q s) := by
  grind [execTimestampPacket, soundOutcome_next, State.wf_serve, State.wf_storeHome, State.wf_queueError,
    State.wf_startPacket, State.pktWord_mem]

theorem execWaitPacket_sound {pkg q : Nat} {s : State} (h : s.mem.wf = true) :
    soundOutcome (execWaitPacket pkg q s) := by
  grind [execWaitPacket, soundOutcome_next, State.wf_serve, State.homeAt_mem, State.wf_queueError,
    State.wf_startPacket, State.pktWord_mem]

theorem execWaitPacketPoll_sound {pkg q idx : Nat} {s : State} (h : s.mem.wf = true) :
    soundOutcome (execWaitPacketPoll pkg q idx s) := by
  grind [execWaitPacketPoll, soundOutcome_next, State.packetDone_mem, State.noteHeads_mem, State.pktWord_mem]

theorem execSignalPacket_sound {pkg q : Nat} {s : State} (h : s.mem.wf = true) :
    soundOutcome (execSignalPacket pkg q s) := by
  grind [execSignalPacket, soundOutcome_next, State.wf_signalWrite, State.wf_serve, State.pick_mem,
    State.wf_queueError, State.wf_startPacket, State.pktWord_mem]

theorem execSignalAck_sound {pkg q idx : Nat} {s : State} (h : s.mem.wf = true) :
    soundOutcome (execSignalAck pkg q idx s) := by
  simp only [execSignalAck, soundOutcome_next]
  repeat' split
  all_goals simp [h]

theorem execLaunchPacket_sound {pkg q core : Nat} {s : State} (h : s.mem.wf = true) :
    soundOutcome (execLaunchPacket pkg q core s) := by
  refine State.wf_serve (by simpa using h) fun t b ht => ?_
  have ha : (t.launchArgs pkg (t.qCtx pkg q) b 1).2.mem.wf = true := by simpa using ht
  split
  · next e => exact State.wf_queueError (State.wf_snd e ha)
  · next e =>
    have hu := State.wf_snd e ha
    exact State.wf_ite hu (State.wf_getD hu fun _ => State.wf_launchRoot hu)

theorem execGangPacket_sound {pkg q : Nat} {s : State} (h : s.mem.wf = true) :
    soundOutcome (execGangPacket pkg q s) := by
  grind [execGangPacket, soundOutcome_next, State.wf_serve, State.gangMembers_mem, State.launchArgs_mem,
    State.wf_queueError]

theorem execReserve_sound {gang part core : Nat} {s : State} (h : s.mem.wf = true) :
    soundOutcome (execReserve gang part core s) := by
  simp only [execReserve, soundOutcome_next]
  repeat' split
  all_goals simp [h]

theorem execRelease_sound {gang part : Nat} {s : State} (h : s.mem.wf = true) :
    soundOutcome (execRelease gang part s) := by
  simp only [execRelease, soundOutcome_next]
  split <;> simp [h]

theorem execHoldTimerExpiry_sound {gang part : Nat} {s : State} (h : s.mem.wf = true) :
    soundOutcome (execHoldTimerExpiry gang part s) := by
  simp only [execHoldTimerExpiry, soundOutcome_next]
  repeat' split
  all_goals simp [h]

theorem execCommit_sound {gang part : Nat} {s : State} (h : s.mem.wf = true) :
    soundOutcome (execCommit gang part s) := by
  simp only [execCommit, soundOutcome_next]
  repeat' split
  all_goals simp [h]

theorem execGangPartStart_sound {gang part : Nat} {s : State} (h : s.mem.wf = true) :
    soundOutcome (execGangPartStart gang part s) := by
  simp only [execGangPartStart, soundOutcome_next]
  split
  · exact h
  · split
    · exact h
    · refine State.wf_ite h (State.wf_ite ?_ ?_)
      · split
        · split
          · refine State.wf_ite (State.wf_getD ?_ fun _ e => State.wf_startKidAt ?_ e) ?_ <;> simpa using h
          · simpa using h
        · exact h
      · split
        · next e => simpa using State.wf_startRoot (by simpa using h) e
        · exact h

theorem execHeld_sound {gang part : Nat} {s : State} (h : s.mem.wf = true) :
    soundOutcome (execHeld gang part s) := by
  simp only [execHeld, soundOutcome_next]
  repeat' split
  all_goals simp [h]

theorem execGangNo_sound {gang part : Nat} {s : State} (h : s.mem.wf = true) :
    soundOutcome (execGangNo gang part s) := by
  simp only [execGangNo, soundOutcome_next]
  repeat' split
  all_goals simp [h]

theorem execReserveTimerExpiry_sound {gang : Nat} {s : State} (h : s.mem.wf = true) :
    soundOutcome (execReserveTimerExpiry gang s) := by
  simp only [execReserveTimerExpiry, soundOutcome_next]
  repeat' split
  all_goals simp [h]

theorem execBackoffExpiry_sound {gang : Nat} {s : State} (h : s.mem.wf = true) :
    soundOutcome (execBackoffExpiry gang s) := by
  simp only [execBackoffExpiry, soundOutcome_next]
  repeat' split
  all_goals simp [h]

theorem execRdmaWrite_sound {pkg ctx hnd off : Nat} {data : List Byte} {s : State} (h : s.mem.wf = true) :
    soundOutcome (execRdmaWrite pkg ctx hnd off data s) := by
  simp only [execRdmaWrite, soundOutcome_next]
  split
  · simpa using h
  · simpa using State.foldl_wf _ (fun _ _ ht => State.wf_storeHome ht) _ h

theorem execRdmaRead_sound {pkg ctx hnd off len : Nat} {s : State} (h : s.mem.wf = true) :
    soundOutcome (execRdmaRead pkg ctx hnd off len s) := by
  simp only [execRdmaRead, soundOutcome_next]
  repeat' split
  all_goals simp [h]

theorem execRdmaNak_sound {pkg kind : Nat} {s : State} (h : s.mem.wf = true) :
    soundOutcome (execRdmaNak pkg kind s) := by
  simp [execRdmaNak, h]

theorem execPowerOn_sound {pkg : Nat} {s : State} (h : s.mem.wf = true) : soundOutcome (execPowerOn pkg s) := by
  simp only [execPowerOn, soundOutcome_next]
  repeat' split
  all_goals simp [h]

theorem execFirmwareLoaded_sound {pkg die : Nat} {image : List Byte} {s : State} (h : s.mem.wf = true) :
    soundOutcome (execFirmwareLoaded pkg die image s) := by
  simp [execFirmwareLoaded, h]

theorem execFirmwareVerified_sound {pkg die : Nat} {s : State} (h : s.mem.wf = true) :
    soundOutcome (execFirmwareVerified pkg die s) := by
  simp only [execFirmwareVerified, soundOutcome_next]
  repeat' split
  all_goals simp [h]

theorem execStackTrainingDone_sound {pkg stack : Nat} {pass : Bool} {s : State} (h : s.mem.wf = true) :
    soundOutcome (execStackTrainingDone pkg stack pass s) := by
  refine State.wf_ite h (State.wf_updateService ?_)
  exact State.foldl_wf _ (fun _ _ ht => by simpa using ht) _ h

theorem execDieLinksUp_sound {pkg die : Nat} {s : State} (h : s.mem.wf = true) :
    soundOutcome (execDieLinksUp pkg die s) := by
  simp only [execDieLinksUp, soundOutcome_next]
  split <;> simp [h]

theorem execThermalCalibrationDone_sound {pkg : Nat} {s : State} (h : s.mem.wf = true) :
    soundOutcome (execThermalCalibrationDone pkg s) := by
  simp only [execThermalCalibrationDone, soundOutcome_next]
  split <;> simp [h]

theorem execQuery_sound {pkg : Nat} {msg : List Byte} {s : State} (h : s.mem.wf = true) :
    soundOutcome (execQuery pkg msg s) := State.wf_command h fun r hr => by
  obtain rfl := Sum.inr.inj hr
  exact h

theorem execSetp_sound {pkg : Nat} {msg : List Byte} {s : State} (h : s.mem.wf = true) :
    soundOutcome (execSetp pkg msg s) := by
  refine State.wf_command h fun r hr => ?_
  simp only [] at hr
  split at hr
  · cases hr
  · split at hr
    · cases hr
    · split at hr
      · rw [← Sum.inr.inj hr]
        exact State.wf_wipe (State.wf_endsAbsent h)
      · rw [← Sum.inr.inj hr]
        exact State.wf_ite (State.wf_endsAbsent h) h

theorem execSetfloor_sound {pkg : Nat} {msg : List Byte} {s : State} (h : s.mem.wf = true) :
    soundOutcome (execSetfloor pkg msg s) := by
  refine State.wf_command h fun r hr => ?_
  simp only [] at hr
  split at hr
  · cases hr
  · obtain rfl := Sum.inr.inj hr
    exact h

theorem execCleartrip_sound {pkg : Nat} {msg : List Byte} {s : State} (h : s.mem.wf = true) :
    soundOutcome (execCleartrip pkg msg s) := by
  refine State.wf_command (by simpa using h) fun r hr => ?_
  simp only [] at hr
  split at hr
  · cases hr
  · obtain rfl := Sum.inr.inj hr
    exact State.wf_ite (by simpa using h) (by simpa using h)

theorem execAttest_sound {pkg : Nat} {msg : List Byte} {s : State} (h : s.mem.wf = true) :
    soundOutcome (execAttest pkg msg s) := by
  refine State.wf_command h fun r hr => ?_
  split at hr
  · cases hr
  · obtain rfl := Sum.inr.inj hr
    exact h

theorem execIdkey_sound {pkg : Nat} {msg : List Byte} {s : State} (h : s.mem.wf = true) :
    soundOutcome (execIdkey pkg msg s) := by
  refine State.wf_command h fun r hr => ?_
  split at hr
  · cases hr
  · obtain rfl := Sum.inr.inj hr
    exact h

theorem execJoinmem_sound {pkg : Nat} {msg : List Byte} {s : State} (h : s.mem.wf = true) :
    soundOutcome (execJoinmem pkg msg s) := by
  refine State.wf_command h fun r hr => ?_
  split at hr
  · cases hr
  · obtain rfl := Sum.inr.inj hr
    exact State.wf_updateService (State.wf_spoil _ _ h)

theorem execThermalTrip_sound {pkg : Nat} {s : State} (h : s.mem.wf = true) :
    soundOutcome (execThermalTrip pkg s) := by
  simp only [execThermalTrip, soundOutcome_next]
  split <;> simp [h]

theorem execCoreReset_sound {pkg core : Nat} {s : State} (h : s.mem.wf = true) :
    soundOutcome (execCoreReset pkg core s) := by
  simp only [execCoreReset, soundOutcome_next]
  split <;> simp [h]

theorem execDieReset_sound {pkg die : Nat} {s : State} (h : s.mem.wf = true) :
    soundOutcome (execDieReset pkg die s) := by
  simp only [execDieReset, soundOutcome_next]
  split <;> simp [h]

theorem execPackageReset_sound {pkg : Nat} {s : State} (h : s.mem.wf = true) :
    soundOutcome (execPackageReset pkg s) := by
  simp only [execPackageReset, soundOutcome_next]
  split <;> simp [h]

theorem execPowerCycle_sound {pkg : Nat} {s : State} (h : s.mem.wf = true) :
    soundOutcome (execPowerCycle pkg s) := by
  simp only [execPowerCycle, soundOutcome_next]
  split <;> simp [h]

theorem execSoftError_sound {kind addr idx : Nat} {corrected : Bool} {s : State} (h : s.mem.wf = true) :
    soundOutcome (execSoftError kind addr idx corrected s) := by
  simp only [execSoftError, soundOutcome_next]
  repeat' split
  all_goals simp [h]

theorem execShfl_sound {d a b : BitVec 6} {n : Ann} {s : State} (h : s.mem.wf = true) :
    soundOutcome (execShfl d a b n s) := issueG_sound h

theorem execVote_sound {d : BitVec 6} {a : BitVec 3} {n : Ann} {s : State} (h : s.mem.wf = true) :
    soundOutcome (execVote d a n s) := issueG_sound h

theorem execLred_sound {d a i : BitVec 6} {n : Ann} {s : State} (h : s.mem.wf = true) :
    soundOutcome (execLred d a i n s) := by
  unfold execLred
  exact issueG_sound h

theorem execLscan_sound {d a i : BitVec 6} {n : Ann} {s : State} (h : s.mem.wf = true) :
    soundOutcome (execLscan d a i n s) := by
  unfold execLscan
  exact issueG_sound h

theorem execMatchV_sound {d a : BitVec 6} {n : Ann} {s : State} (h : s.mem.wf = true) :
    soundOutcome (execMatchV d a n s) := issueG_sound h

theorem execCompact_sound {d a : BitVec 6} {n : Ann} {s : State} (h : s.mem.wf = true) :
    soundOutcome (execCompact d a n s) := issueG_sound h

theorem execRegroup_sound {d : BitVec 3} {a b : BitVec 6} {n : Ann} {s : State} (h : s.mem.wf = true) :
    soundOutcome (execRegroup d a b n s) := by
  refine issue_sound h fun t ht => ?_
  simp only []
  repeat' split
  all_goals simp [ht]

theorem execQblk_sound {d a b : BitVec 6} {n : Ann} {s : State} (h : s.mem.wf = true) :
    soundOutcome (execQblk d a b n s) := by
  refine issue_sound h fun t ht => ?_
  simp only []
  split
  · refine Res.sound_ite ht ?_
    split
    · next e => exact (State.wf_qperm ht e :)
    · trivial
    · trivial
  · exact ht

theorem execQcvt_sound {d a b : BitVec 6} {n : Ann} {s : State} (h : s.mem.wf = true) :
    soundOutcome (execQcvt d a b n s) := by
  refine issue_sound h fun t ht => ?_
  simp only []
  split <;> simp [ht]

theorem execPlsplit_sound {d a : BitVec 6} {i : BitVec 2} {n : Ann} {s : State} (h : s.mem.wf = true) :
    soundOutcome (execPlsplit d a i n s) := by
  refine issue_sound h fun t ht => ?_
  simp only []
  split <;> simp [ht]

theorem execPljoin_sound {d a b : BitVec 6} {n : Ann} {s : State} (h : s.mem.wf = true) :
    soundOutcome (execPljoin d a b n s) := by
  refine issue_sound h fun t ht => ?_
  simp only []
  split <;> simp [ht]

theorem execSadd_sound {d a b : BitVec 6} {n : Ann} {s : State} (h : s.mem.wf = true) :
    soundOutcome (execSadd d a b n s) := scalar_sound h

theorem execSsub_sound {d a b : BitVec 6} {n : Ann} {s : State} (h : s.mem.wf = true) :
    soundOutcome (execSsub d a b n s) := scalar_sound h

theorem execSmul_sound {d a b : BitVec 6} {n : Ann} {s : State} (h : s.mem.wf = true) :
    soundOutcome (execSmul d a b n s) := scalar_sound h

theorem execSand_sound {d a b : BitVec 6} {n : Ann} {s : State} (h : s.mem.wf = true) :
    soundOutcome (execSand d a b n s) := scalar_sound h

theorem execSor_sound {d a b : BitVec 6} {n : Ann} {s : State} (h : s.mem.wf = true) :
    soundOutcome (execSor d a b n s) := scalar_sound h

theorem execSxor_sound {d a b : BitVec 6} {n : Ann} {s : State} (h : s.mem.wf = true) :
    soundOutcome (execSxor d a b n s) := scalar_sound h

theorem execSshl_sound {d a b : BitVec 6} {n : Ann} {s : State} (h : s.mem.wf = true) :
    soundOutcome (execSshl d a b n s) := scalar_sound h

theorem execSshr_sound {d a b : BitVec 6} {n : Ann} {s : State} (h : s.mem.wf = true) :
    soundOutcome (execSshr d a b n s) := scalar_sound h

theorem execSmovSS_sound {d a : BitVec 6} {n : Ann} {s : State} (h : s.mem.wf = true) :
    soundOutcome (execSmovSS d a n s) := scalar_sound h

theorem execSmovFS_sound {d : BitVec 3} {a : BitVec 6} {n : Ann} {s : State} (h : s.mem.wf = true) :
    soundOutcome (execSmovFS d a n s) := issueG_sound h

theorem execSmovSF_sound {d : BitVec 6} {a : BitVec 3} {n : Ann} {s : State} (h : s.mem.wf = true) :
    soundOutcome (execSmovSF d a n s) := scalar_sound h

theorem execSlitS_sound {d : BitVec 6} {x : Word} {n : Ann} {s : State} (h : s.mem.wf = true) :
    soundOutcome (execSlitS d x n s) := scalar_sound h

theorem execSlitF_sound {d : BitVec 3} {x : Word} {n : Ann} {s : State} (h : s.mem.wf = true) :
    soundOutcome (execSlitF d x n s) := issueG_sound h

theorem execScmp_sound {d : BitVec 3} {a b : BitVec 6} {fn : BitVec 4} {n : Ann} {s : State}
    (h : s.mem.wf = true) : soundOutcome (execScmp d a b fn n s) := issueG_sound h

theorem execPand_sound {d a b : BitVec 3} {n : Ann} {s : State} (h : s.mem.wf = true) :
    soundOutcome (execPand d a b n s) := predOp_sound h

theorem execPor_sound {d a b : BitVec 3} {n : Ann} {s : State} (h : s.mem.wf = true) :
    soundOutcome (execPor d a b n s) := predOp_sound h

theorem execPxor_sound {d a b : BitVec 3} {n : Ann} {s : State} (h : s.mem.wf = true) :
    soundOutcome (execPxor d a b n s) := predOp_sound h

theorem execPnot_sound {d a : BitVec 3} {n : Ann} {s : State} (h : s.mem.wf = true) :
    soundOutcome (execPnot d a n s) := predOp_sound h

theorem execPmov_sound {d a : BitVec 3} {n : Ann} {s : State} (h : s.mem.wf = true) :
    soundOutcome (execPmov d a n s) := predOp_sound h

theorem exec_sound (i : Instr) {s : State} (h : s.mem.wf = true) : soundOutcome (exec i s) := by
  cases i with
  | nop => exact execNop_sound h
  | yield => exact execYield_sound h
  | setm => exact execSetm_sound h
  | setmh => exact execSetmh_sound h
  | getm => exact execGetm_sound h
  | gets => exact execGets_sound h
  | braJ => exact execBraJ_sound h
  | braL => exact execBraL_sound h
  | brx => exact execBrx_sound h
  | call => exact execCall_sound h
  | callx => exact execCallx_sound h
  | ret => exact execRet_sound h
  | exit => exact execExit_sound h
  | trap => exact execTrap_sound h
  | brk => exact execBrk_sound h
  | wait => exact execWait_sound h
  | sleep => exact execSleep_sound h
  | phint => exact execPhint_sound h
  | iadd => exact execIadd_sound h
  | isub => exact execIsub_sound h
  | iaddc => exact execIaddc_sound h
  | imul => exact execImul_sound h
  | imulh => exact execImulh_sound h
  | imad => exact execImad_sound h
  | ineg => exact execIneg_sound h
  | iabs => exact execIabs_sound h
  | imin => exact execImin_sound h
  | imax => exact execImax_sound h
  | and => exact execAnd_sound h
  | or => exact execOr_sound h
  | xor => exact execXor_sound h
  | andn => exact execAndn_sound h
  | not => exact execNot_sound h
  | shlR => exact execShlR_sound h
  | shrR => exact execShrR_sound h
  | shaR => exact execShaR_sound h
  | rolR => exact execRolR_sound h
  | shlI => exact execShlI_sound h
  | shrI => exact execShrI_sound h
  | shaI => exact execShaI_sound h
  | rolI => exact execRolI_sound h
  | fsh => exact execFsh_sound h
  | popc => exact execPopc_sound h
  | clz => exact execClz_sound h
  | brev => exact execBrev_sound h
  | bfx => exact execBfx_sound h
  | bfi => exact execBfi_sound h
  | bperm => exact execBperm_sound h
  | sel => exact execSel_sound h
  | icmp => exact execIcmp_sound h
  | iaddi => exact execIaddi_sound h
  | mov => exact execMov_sound h
  | movi => exact execMovi_sound h
  | lit => exact execLit_sound h
  | movs => exact execMovs_sound h
  | movv => exact execMovv_sound h
  | lea => exact execLea_sound h
  | sadd => exact execSadd_sound h
  | ssub => exact execSsub_sound h
  | smul => exact execSmul_sound h
  | sand => exact execSand_sound h
  | sor => exact execSor_sound h
  | sxor => exact execSxor_sound h
  | sshl => exact execSshl_sound h
  | sshr => exact execSshr_sound h
  | scmp => exact execScmp_sound h
  | smovSS => exact execSmovSS_sound h
  | smovFS => exact execSmovFS_sound h
  | smovSF => exact execSmovSF_sound h
  | slitS => exact execSlitS_sound h
  | slitF => exact execSlitF_sound h
  | pand => exact execPand_sound h
  | por => exact execPor_sound h
  | pxor => exact execPxor_sound h
  | pnot => exact execPnot_sound h
  | pmov => exact execPmov_sound h
  | shfl => exact execShfl_sound h
  | vote => exact execVote_sound h
  | lred => exact execLred_sound h
  | lscan => exact execLscan_sound h
  | matchV => exact execMatchV_sound h
  | compact => exact execCompact_sound h
  | regroup => exact execRegroup_sound h
  | fadd => exact execFadd_sound h
  | fsub => exact execFsub_sound h
  | fmul => exact execFmul_sound h
  | ffma => exact execFfma_sound h
  | fmin => exact execFmin_sound h
  | fmax => exact execFmax_sound h
  | fminn => exact execFminn_sound h
  | fmaxn => exact execFmaxn_sound h
  | fabs => exact execFabs_sound h
  | fneg => exact execFneg_sound h
  | fcmp => exact execFcmp_sound h
  | frcp => exact execFrcp_sound h
  | frsq => exact execFrsq_sound h
  | fsqrt => exact execFsqrt_sound h
  | fex2 => exact execFex2_sound h
  | flg2 => exact execFlg2_sound h
  | fsin => exact execFsin_sound h
  | fcos => exact execFcos_sound h
  | ftanh => exact execFtanh_sound h
  | fscl => exact execFscl_sound h
  | frnd => exact execFrnd_sound h
  | fcls => exact execFcls_sound h
  | fcvt => exact execFcvt_sound h
  | icvt => exact execIcvt_sound h
  | tsum => exact execTsum_sound h
  | tprd => exact execTprd_sound h
  | cmul => exact execCmul_sound h
  | cfma => exact execCfma_sound h
  | dot2 => exact execDot2_sound h
  | h2add => exact execH2add_sound h
  | h2mul => exact execH2mul_sound h
  | h2fma => exact execH2fma_sound h
  | qblk => exact execQblk_sound h
  | qcvt => exact execQcvt_sound h
  | plsplit => exact execPlsplit_sound h
  | pljoin => exact execPljoin_sound h
  | ldI => exact execLdI_sound h
  | ldL => exact execLdL_sound h
  | stI => exact execStI_sound h
  | stL => exact execStL_sound h
  | ldl => exact execLdl_sound h
  | stl => exact execStl_sound h
  | atom => exact execAtom_sound h
  | atomc => exact execAtomc_sound h
  | red => exact execRed_sound h
  | fence => exact execFence_sound h
  | cctl => exact execCctl_sound h
  | lalloc => exact execLalloc_sound h
  | lfree => exact execLfree_sound h
  | tlmake => exact execTlmake_sound h
  | tldrop => exact execTldrop_sound h
  | tlqry => exact execTlqry_sound h
  | binit => exact execBinit_sound h
  | blink => exact execBlink_sound h
  | bara => exact execBara_sound h
  | barw => exact execBarw_sound h
  | baraw => exact execBaraw_sound h
  | bart => exact execBart_sound h
  | barx => exact execBarx_sound h
  | push => exact execPush_sound h
  | pushr => exact execPushr_sound h
  | pop => exact execPop_sound h
  | peek => exact execPeek_sound h
  | pqry => exact execPqry_sound h
  | plink => exact execPlink_sound h
  | plinkUnlink => exact execPlinkUnlink_sound h
  | tret => exact execTret_sound h
  | csrr => exact execCsrr_sound h
  | csrw => exact execCsrw_sound h
  | ctxrd => exact execCtxrd_sound h
  | ctxwr => exact execCtxwr_sound h
  | save => exact execSave_sound h
  | rstr => exact execRstr_sound h
  | haltcr => exact execHaltcr_sound h
  | resume => exact execResume_sound h
  | killcr => exact execKillcr_sound h
  | tlbinv => exact execTlbinv_sound h
  | cinv => exact execCinv_sound h
  | tkt => exact execTkt_sound h
  | hmsg => exact execHmsg_sound h
  | idle => exact execIdle_sound h
  | mcopy => exact execMcopy_sound h
  | ucopy => exact execUcopy_sound h
  | gcopy => exact execGcopy_sound h
  | reduce => exact execReduce_sound h
  | cqry => exact execCqry_sound h
  | vinit => exact execVinit_sound h
  | vtake => exact execVtake_sound h
  | vput => exact execVput_sound h
  | vqry => exact execVqry_sound h
  | sfill => exact execSfill_sound h
  | sdrain => exact execSdrain_sound h
  | sstop => exact execSstop_sound h
  | mma => exact execMma_sound h
  | mmac => exact execMmac_sound h
  | mfence => exact execMfence_sound h
  | mwait => exact execMwait_sound h
  | mqry => exact execMqry_sound h
  | celget => exact execCelget_sound h
  | celpin => exact execCelpin_sound h
  | celfree => exact execCelfree_sound h
  | celfreeEvict => exact execCelfreeEvict_sound h
  | celld => exact execCelld_sound h
  | celst => exact execCelst_sound h
  | celz => exact execCelz_sound h
  | delta => exact execDelta_sound h
  | dqry => exact execDqry_sound h
  | agset => exact execAgset_sound h
  | agfree => exact execAgfree_sound h
  | mst => exact execMst_sound h
  | mldr => exact execMldr_sound h
  | coll => exact execColl_sound h
  | collw => exact execCollw_sound h
  | flush => exact execFlush_sound h
  | launch => exact execLaunch_sound h
  | launchd => exact execLaunchd_sound h
  | join => exact execJoin_sound h
  | joinall => exact execJoinall_sound h
  | tileq => exact execTileq_sound h
  | cancel => exact execCancel_sound h
  | qpush => exact execQpush_sound h
  | timeq => exact execTimeq_sound h
  | tsig => exact execTsig_sound h
  | scoreboardLand => exact execScoreboardLand_sound h
  | storeQueueDrain => exact execStoreQueueDrain_sound h
  | storeAck => exact execStoreAck_sound h
  | remoteAccess => exact execRemoteAccess_sound h
  | fabricResponse => exact execFabricResponse_sound h
  | impreciseFault => exact execImpreciseFault_sound h
  | spill => exact execSpill_sound h
  | fill => exact execFill_sound h
  | haltComplete => exact execHaltComplete_sound h
  | eventDelivery => exact execEventDelivery_sound h
  | preqWrite => exact execPreqWrite_sound h
  | graceExpiry => exact execGraceExpiry_sound h
  | watchdog => exact execWatchdog_sound h
  | dsplitWrite => exact execDsplitWrite_sound h
  | dsplitDone => exact execDsplitDone_sound h
  | timelRead => exact execTimelRead_sound h
  | ctxerrRead => exact execCtxerrRead_sound h
  | childStart => exact execChildStart_sound h
  | dependenceEntry => exact execDependenceEntry_sound h
  | childRelaunch => exact execChildRelaunch_sound h
  | tileComplete => exact execTileComplete_sound h
  | sleepWake => exact execSleepWake_sound h
  | tsigFire => exact execTsigFire_sound h
  | copyArrival => exact execCopyArrival_sound h
  | streamSlotDone => exact execStreamSlotDone_sound h
  | streamFault => exact execStreamFault_sound h
  | matrixArrival => exact execMatrixArrival_sound h
  | portValueLand => exact execPortValueLand_sound h
  | portPark => exact execPortPark_sound h
  | portDeadlock => exact execPortDeadlock_sound h
  | fabricArrival => exact execFabricArrival_sound h
  | switchContribution => exact execSwitchContribution_sound h
  | tupleTimeout => exact execTupleTimeout_sound h
  | collStepTimeout => exact execCollStepTimeout_sound h
  | fabricPacketExpiry => exact execFabricPacketExpiry_sound h
  | linkFailure => exact execLinkFailure_sound h
  | kick => exact execKick_sound h
  | nopPacket => exact execNopPacket_sound h
  | launchPacket => exact execLaunchPacket_sound h
  | gangPacket => exact execGangPacket_sound h
  | waitPacket => exact execWaitPacket_sound h
  | waitPacketPoll => exact execWaitPacketPoll_sound h
  | signalPacket => exact execSignalPacket_sound h
  | signalAck => exact execSignalAck_sound h
  | timestampPacket => exact execTimestampPacket_sound h
  | reserve => exact execReserve_sound h
  | held => exact execHeld_sound h
  | gangNo => exact execGangNo_sound h
  | commit => exact execCommit_sound h
  | release => exact execRelease_sound h
  | reserveTimerExpiry => exact execReserveTimerExpiry_sound h
  | holdTimerExpiry => exact execHoldTimerExpiry_sound h
  | backoffExpiry => exact execBackoffExpiry_sound h
  | gangPartStart => exact execGangPartStart_sound h
  | rdmaWrite => exact execRdmaWrite_sound h
  | rdmaRead => exact execRdmaRead_sound h
  | rdmaNak => exact execRdmaNak_sound h
  | hmsgTimeout => exact execHmsgTimeout_sound h
  | query => exact execQuery_sound h
  | setp => exact execSetp_sound h
  | setfloor => exact execSetfloor_sound h
  | cleartrip => exact execCleartrip_sound h
  | attest => exact execAttest_sound h
  | idkey => exact execIdkey_sound h
  | joinmem => exact execJoinmem_sound h
  | thermalTrip => exact execThermalTrip_sound h
  | powerOn => exact execPowerOn_sound h
  | firmwareLoaded => exact execFirmwareLoaded_sound h
  | firmwareVerified => exact execFirmwareVerified_sound h
  | stackTrainingDone => exact execStackTrainingDone_sound h
  | dieLinksUp => exact execDieLinksUp_sound h
  | thermalCalibrationDone => exact execThermalCalibrationDone_sound h
  | coreReset => exact execCoreReset_sound h
  | dieReset => exact execDieReset_sound h
  | packageReset => exact execPackageReset_sound h
  | powerCycle => exact execPowerCycle_sound h
  | softError => exact execSoftError_sound h
  | podTimeSyncChange => exact execPodTimeSyncChange_sound h
  | packageReachable => exact execPackageReachable_sound h

theorem act_sound (a : Act) {s : State} (h : s.mem.wf = true) : soundOutcome (act s a) := by
  cases a with
  | pass => exact h
  | event i =>
    simp only [act]
    split
    · exact exec_sound i h
    · exact h
  | issue gid idx =>
    simp only [act]
    split
    · have hi : (s.onSplit gid idx).issued.2.mem.wf = true := by simpa using h
      split
      · next e => exact exec_sound _ (State.wf_snd e hi)
      · next e => simpa using State.wf_snd e hi
    · exact h

theorem step_soundOutcome {s : State} (h : s.mem.wf = true) : soundOutcome (step s) := by
  simp only [step]
  split
  · exact act_sound _ h
  · next e =>
    have ha : s.anyTurn.2.mem.wf = true := by simpa using h
    exact act_sound _ ha

/-- Settles O60: every instruction and event keeps the memory canonical, so every turn of the agenda does. -/
theorem stepKeepsSound : Obligations.StepKeepsSound := by
  intro s hs
  have ht := step_soundOutcome hs
  unfold soundStep
  cases e : step s with
  | next t => exact (e ▸ ht : soundOutcome (.next t))
  | fault _ => trivial
  | refused _ => trivial

end Sys2Proof.Machine
end

section
/-! PROOF. A step runs what the words at the PC decode to, or takes their trap (O57). -/

namespace Sys2Proof.Machine

theorem step_of_turn {s : State} {dt : Nat} {a : Act} {rest : List Turn} (h : s.agenda = ⟨dt, a⟩ :: rest) :
    step s = act { s with agenda := rest, time := s.time + dt } a := by
  simp only [step, h]

theorem act_event {i : Instr} (h : i.isEvent = true) (s : State) : act s (.event i) = exec i s := by
  simp only [act, h, if_true]

/-- The turn of a split that may issue: its instruction, or its trap. -/
theorem act_issue {s : State} {gid idx : Nat} (h : (s.onSplit gid idx).g.id = gid ∧ (s.onSplit gid idx).canIssue = true) :
    (∀ i t, (s.onSplit gid idx).issued = (.inl i, t) → act s (.issue gid idx) = exec i t) ∧
    ∀ c t, (s.onSplit gid idx).issued = (.inr c, t) → act s (.issue gid idx) = .next (t.takeTrap c 0 t.g.lowLane) := by
  simp only [act, if_pos h]
  exact ⟨fun i t e => by rw [e], fun c t e => by rw [e]⟩

theorem act_issue_idle {s : State} {gid idx : Nat} (h : ¬ ((s.onSplit gid idx).g.id = gid ∧ (s.onSplit gid idx).canIssue = true)) :
    act s (.issue gid idx) = .next s := by
  simp only [act, if_neg h]

theorem State.issued_of_trap {s t : State} {c : Nat} (h : s.fetch = (.trap c, t)) : s.issued = (.inr c, t) := by
  simp only [State.issued, h]

theorem State.issued_of_ok {s t : State} {w l1 l2 : Word} {i : Instr} (h : s.fetch = (.words w l1 l2, t))
    (hd : decode t.g.priv w l1 l2 = .ok i) : s.issued = (.inl i, t) := by
  simp only [State.issued, h, hd]

theorem State.issued_of_illegal {s t : State} {w l1 l2 : Word} (h : s.fetch = (.words w l1 l2, t))
    (hd : decode t.g.priv w l1 l2 = .error .illegal) : s.issued = (.inr 0x01, t) := by
  simp only [State.issued, h, hd]

theorem State.issued_of_priv {s t : State} {w l1 l2 : Word} (h : s.fetch = (.words w l1 l2, t))
    (hd : decode t.g.priv w l1 l2 = .error .priv) (hp : t.g.priv = false) : s.issued = (.inr 0x02, t) := by
  rw [State.issued, h]
  simp only [hd]
  rw [hp]
  rfl

/-- A 4-byte word of memory, lowest byte first. -/
theorem State.num_four (s : State) (k : Nat) :
    s.num k 4 = (s.byte k).toNat + 2 ^ 8 * (s.byte (k + 1)).toNat + 2 ^ 16 * (s.byte (k + 2)).toNat +
      2 ^ 24 * (s.byte (k + 3)).toNat := by
  have hr : List.range 4 = [0, 1, 2, 3] := rfl
  simp only [State.num, State.bytes, hr, List.map_cons, List.map_nil, natOf, Nat.add_zero]
  omega

theorem State.fetchWord_home {s : State} {pc pkg off pa : Nat} (hpl : s.place s.g pc = some (.home pkg off)) (hpc : pc % 4 = 0)
    (ht : (s.translate pkg s.g.ctx off 4).1 = some pa)
    (hp : (s.translate pkg s.g.ctx off 4).2.poisonedAt (keyPkg pkg pa) 4 = false) :
    (s.fetchWord pc).1 = .inl (BitVec.ofNat 32 ((s.translate pkg s.g.ctx off 4).2.num (keyPkg pkg pa) 4)) := by
  obtain ⟨t, hx⟩ : ∃ t, s.translate pkg s.g.ctx off 4 = (some pa, t) := ⟨_, Prod.ext ht rfl⟩
  rw [hx] at hp ⊢
  simp [State.fetchWord, hpl, hpc, hx, hp]

/-- Settles O57: the turn's act is unfolded once for each thing the split can have issued. -/
theorem stepRunsDecoded : Obligations.StepRunsDecoded := by
  refine ⟨fun s dt gid idx rest ha => ?_, fun s dt i rest ha hi => ?_, fun s pc pkg off pa hpl hpc ht hp => ?_⟩
  · simp only [step_of_turn ha]
    refine ⟨fun hc => ⟨fun w l1 l2 t' hf => ⟨fun i hd => ?_, fun hd => ?_, fun hd hp => ?_⟩, fun c t' hf => ?_⟩, act_issue_idle⟩
    · exact (act_issue hc).1 _ _ (State.issued_of_ok hf hd)
    · exact (act_issue hc).2 _ _ (State.issued_of_illegal hf hd)
    · exact (act_issue hc).2 _ _ (State.issued_of_priv hf hd hp)
    · exact (act_issue hc).2 _ _ (State.issued_of_trap hf)
  · rw [step_of_turn ha, act_event hi]
  · exact (State.fetchWord_home hpl hpc ht hp).trans (congrArg (fun n => Sum.inl (BitVec.ofNat 32 n)) (State.num_four _ _))

end Sys2Proof.Machine
end
